-- ==== Sys2Proof/Word.lean ====
section
/-! DEFINITION. Sys2Proof/Word.lean: the word types of the device (00 R1 to R4). -/

namespace Sys2Proof

/-- A register of a lane, an instruction word (01 R13, 06 R133). -/
abbrev W32 := BitVec 32

/-- A 64-bit operand, a privileged register, a record word (06 R145, 14 R295). -/
abbrev W64 := BitVec 64

/-- The smallest addressable unit (00 R4). -/
abbrev Byte := BitVec 8

end Sys2Proof
end

