-- ==== Sys2Proof/Machine/Bits.lean ====
section
/-! DEFINITION. Sys2Proof/Machine/Bits.lean: bit fields, packed elements, bytes and address folds. -/

namespace Sys2Proof.Machine

/-- Bits `hi` to `lo` of a number. -/
def fld (w hi lo : Nat) : Nat := w / 2 ^ lo % 2 ^ (hi + 1 - lo)

/-- Bit `n` of a number. -/
def bitN (w n : Nat) : Bool := w / 2 ^ n % 2 = 1

/-- The low word of a 64-bit value, and the high word. -/
def lo32 (w : W64) : W32 := w.setWidth 32
def hi32 (w : W64) : W32 := (w >>> 32).setWidth 32

/-- A 64-bit value from its words (06 R145). -/
def pair64 (lo hi : W32) : W64 := hi ++ lo

/-- Bytes of a word, lowest address first (00 R4). -/
def bytesOf (n : Nat) (w : Nat) : List Byte :=
  match n with
  | 0 => []
  | k + 1 => BitVec.ofNat 8 w :: bytesOf k (w / 256)

/-- The number whose bytes, lowest address first, these are. -/
def ofBytes : List Byte → Nat
  | [] => 0
  | b :: bs => b.toNat + 256 * ofBytes bs

/-- XOR of the w-bit groups of a line number (04 R87). -/
def foldGo (w : Nat) : Nat → Nat → Nat
  | 0, _ => 0
  | k + 1, x => Nat.xor (x % 2 ^ w) (foldGo w k (x / 2 ^ w))

/-- fold(x, w): bits above 45 read as zero (04 R87). -/
def foldBits (x w : Nat) : Nat := foldGo w (46 / w + 1) (x % 2 ^ 46)

/-- Sign extension of the low n bits, as an integer. -/
def sext (n : Nat) (x : Nat) : Int :=
  let y := x % 2 ^ n
  if y / 2 ^ (n - 1) = 1 then (y : Int) - (2 ^ n : Nat) else y

/-- An integer modulo 2^n. -/
def wrapNat (n : Nat) (x : Int) : Nat := (x % (2 ^ n : Nat)).toNat

def rotl (n : Nat) (x m : Nat) : Nat := (x * 2 ^ m + x / 2 ^ (n - m)) % 2 ^ n

/-- The bits set in a mask, rising. -/
def bitList (n m : Nat) : List Nat := (List.range n).filter (bitN m)

/-- The mask of a list of bit numbers. -/
def maskOf (l : List Nat) : Nat := l.foldl (fun m j => Nat.lor m (2 ^ j)) 0

def maxN (a b : Nat) : Nat := if a ≤ b then b else a
def minN (a b : Nat) : Nat := if a ≤ b then a else b

/-- The least element of a list by a number, the first among equals. -/
def leastBy {α : Type} (f : α → Nat) : List α → Option α
  | [] => none
  | a :: as =>
    match leastBy f as with
    | none => some a
    | some b => if f a ≤ f b then some a else some b

end Sys2Proof.Machine
end

