-- ==== Sys2Proof/Config.lean ====
section
/-! DEFINITION. Sys2Proof/Config.lean: what one device fixes and the values the spec leaves open. The opaque constants have
no body: nothing can evaluate them or prove a value of them. -/

namespace Sys2Proof.Config

/-- Contents of main-file register `reg` of a seat whose storage the spec calls undefined, for the seat's epoch
(07 R172, 02 R31; log 3). -/
opaque undefWord (epoch reg : Nat) : W32

/-- The `n`-th word of the device's entropy source, SSEL 10 (05 Table 5.2; log 5). -/
opaque entropy (n : Nat) : W32

/-- The bits the part returns for approximate function `fn` of operand `x`, where they keep within the bound of 09 Table 9.5
(09 R201; log 4). -/
opaque approxBits (fn : Nat) (x : W32) : W32

/-- The scale byte of a block whose element format has no finite value but zero, so that R125's quotient by M_F has no value
(05 R125; log 16), for the format descriptor. -/
opaque openScale (fmt : Nat) : Byte

/-- The private key that signs attestation reports, before it is brought into the range of such keys (17 R354; log 19). -/
opaque attestKey : Nat

/-- The secret number of an attestation report's signature, for its digest (17 R354; log 19). -/
opaque attestNonce (digest : BitVec 384) : Nat

/-- The key that signs the firmware of the device right after reset, as its bytes x and y with the highest byte first, its SHA-384, which the fuses
hold, and its signature over the SHA-384 of an empty image (DESIGN CHOICE, log 41). -/
def bootKey : Nat :=
  0x2c1202a58b631208a8064e9c9fc08f8d79320a7d93146657349fb5432d9d296c972b01d670da92459037bbb8ff1d59564b02dca0d7895d6f9171f416583e8869238c1735d068886415e5f430f3085f387ffec493857f3555ad767eb22fe9ea49
def bootKeyHash : BitVec 384 :=
  0x463486762b6837689fc7e5dc69e021728e6cb991a63861ae175e720686aa5e23435af6fbf0bcb0635311ffc34c842b9d
def bootSig : BitVec 768 :=
  0x9f30376ea574fe02cfce504b421d71eace46c14e88b3baa827952aa0d6228e1940717cab437f15ac84983e52aef540d21107460c09c5d955bc545d5e63d6c62b098030d8f1754bc3bdef8f52f78cf7bcd8241b7d08707c3e7a25cdc098791158

end Sys2Proof.Config
end

