-- ==== Sys2Proof/Syntax.lean ====
section
/-! DEFINITION. Sys2Proof/Syntax.lean: the instructions and events of the device. One constructor of Instr for each
row of the opcode table: the clause header and NOP, the base forms, the extended forms (names ending in Ext where a base
form exists), and the events that no instruction word names, each with what it acts on. -/

namespace Sys2Proof

/-! ## Operands (06 Tables 6.3, 6.5, 6.6) -/

/-- The read-only specials, codes 744 to 760 (06 Table 6.6). -/
inductive Special where
  | lane | itemLo | itemHi | table | tix | hand | core | die | kern | age | suit | mask | ctx | gen | clkLo | clkHi | psum
deriving DecidableEq, Repr

/-- The FP32 constants, 7-bit codes 120 to 123 (06 Table 6.3). -/
inductive FConst where
  | one | two | half | negOne
deriving DecidableEq, Repr

/-- A source operand (06 R136, R141, R142). -/
inductive Src where
  /-- main-file register, or the first of a pair or quad -/
  | v (n : Nat)
  /-- operand-file register -/
  | o (n : Nat)
  /-- last-result slot -/
  | l (n : Nat)
  | zero
  /-- kernel register -/
  | k (n : Nat)
  /-- predicate, read as 0 or 1 -/
  | p (n : Nat)
  | spec (x : Special)
  /-- inline integer, −128 to 127; the 7-bit integer constants are the inline integers 1, 2, 4 and −1 -/
  | imm (i : Int)
  /-- FP32 constant of a base form -/
  | fc (c : FConst)
  /-- 64-bit literal, only as operand B -/
  | lit (w : W64)
deriving DecidableEq, Repr

/-- A destination operand (06 R144). -/
inductive Dst where
  | v (n : Nat)
  | o (n : Nat)
  /-- code 658: the result is discarded -/
  | none
deriving DecidableEq, Repr

/-- The guard of an instruction: predicate number and negation (06 R140). -/
structure Grd where
  p : Nat
  neg : Bool
deriving DecidableEq, Repr

/-- The guard p7, not negated. -/
def Grd.always : Grd := { p := 7, neg := false }

/-- A range of main-file registers; a range of length 0 has no first register (07 R170). -/
structure Rng where
  start : Nat
  len : Nat
deriving DecidableEq, Repr

/-! ## Modifiers -/

/-- Element size of integer instructions (06 Table 6.10). -/
inductive ISize where
  | w32 | w16 | w8
deriving DecidableEq, Repr

/-- Integer type: element size and signedness (06 Table 6.10). -/
structure ITy where
  size : ISize
  sgn : Bool
deriving DecidableEq, Repr

/-- Rounding field RND (05 Table 5.3); `mode` is code 000, which takes MODE.RND. -/
inductive Rnd where
  | mode | rne | rtz | rup | rdn | rna | rs
deriving DecidableEq, Repr

/-- Integer compare codes (08 R190). -/
inductive ICc where
  | eq | ne | lt | le | gt | ge
deriving DecidableEq, Repr

/-- Floating compare codes (09 Table 9.3). -/
inductive FCc where
  | eq | ne | lt | le | gt | ge | num | nan
deriving DecidableEq, Repr

/-- Vector formats in the SRC and DST fields of conversions (09 R193). -/
inductive VFmt where
  | f32 | f16 | bf16
deriving DecidableEq, Repr

/-- Planes of PSPLIT and PJOIN (09 R193). -/
inductive Plane where
  | p8 | p4 | p2 | p1
deriving DecidableEq, Repr

/-- Scope of a collective (10 R213). -/
inductive Scope where
  | suit | tbl
deriving DecidableEq, Repr

/-- The MOD fields common to the lane class (10 R213). -/
structure Coll where
  pen : Bool
  pd : Nat
  msk : Bool
  scope : Scope
deriving DecidableEq, Repr

inductive ShflMode where
  | idx | up | down | xor
deriving DecidableEq, Repr

inductive VoteMode where
  | all | any | uni | ballot
deriving DecidableEq, Repr

/-- Reduction operations (10 Table 10.3). -/
inductive RedOp where
  | add | minz | mins | maxz | maxs | and | or | xor | fadd | fmin | fmax | add64
deriving DecidableEq, Repr

/-- Segments (04 Table 4.2). -/
inductive Seg where
  | gl | kc | tl | ep | sc
deriving DecidableEq, Repr

/-- Cache policies (04 Table 4.4). -/
inductive Pol where
  | shared | core | stream
deriving DecidableEq, Repr

/-- Access sizes (06 R162). -/
inductive ASize where
  | b8 | b16 | b32 | b64 | b128
deriving DecidableEq, Repr

/-- Segment, policy and displacement of a lane access (11 Table 11.2). -/
structure MemOp where
  seg : Seg
  pol : Pol
  disp : BitVec 20
deriving DecidableEq, Repr

/-- Atomic operations (11 Table 11.4). -/
inductive AtomOp where
  | xchg | add | minz | mins | maxz | maxs | and | or | xor | incw | fadd | fmin | fmax | bfadd2
deriving DecidableEq, Repr

/-- Formats of SCVT (12 Table 12.5). -/
inductive CvtFmt where
  | f32 | f16 | bf16 | nar
deriving DecidableEq, Repr

/-- Output formats of MDRAIN and MDST (13 R264). -/
inductive OFmt where
  | f32 | bf16 | f16 | nar
deriving DecidableEq, Repr

/-- The fields MMA and MMAG share (13 Table 13.4). -/
structure MmaF where
  team : Bool
  tile : Nat
  fa : Nat
  fb : Nat
  km1 : Nat
deriving DecidableEq, Repr

/-! ## What events act on -/

structure CoreRef where
  die : Nat
  core : Nat
deriving DecidableEq, Repr

structure HandRef where
  die : Nat
  core : Nat
  hand : Nat
deriving DecidableEq, Repr

/-- A suit slot of a hand (02 R32). -/
structure SuitRef where
  die : Nat
  core : Nat
  hand : Nat
  suit : Nat
deriving DecidableEq, Repr

/-- One request of a host requester: a posted write, or a read, of BAR space (17 R341 to R344). -/
structure HostReq where
  /-- requester -/
  req : Nat
  /-- PCIe function the request names -/
  fn : Nat
  /-- base address register, 0 or 2 -/
  bar : Nat
  /-- byte offset within the BAR -/
  off : Nat
  /-- data of a write, lowest address first, none where the byte enable is off; empty for a read -/
  data : List (Option Byte)
  /-- length of a read in bytes -/
  len : Nat
  /-- PCIe traffic attribute RO, relaxed ordering -/
  ro : Bool
deriving DecidableEq, Repr

/-- The operations a peer device sends (12 R257, R258). -/
inductive PeerOp where
  /-- RPUT: the data, with one poison mark per 16 bytes -/
  | put (data : List Byte) (pois : List Bool)
  /-- RGET: the length -/
  | get (len : Nat)
  /-- RSIG: the addend -/
  | sig (addend : W64)
deriving DecidableEq, Repr

/-- A message that arrives from a peer device (17 R347, R348). -/
structure PeerMsg where
  port : Nat
  sender : Nat
  /-- the sender's local context and peer entry, whose messages its sequence numbers order -/
  sctx : Nat
  entry : Nat
  seq : Nat
  /-- earlier messages of the entry below this number will not come: the link lost them (24 R417) -/
  floor : Nat := 0
  ctx : Nat
  win : Nat
  off : W64
  op : PeerOp
deriving DecidableEq, Repr

/-- A unit as its location code names it, with the test code of its failure (22 Table 22.7, R388). -/
structure UnitFail where
  loc : Nat
  test : Nat
deriving DecidableEq, Repr

/-- A firmware image in package flash, as the boot ROM reads it (17 R357, 22 R392). -/
structure FwImage where
  readable : Bool
  image : List Byte
  /-- the public key it carries, and its signature -/
  key : List Byte
  sig : BitVec 768
  version : Nat
  /-- the minimum version it writes to the rollback counter when it boots -/
  minVersion : Nat
deriving DecidableEq, Repr

/-- A host requester, and the context whose launch register it writes (15 R308). -/
structure LaunchReg where
  req : Nat
  ctx : Nat
deriving DecidableEq, Repr

/-- A host requester, and the PCIe function through which it writes a register (17 R341). -/
structure HostFn where
  req : Nat
  fn : Nat
deriving DecidableEq, Repr

/-- A protected context, and the key that the key port loads for it (17 R354). -/
structure SlotKey where
  ctx : Nat
  key : BitVec 512
deriving DecidableEq, Repr

/-- What a boot finds: the units that fail their self-test (22 R388), the writes that firmware makes to the partition
descriptors before it seals them, each as partition, word and value (17 R350), and the interleave tables that it writes: the 96 entries of a partition's
DIETAB, and the 1,024 entries of its CHTAB for a die (04 R88). -/
structure BootIn where
  failing : List UnitFail
  ptab : List (Nat × Nat × Nat) := []
  dietabs : List (Nat × List Nat) := []
  chtabs : List (Nat × Nat × List Nat) := []
deriving DecidableEq, Repr

/-- The register of a lane that fails (24 R424). -/
inductive RegSite where
  | v (n : Nat)
  | o (n : Nat)
  | l (n : Nat)
deriving DecidableEq, Repr

/-- Where an error is found that the device corrects or contains (22 R376): a cached copy (24 R421), an HBM sector (24 R419), storage of the matrix array
(24 R425), or a unit whose error is corrected. -/
inductive CacheSite where
  /-- an L1 copy -/
  | l1 (c : CoreRef) (line : Nat)
  /-- a replica on a die -/
  | replica (die line : Nat)
  /-- a line held by its home slice; `sector` 0 to 3 -/
  | home (line sector : Nat)
  /-- a sector of HBM whose ECC finds an uncorrectable error on a read -/
  | hbm (sector : Nat)
  /-- the checksum storage of a pot slot; one of its column scales; a sector of a talon -/
  | checksum (c : CoreRef) (slot : Nat)
  | scale (c : CoreRef) (slot col : Nat)
  | talon (c : CoreRef) (sector : Nat)
  /-- a corrected error of the unit with this location code: a single-bit error (mechanism 0) or a link retry (mechanism 1) -/
  | corrected (loc mech : Nat)
deriving DecidableEq, Repr

/-! ## Instructions and events -/

/-- One constructor per row of the opcode table. In an extended form the first argument is the guard, `ps` is PSLOT
(1 selects SETB), and a main-file range is given by the number of its first register. -/
inductive Instr where
  -- clauses and control (06 R149, 07)
  /-- SETB, SETA (0 to 11, or 15), WAIT mask and chunk count − 1 -/
  | clauseHeader (setb seta wait chunks : Nat)
  | nop
  | bra (g : Grd) (off : W32)
  | br (g : Grd) (a : Src) (off : W32)
  | brx (g : Grd) (a : Src)
  | call (g : Grd) (d : Dst) (off : W32)
  | callx (g : Grd) (d : Dst) (a : Src)
  | ret (g : Grd) (a : Src)
  | meld (win : Nat)
  | meldWindowExpiry (r : SuitRef)
  | exit (g : Grd)
  | draw (d : Dst)
  | cut (r1 r2 r3 : Rng)
  /-- event offset `a`, target `b`, continuation offset, first carry register, carry count − 1 -/
  | suspend (g : Grd) (a b : Src) (off : W32) (c n : Nat)
  | waitp (g : Grd) (a : Src) (peg : Nat)
  | waitpGiveUp (r : SuitRef)
  | pegThresholdReached (h : HandRef) (lane : Nat)
  | bar (k : Nat)
  | barrierComplete (ctx kern level unit : Nat)
  | yield
  | yieldSlot
  | trap (g : Grd) (code : Nat)
  | tret
  -- integer, logic and address (08)
  | iadd (d : Dst) (a b : Src)
  | iaddExt (g : Grd) (ty : ITy) (sat : Bool) (d : Dst) (a b : Src)
  | isub (d : Dst) (a b : Src)
  | isubExt (g : Grd) (ty : ITy) (sat : Bool) (d : Dst) (a b : Src)
  | iaddc (g : Grd) (pen : Bool) (pd : Nat) (d : Dst) (a b c : Src)
  | imul (d : Dst) (a b : Src)
  | imulExt (g : Grd) (ty : ITy) (sat : Bool) (d : Dst) (a b : Src)
  | imulh (d : Dst) (a b : Src)
  | imulhExt (g : Grd) (ty : ITy) (d : Dst) (a b : Src)
  | imad (g : Grd) (ty : ITy) (sat : Bool) (d : Dst) (a b c : Src)
  | imadw (g : Grd) (sgn sat : Bool) (d : Dst) (a b c : Src)
  | imin (d : Dst) (a b : Src)
  | iminExt (g : Grd) (ty : ITy) (d : Dst) (a b : Src)
  | imax (d : Dst) (a b : Src)
  | imaxExt (g : Grd) (ty : ITy) (d : Dst) (a b : Src)
  | iabs (d : Dst) (a : Src)
  | iabsExt (g : Grd) (ty : ITy) (sat : Bool) (d : Dst) (a : Src)
  | ineg (d : Dst) (a : Src)
  | inegExt (g : Grd) (ty : ITy) (sat : Bool) (d : Dst) (a : Src)
  | and (d : Dst) (a b : Src)
  | andExt (g : Grd) (d : Dst) (a b : Src)
  | or (d : Dst) (a b : Src)
  | orExt (g : Grd) (d : Dst) (a b : Src)
  | xor (d : Dst) (a b : Src)
  | xorExt (g : Grd) (d : Dst) (a b : Src)
  | andn (d : Dst) (a b : Src)
  | andnExt (g : Grd) (d : Dst) (a b : Src)
  | not (d : Dst) (a : Src)
  | notExt (g : Grd) (d : Dst) (a : Src)
  | shl (d : Dst) (a b : Src)
  | shlExt (g : Grd) (sz : ISize) (d : Dst) (a b : Src)
  | shr (d : Dst) (a b : Src)
  | shrExt (g : Grd) (sz : ISize) (d : Dst) (a b : Src)
  | sar (d : Dst) (a b : Src)
  | sarExt (g : Grd) (sz : ISize) (d : Dst) (a b : Src)
  /-- `r` is DIR -/
  | shf (g : Grd) (r : Bool) (d : Dst) (a b c : Src)
  | rot (d : Dst) (a b : Src)
  | rotExt (g : Grd) (sz : ISize) (r : Bool) (d : Dst) (a b : Src)
  | bfe (g : Grd) (sgn : Bool) (d : Dst) (a b : Src)
  | bfi (g : Grd) (d : Dst) (a b c : Src)
  | popc (d : Dst) (a : Src)
  | popcExt (g : Grd) (d : Dst) (a : Src)
  | clz (d : Dst) (a : Src)
  | clzExt (g : Grd) (d : Dst) (a : Src)
  | ctz (d : Dst) (a : Src)
  | ctzExt (g : Grd) (d : Dst) (a : Src)
  | brev (d : Dst) (a : Src)
  | brevExt (g : Grd) (d : Dst) (a : Src)
  | bsel (g : Grd) (d : Dst) (a b c : Src)
  | iset (g : Grd) (ty : ITy) (cc : ICc) (pen : Bool) (pd : Nat) (d : Dst) (a b : Src)
  | pset (g : Grd) (pd : Nat) (lut : Byte) (d : Dst) (a b c : Src)
  | sel (g : Grd) (d : Dst) (a b c : Src)
  | mov (d : Dst) (a : Src)
  | movExt (g : Grd) (d : Dst) (a : Src)
  /-- index `a`, window of `w` registers from `base` -/
  | movx (g : Grd) (d : Dst) (a : Src) (base w : Nat)
  | movxw (g : Grd) (base : Nat) (a b : Src) (w : Nat)
  | lea (g : Grd) (sgn : Bool) (sh : Nat) (d : Dst) (a b : Src)
  | iadd64 (d : Dst) (a b : Src)
  | iadd64Ext (g : Grd) (sgn sat : Bool) (d : Dst) (a b : Src)
  -- floating point and conversion (09)
  | fadd (d : Dst) (a b : Src)
  | faddExt (g : Grd) (r : Rnd) (d : Dst) (a b : Src)
  | fsub (d : Dst) (a b : Src)
  | fsubExt (g : Grd) (r : Rnd) (d : Dst) (a b : Src)
  | fmul (d : Dst) (a b : Src)
  | fmulExt (g : Grd) (r : Rnd) (d : Dst) (a b : Src)
  | fmac (g : Grd) (r : Rnd) (np nc : Bool) (d : Dst) (a b c : Src)
  | fmin (d : Dst) (a b : Src)
  | fminExt (g : Grd) (d : Dst) (a b : Src)
  | fmax (d : Dst) (a b : Src)
  | fmaxExt (g : Grd) (d : Dst) (a b : Src)
  | fset (g : Grd) (cc : FCc) (pen : Bool) (pd : Nat) (d : Dst) (a b : Src)
  | fclass (g : Grd) (pen : Bool) (pd : Nat) (d : Dst) (a b : Src)
  | frcp (d : Dst) (a : Src)
  | frcpExt (g : Grd) (d : Dst) (a : Src)
  | frsq (d : Dst) (a : Src)
  | frsqExt (g : Grd) (d : Dst) (a : Src)
  | fsqrt (d : Dst) (a : Src)
  | fsqrtExt (g : Grd) (r : Rnd) (d : Dst) (a : Src)
  | fexp2 (d : Dst) (a : Src)
  | fexp2Ext (g : Grd) (d : Dst) (a : Src)
  | flog2 (d : Dst) (a : Src)
  | flog2Ext (g : Grd) (d : Dst) (a : Src)
  | ftanh (d : Dst) (a : Src)
  | ftanhExt (g : Grd) (d : Dst) (a : Src)
  | fsin (d : Dst) (a : Src)
  | fsinExt (g : Grd) (d : Dst) (a : Src)
  | fcos (d : Dst) (a : Src)
  | fcosExt (g : Grd) (d : Dst) (a : Src)
  | hadd2 (d : Dst) (a b : Src)
  | hadd2Ext (g : Grd) (bf : Bool) (r : Rnd) (sat : Bool) (nb : Bool) (d : Dst) (a b : Src)
  | hmul2 (d : Dst) (a b : Src)
  | hmul2Ext (g : Grd) (bf : Bool) (r : Rnd) (sat : Bool) (d : Dst) (a b : Src)
  | hfma2 (g : Grd) (bf : Bool) (r : Rnd) (sat np nc : Bool) (d : Dst) (a b c : Src)
  | hmin2 (d : Dst) (a b : Src)
  | hmin2Ext (g : Grd) (bf : Bool) (d : Dst) (a b : Src)
  | hmax2 (d : Dst) (a b : Src)
  | hmax2Ext (g : Grd) (bf : Bool) (d : Dst) (a b : Src)
  | f2i (g : Grd) (src : VFmt) (sgn w64 half : Bool) (r : Rnd) (d : Dst) (a : Src)
  | i2f (g : Grd) (dst : VFmt) (sgn w64 : Bool) (r : Rnd) (sat : Bool) (d : Dst) (a : Src)
  | fcvt (g : Grd) (dst src : VFmt) (half : Bool) (r : Rnd) (sat : Bool) (d : Dst) (a b : Src)
  | qscale (g : Grd) (f : Nat) (d : Dst) (a : Nat)
  | qpack (g : Grd) (f : Nat) (r : Rnd) (sat : Bool) (d : Dst) (a : Nat) (b : Src)
  | qunpk (g : Grd) (f d : Nat) (a b : Src)
  | psplit (g : Grd) (f : Nat) (pl : Plane) (d : Dst) (a : Nat)
  | pjoin (g : Grd) (f : Nat) (pl : Plane) (grp : Nat) (d : Dst) (a b : Src)
  | setfmt (g : Grd) (f : Nat) (b : Src)
  -- lanes (10)
  | shfl (g : Grd) (k : Coll) (m : ShflMode) (w64 : Bool) (d : Dst) (a b c : Src)
  | vote (g : Grd) (k : Coll) (m : VoteMode) (d : Dst) (a c : Src)
  | hred (g : Grd) (k : Coll) (op : RedOp) (r : Rnd) (d : Dst) (a c : Src)
  | hscan (g : Grd) (k : Coll) (op : RedOp) (excl : Bool) (r : Rnd) (d : Dst) (a c : Src)
  /-- MATCH -/
  | lmatch (g : Grd) (k : Coll) (w64 : Bool) (d : Dst) (a c : Src)
  | tmask (g : Grd) (k : Coll) (d : Dst) (c : Src)
  | elect (g : Grd) (k : Coll) (d : Dst) (c : Src)
  -- memory (11)
  | ld (g : Grd) (ps : Bool) (m : MemOp) (sz : ASize) (sx : Bool) (d : Dst) (a : Src)
  | st (g : Grd) (ps : Bool) (m : MemOp) (sz : ASize) (a b : Src)
  | atom (g : Grd) (ps : Bool) (m : MemOp) (op : AtomOp) (sz : ASize) (r : Rnd) (d : Dst) (a b : Src)
  | cas (g : Grd) (ps : Bool) (m : MemOp) (sz : ASize) (d : Dst) (a b c : Src)
  | red (g : Grd) (ps : Bool) (m : MemOp) (op : AtomOp) (sz : ASize) (r : Rnd) (a b : Src)
  | evadd (g : Grd) (ps : Bool) (m : MemOp) (d : Dst) (a b : Src)
  /-- `l2` is PREF.l2 -/
  | pref (g : Grd) (m : MemOp) (l2 : Bool) (a : Src)
  | publ (g : Grd) (ps : Bool)
  | invl (g : Grd)
  /-- `fromSc` is DIR -/
  | movs (g : Grd) (ps : Bool) (m : MemOp) (fromSc : Bool) (sz : ASize) (a b : Src)
  | setmode (g : Grd) (b : Src)
  -- events of the memory system (04, 11)
  | homeLoad (req : Nat)
  | homeWrite (req : Nat)
  | homeAtomic (req : Nat)
  | opCompletion (op : Nat)
  | ptsTick (h : HandRef)
  -- engines (12)
  | cpy (g : Grd) (ps : Bool) (dseg sseg : Seg) (a b c : Src)
  | cpy2 (g : Grd) (ps : Bool) (dseg sseg : Seg) (a b : Src) (c : Nat)
  | cpyw (g : Grd) (ps : Bool) (sseg : Seg) (a b c : Src)
  | gath (g : Grd) (ps : Bool) (dseg sseg : Seg) (a b : Src) (c : Nat)
  | scat (g : Grd) (ps : Bool) (dseg sseg : Seg) (a b : Src) (c : Nat)
  | sred (g : Grd) (ps : Bool) (dseg sseg : Seg) (bf mx : Bool) (r : Rnd) (a b c : Src)
  | scvt (g : Grd) (ps : Bool) (dseg sseg : Seg) (dst src : CvtFmt) (f : Nat) (r : Rnd) (sat : Bool) (a b c : Src)
  | rput (g : Grd) (ps : Bool) (sseg : Seg) (peer : Nat) (a b c : Src)
  | rget (g : Grd) (ps : Bool) (dseg : Seg) (peer : Nat) (a b c : Src)
  | rsig (g : Grd) (ps : Bool) (peer : Nat) (a b : Src)
  | claimGrant (op : Nat)
  | engineIssuePoint (op : Nat)
  | engineLineRelease (op : Nat)
  | peerMessageApply (m : PeerMsg)
  | peerAck (msg : Nat)
  | linkLoss (msg : Nat)
  -- matrix (13)
  | mzero (tile : Nat)
  | mma (ps : Bool) (m : MmaF) (a : Nat) (b : Src) (c : Option Nat)
  /-- `b` names the group table: a k register (GSRC 0) or an sc offset (GSRC 1) -/
  | mmag (ps : Bool) (gsrc : Bool) (m : MmaF) (a : Nat) (b : Src) (c : Option Nat)
  | teamStart (c : CoreRef) (ctx kern team : Nat)
  | mdrain (g : Grd) (ps : Bool) (tile : Nat) (of : OFmt) (smode : Bool) (fo : Nat) (r : Rnd) (sat : Bool) (d : Nat) (b : Src)
  | mdst (g : Grd) (ps : Bool) (tile : Nat) (of : OFmt) (smode : Bool) (seg : Seg) (pol : Pol) (r : Rnd) (sat : Bool) (a b : Src)
  | mscale (g : Grd) (tile : Nat) (a b : Src)
  | mstat (g : Grd) (ps : Bool) (tile : Nat) (chk : Bool) (d : Dst)
  -- estate, work and system (14)
  /-- first register, length − 1, identity -/
  | will (a n : Nat) (b : Src)
  /-- first register, width − 1, identity -/
  | claim (g : Grd) (ps : Bool) (d n : Nat) (a : Src)
  | estat (g : Grd) (ps : Bool) (d : Dst)
  | deal (g : Grd) (ps : Bool) (seg : Seg) (d : Dst) (a b c : Src)
  | launch (g : Grd) (ps : Bool) (seg : Seg) (d : Dst) (a : Src)
  | deckqPend (g : Grd) (ps : Bool) (d : Dst) (a : Src)
  | deckqClose (g : Grd) (ps : Bool) (d : Dst) (a : Src)
  | deckqState (g : Grd) (ps : Bool) (d : Dst) (a : Src)
  | deckqCancel (g : Grd) (ps : Bool) (d : Dst) (a : Src)
  | chke (g : Grd) (d : Dst)
  | chkeTrap (g : Grd) (d : Dst)
  | setseg (g : Grd) (seg : Seg) (a : Nat)
  | movpRead (g : Grd) (other : Bool) (ctx prn : Nat) (d : Dst)
  | movpWrite (g : Grd) (other : Bool) (ctx prn : Nat) (b : Src)
  | keyz (g : Grd) (d : Dst) (a : Src)
  | keyzDone (ctx : Nat)
  /-- the channels that did not acknowledge -/
  | keyzAckTimeout (ctx : Nat) (chans : List Nat)
  | scrub (g : Grd) (ps : Bool) (d : Dst) (a : Src)
  | scrubUnit (ctx : Nat)
  | deferredDestroy (ctx : Nat)
  -- events of the cores (02, 03, 15)
  | entryDraw (h : HandRef)
  | heldReform (h : HandRef)
  | continuationSeat (h : HandRef)
  | blockDeal (c : CoreRef) (ctx kern : Nat)
  | barrierTableGrant (c : CoreRef) (ctx kern : Nat)
  | handForm (c : CoreRef) (ctx kern : Nat)
  | handRelease (h : HandRef)
  | dealtReturn (h : HandRef)
  | rotation (h : HandRef)
  /-- the claim by its number -/
  | claimResolve (id : Nat)
  | affinityWindowExpiry (h : HandRef) (lane : Nat)
  | pileEvictRetry (h : HandRef) (lane : Nat)
  | kernelComplete (ctx kern : Nat)
  /-- the host requester, the context and the value -/
  | launchRegisterWrite (w : LaunchReg) (t : W64)
  | launchQueueEntry (ctx : Nat)
  | dealerPeriod (die : Nat)
  | pctlSave (ctx : Nat)
  | saveComplete (ctx : Nat)
  | pctlRestore (ctx : Nat)
  | restoreProceed (ctx : Nat)
  -- events of the dies (16)
  | samplingWindowEnd
  | bandwidthWindow
  -- events from outside (17, 21)
  | hostWriteRequest (q : HostReq)
  | hostReadRequest (q : HostReq)
  | xdPieceSend (req : Nat)
  | hostPieceApply (req die : Nat)
  | routeAck (req die : Nat)
  /-- PCIe function and descriptor address -/
  | create (fn : Nat) (addr : W64)
  | stop (ctx : Nat)
  | skidTimeout (ctx : Nat)
  | haltDone (ctx : Nat)
  | destroy (ctx : Nat)
  | replay (ctx : Nat)
  | shqLookup (ctx : Nat) (addr : W64)
  /-- a host write of 64 bits: the requester, its function, the offset in BAR0 and the value -/
  | registerWrite (w : HostFn) (off : Nat) (v : W64)
  | waitfullRetry (die slice : Nat)
  | registerError (h : HandRef) (lane : Nat) (r : RegSite)
  | handStateError (h : HandRef)
  | coreOffline (c : CoreRef)
  | cacheError (x : CacheSite)
  | keyLoad (k : SlotKey)
  | attestationReport (ctx : Nat)
  | ethernetFrameDeliver (port : Nat) (data : List Byte)
  | coldReset (b : BootIn)
  | warmReset (b : BootIn)
  | powerLoss
  | firmwareUpdate (f : FwImage)
  | recoveryRequest
  /-- the data of the peer, with one poison mark per 16 bytes -/
  | rgetDataReturn (msg : Nat) (data : List Byte) (pois : List Bool)
  /-- reason of 24 R417 -/
  | peerRefusal (msg reason : Nat)
  | segmentRetransmission (msg seg : Nat)
  /-- location code -/
  | deviceFatalError (loc : Nat)
deriving DecidableEq, Repr

end Sys2Proof
end

