-- ==== Sys2Proof/Machine/Num.lean ====
section
/-! DEFINITION. Sys2Proof/Machine/Num.lean: the numbers of 05 and the functions of 09: exact values, one rounding, the
vector formats, the narrow formats with their block scales, and the bounds of the approximate functions. -/

namespace Sys2Proof.Machine

/-! ## Exact values -/

/-- An exact value: a NaN, an infinity, or ± num/den with den > 0. -/
inductive FV where
  | nan
  | inf (neg : Bool)
  | fin (neg : Bool) (num den : Nat)
deriving DecidableEq, Repr

def FV.zero : FV := .fin false 0 1

/-- num · 2^e as a value. -/
def FV.scaled (neg : Bool) (num : Nat) (e : Int) : FV :=
  if 0 ≤ e then .fin neg (num * 2 ^ e.toNat) 1 else .fin neg num (2 ^ (-e).toNat)

def FV.ofInt (x : Int) : FV := .fin (decide (x < 0)) x.natAbs 1

/-- The value with its sign changed. -/
def FV.negate : FV → FV
  | .nan => .nan
  | .inf s => .inf (!s)
  | .fin s a b => .fin (!s) a b

/-- The signed numerator. -/
def sgnd (neg : Bool) (n : Nat) : Int := if neg then -(n : Int) else n

/-- Sum; an exact zero sum of opposite signs is −0 when `rdn`, else +0 (09 R196). -/
def FV.add (rdn : Bool) : FV → FV → FV
  | .nan, _ => .nan
  | _, .nan => .nan
  | .inf s, .inf t => if s = t then .inf s else .nan
  | .inf s, .fin _ _ _ => .inf s
  | .fin _ _ _, .inf t => .inf t
  | .fin s a b, .fin t c d =>
    let x := sgnd s (a * d) + sgnd t (c * b)
    if x = 0 then .fin (if s = t then s else rdn) 0 1 else .fin (decide (x < 0)) x.natAbs (b * d)

/-- Product. -/
def FV.mul : FV → FV → FV
  | .nan, _ => .nan
  | _, .nan => .nan
  | .inf s, .inf t => .inf (s != t)
  | .inf s, .fin t a _ => if a = 0 then .nan else .inf (s != t)
  | .fin s a _, .inf t => if a = 0 then .nan else .inf (s != t)
  | .fin s a b, .fin t c d => .fin (s != t) (a * c) (b * d)

/-- Quotient by num/den > 0. -/
def FV.quo (x : FV) (num den : Nat) : FV :=
  match x with
  | .fin s a b => .fin s (a * den) (b * num)
  | y => y

/-- Whether a value is ±0. -/
def FV.isZero : FV → Bool
  | .fin _ a _ => a = 0
  | _ => false

def FV.isNan : FV → Bool
  | .nan => true
  | _ => false

def FV.isNeg : FV → Bool
  | .nan => false
  | .inf s => s
  | .fin s _ _ => s

/-- a < b for values that are not NaN; −0 and +0 are equal. -/
def FV.lt : FV → FV → Bool
  | .inf s, .inf t => s && !t
  | .inf s, .fin _ _ _ => s
  | .fin _ _ _, .inf t => !t
  | .fin s a b, .fin t c d => decide (sgnd s (a * d) < sgnd t (c * b))
  | _, _ => false

/-- a = b for values that are not NaN. -/
def FV.eq (a b : FV) : Bool := !a.isNan && !b.isNan && !FV.lt a b && !FV.lt b a

/-! ## Rounding (05 R114) -/

/-- n/d ≥ 2^k. -/
def geQ (n d : Nat) (k : Int) : Bool :=
  if 0 ≤ k then decide (d * 2 ^ k.toNat ≤ n) else decide (d ≤ n * 2 ^ (-k).toNat)

/-- floor(log2 (n/d)) for n, d > 0. -/
def floorLog2 (n d : Nat) : Int :=
  let k : Int := (Nat.log2 n : Int) - (Nat.log2 d : Int)
  if geQ n d k then k else k - 1

/-- Whether the neighbour away from zero is chosen: `code` is that of the neighbour toward zero, rem/d the part between
them (05 R114). -/
def roundUp (m : Rnd) (r : Nat) (neg : Bool) (code rem d : Nat) : Bool :=
  if rem = 0 then false else
  match m with
  | .rne => decide (d < 2 * rem) || (2 * rem = d && code % 2 = 1)
  | .rna => decide (d ≤ 2 * rem)
  | .rtz => false
  | .rup => !neg
  | .rdn => neg
  | .rs => decide (2 ^ 32 ≤ rem * 2 ^ 32 / d + r)
  | .mode => false

/-- n/d divided by 2^q: whole part, remainder and denominator. -/
def splitAt2 (n d : Nat) (q : Int) : Nat × Nat × Nat :=
  let n' := if 0 ≤ q then n else n * 2 ^ (-q).toNat
  let d' := if 0 ≤ q then d * 2 ^ q.toNat else d
  (n' / d', n' % d', d')

/-- Magnitude code of n/d rounded to a binary format of `m` mantissa bits whose least exponent of a unit is `qmin`; no
largest value (05 R114). -/
def roundMag (m : Nat) (qmin : Int) (rm : Rnd) (r : Nat) (neg : Bool) (n d : Nat) : Nat :=
  if n = 0 then 0 else
  let q0 := floorLog2 n d - m
  let q := if q0 < qmin then qmin else q0
  let (w, rem, d') := splitAt2 n d q
  let code := w + (q - qmin).toNat * 2 ^ m
  if roundUp rm r neg code rem d' then code + 1 else code

/-- n/d rounded to a multiple of 2^q, as that multiple. -/
def roundGrid (q : Int) (rm : Rnd) (r : Nat) (neg : Bool) (n d : Nat) : Nat :=
  let (w, rem, d') := splitAt2 n d q
  if roundUp rm r neg w rem d' then w + 1 else w

/-! ## Vector formats (05 R107) -/

/-- An IEEE format by its exponent and mantissa widths. -/
structure FFmt where
  e : Nat
  m : Nat
deriving DecidableEq, Repr

def f32 : FFmt := { e := 8, m := 23 }
def f16 : FFmt := { e := 5, m := 10 }
def bf16 : FFmt := { e := 8, m := 7 }

def FFmt.width (f : FFmt) : Nat := f.e + f.m + 1
def FFmt.bias (f : FFmt) : Nat := 2 ^ (f.e - 1) - 1
/-- Code of +∞ -/
def FFmt.infc (f : FFmt) : Nat := (2 ^ f.e - 1) * 2 ^ f.m
/-- Code of the largest finite value -/
def FFmt.maxc (f : FFmt) : Nat := f.infc - 1
/-- The canonical NaN (05 R109) -/
def FFmt.nanc (f : FFmt) : Nat := f.infc + 2 ^ (f.m - 1)
/-- Exponent of the subnormal unit -/
def FFmt.qmin (f : FFmt) : Int := 1 - (f.bias : Int) - f.m
def FFmt.sign (f : FFmt) (neg : Bool) : Nat := if neg then 2 ^ (f.e + f.m) else 0

/-- The value of a code. -/
def FFmt.value (f : FFmt) (x : Nat) : FV :=
  let neg := bitN x (f.e + f.m)
  let ex := fld x (f.e + f.m - 1) f.m
  let man := x % 2 ^ f.m
  if ex = 2 ^ f.e - 1 then (if man = 0 then .inf neg else .nan)
  else if ex = 0 then .scaled neg man f.qmin
  else .scaled neg (2 ^ f.m + man) (f.qmin + (ex - 1 : Nat))

/-- Whether a magnitude code is subnormal. -/
def FFmt.isSub (f : FFmt) (x : Nat) : Bool := x % 2 ^ (f.e + f.m) ≠ 0 && decide (x % 2 ^ (f.e + f.m) < 2 ^ f.m)

/-- A subnormal code replaced by the zero of its sign, when `on` (05 R110). -/
def FFmt.flush (f : FFmt) (on : Bool) (x : Nat) : Nat :=
  if on && f.isSub x then f.sign (bitN x (f.e + f.m)) else x

/-- Result of an overflow (05 Table 5.4), as whether it is infinite. -/
def overInf (rm : Rnd) (sat neg : Bool) : Bool :=
  if sat then false else
  match rm with
  | .rtz => false
  | .rup => !neg
  | .rdn => neg
  | _ => true

/-- A value rounded once to a format (05 R114, R115, R109). -/
def FFmt.round (f : FFmt) (rm : Rnd) (r : Nat) (sat : Bool) : FV → Nat
  | .nan => f.nanc
  | .inf s => f.sign s + f.infc
  | .fin s n d =>
    let c := roundMag f.m f.qmin rm r s n d
    f.sign s + (if c ≤ f.maxc then c else if overInf rm sat s then f.infc else f.maxc)

/-- minimumNumber or maximumNumber of two codes (09 R198). -/
def FFmt.minMax (f : FFmt) (mx : Bool) (a b : Nat) : Nat :=
  let x := f.value a
  let y := f.value b
  if x.isNan then (if y.isNan then f.nanc else b)
  else if y.isNan then a
  else
    let less := FV.lt x y || (FV.eq x y && x.isNeg && !y.isNeg)
    if less = mx then b else a

/-- The class word of an FP32 code (09 Table 9.4). -/
def fclassOf (x : Nat) : Nat :=
  let neg := bitN x 31
  let ex := fld x 30 23
  let man := x % 2 ^ 23
  if ex = 255 then
    (if man = 0 then (if neg then 4 else 512) else if bitN x 22 then 2 else 1)
  else if ex = 0 then
    (if man = 0 then (if neg then 32 else 64) else if neg then 16 else 128)
  else if neg then 8 else 256

/-- Float to integer with clamping (09 R204): range lo to hi. -/
def floatToInt (rm : Rnd) (r : Nat) (lo hi : Int) : FV → Int
  | .nan => 0
  | .inf s => if s then lo else hi
  | .fin s n d =>
    let x := sgnd s (roundGrid 0 rm r s n d)
    if x < lo then lo else if hi < x then hi else x

/-! ## The stochastic generator (05 R116, R117) -/

/-- The next state, which is also the word drawn. -/
def nextRandom (x : W32) : W32 :=
  let x := x ^^^ (x <<< 13)
  let x := x ^^^ (x >>> 17)
  x ^^^ (x <<< 5)

/-- The state a generator starts from (05 R117). -/
def seedRng (seed : W32) (item kern : Nat) : W32 :=
  let h := seed ^^^ BitVec.ofNat 32 item ^^^ (BitVec.ofNat 32 (item / 2 ^ 32)).rotateLeft 16 ^^^ (BitVec.ofNat 32 kern <<< 16)
  let h := (h ^^^ (h >>> 16)) * 0x85EBCA6B#32
  let h := (h ^^^ (h >>> 13)) * 0xC2B2AE35#32
  let h := h ^^^ (h >>> 16)
  if h = 0#32 then 0x9E3779B9#32 else h

/-! ## Narrow formats (05 R118 to R123) -/

/-- The fields of a format descriptor (05 Table 5.6). -/
def nScale (d : Nat) : Nat := fld d 19 18
def nSpec (d : Nat) : Nat := fld d 15 14
def nBias (d : Nat) : Int := sext 6 (fld d 13 8)
def nS (d : Nat) : Nat := fld d 7 7
def nM (d : Nat) : Nat := fld d 6 4
def nE (d : Nat) : Nat := fld d 3 1
def nInt (d : Nat) : Bool := bitN d 0

/-- Width of an element (05 R119). -/
def nWidth (d : Nat) : Nat := if nInt d then nM d + 1 else nS d + nE d + nM d

/-- Exponent of the unit of the lowest binade; for an integer format, of its unit. -/
def nQmin (d : Nat) : Int := if nInt d then - nBias d else 1 - nBias d - nM d

/-- Largest finite magnitude code (05 R119, R120). -/
def nMaxc (d : Nat) : Nat :=
  if nInt d then 2 ^ nM d - 1
  else
    match nSpec d with
    | 1 => 2 ^ (nE d + nM d) - 2
    | 2 => (2 ^ nE d - 1) * 2 ^ nM d - 1
    | _ => 2 ^ (nE d + nM d) - 1

/-- Value of a magnitude code of a minifloat that SPEC does not reserve. -/
def nMag (d c : Nat) : Nat × Int :=
  let ex := c / 2 ^ nM d
  let man := c % 2 ^ nM d
  if ex = 0 then (man, nQmin d) else (2 ^ nM d + man, nQmin d + (ex - 1 : Nat))

/-- Value of an element code (05 R119, R120); a zero is +0. -/
def nValue (d : Nat) (code : Nat) : FV :=
  let w := nWidth d
  let code := code % 2 ^ w
  if nInt d then
    let x := sext w code
    .scaled (decide (x < 0)) x.natAbs (nQmin d)
  else
    let c := code % 2 ^ (nE d + nM d)
    let neg := nS d = 1 && bitN code (w - 1)
    if nSpec d = 1 && c = 2 ^ (nE d + nM d) - 1 then .nan
    else if nSpec d = 2 && c / 2 ^ nM d = 2 ^ nE d - 1 then (if c % 2 ^ nM d = 0 then .inf neg else .nan)
    else
      let (n, q) := nMag d c
      if n = 0 then FV.zero else .scaled neg n q

/-- The largest finite value M_F, as a pair (05 R125). -/
def nMaxV (d : Nat) : FV := if nInt d then .scaled false (nMaxc d) (nQmin d) else (let (n, q) := nMag d (nMaxc d); .scaled false n q)

/-- Whether a magnitude lies in [2^−16, 2^16), or is zero (05 R121). -/
def inReach : FV → Bool
  | .fin _ n d => n = 0 || (geQ n d (-16) && !geQ n d 16)
  | _ => true

/-- Whether every finite nonzero magnitude of a descriptor lies in [2^−16, 2^16). -/
def nReach (d : Nat) : Bool :=
  if nInt d then inReach (.scaled false 1 (nQmin d)) && inReach (.scaled false (2 ^ nM d) (nQmin d))
  else
    let v (c : Nat) : FV := (let (n, q) := nMag d c; .scaled false n q)
    inReach (v (nMaxc d)) && (nMaxc d = 0 || inReach (v 1))

/-- Whether a descriptor is legal (05 R121). -/
def nLegal (d : Nat) : Bool :=
  decide (2 ≤ nWidth d) && decide (nWidth d ≤ 8) && decide (nE d ≤ 5) && fld d 31 20 = 0 && fld d 17 16 = 0
    && nScale d ≠ 3 && nSpec d ≠ 3
    && (nSpec d ≠ 1 || decide (1 ≤ nE d)) && (nSpec d ≠ 2 || (decide (2 ≤ nE d) && decide (1 ≤ nM d)))
    && (!nInt d || (nE d = 0 && nS d = 1 && nSpec d = 0 && decide (1 ≤ nM d)))
    && nReach d

/-- The written NaN code, or 0 where the format has none (05 R120, R123). -/
def nNan (d : Nat) : Nat :=
  match nSpec d with
  | 1 => 2 ^ (nE d + nM d) - 1
  | 2 => (2 ^ nE d - 1) * 2 ^ nM d + 2 ^ (nM d - 1)
  | _ => 0

/-- The code of an overflow (05 Table 5.4, R123). -/
def nOver (d : Nat) (rm : Rnd) (sat neg : Bool) : Nat :=
  let sg := if neg then 2 ^ (nE d + nM d) else 0
  if nInt d then (if neg then 2 ^ nM d else nMaxc d)
  else if nSpec d = 0 then (if neg && nMaxc d = 0 then 0 else sg + nMaxc d)
  else if overInf rm sat neg then (if nSpec d = 2 then sg + (2 ^ nE d - 1) * 2 ^ nM d else nNan d)
  else if nMaxc d = 0 then 0 else sg + nMaxc d

/-- Conversion to a matrix-family format (05 R123). -/
def nConvert (d : Nat) (rm : Rnd) (r : Nat) (sat : Bool) : FV → Nat
  | .nan => nNan d
  | .inf s =>
    if !nInt d && nS d = 0 && s then 0
    else if nSpec d = 2 then (if s then 2 ^ (nE d + nM d) else 0) + (2 ^ nE d - 1) * 2 ^ nM d
    else nOver d rm sat s
  | .fin s n dd =>
    if n = 0 then 0
    else if nInt d then
      let c := roundGrid (nQmin d) rm r s n dd
      if s then (if 2 ^ nM d < c then nOver d rm sat s else (2 ^ (nM d + 1) - c) % 2 ^ (nM d + 1))
      else if nMaxc d < c then nOver d rm sat s else c
    else if nS d = 0 && s then 0
    else
      let c := roundMag (nM d) (nQmin d) rm r s n dd
      if c = 0 then 0
      else if nMaxc d < c then nOver d rm sat s
      else (if s then 2 ^ (nE d + nM d) else 0) + c

/-! ## Block scales (05 R124, R125) -/

/-- Elements of a block. -/
def blockLen (d : Nat) : Nat := if nScale d = 1 then 32 else 16

/-- The scale a scale byte stands for: `nan` for a NaN block (05 R124). -/
def scaleValue (d : Nat) (sb : Nat) : FV :=
  match nScale d with
  | 1 =>
    let x := sext 8 sb
    if -16 ≤ x ∧ x ≤ 15 then .scaled false 1 x else .nan
  | 2 =>
    if sb = 255 then .nan
    else if sb / 16 = 0 then .scaled false (sb % 16) (-11)
    else .scaled false (16 + sb % 16) ((sb / 16 : Nat) - 12)
  | _ => .fin false 1 1

/-- The larger of two magnitudes. -/
def magMax : FV → FV → FV
  | .fin _ a b, .fin _ c d => if a * d < c * b then .fin false c d else .fin false a b
  | _, y => y

/-- The scale byte of a block from its exact values (05 R125). -/
def blockScale (d : Nat) (vs : List FV) : Nat :=
  if vs.any (fun v => match v with | .fin _ _ _ => false | _ => true) then (if nScale d = 1 then 0x80 else 0xFF)
  else
    match vs.foldl magMax FV.zero, nMaxV d with
    | .fin _ a b, .fin _ mn md =>
      if a = 0 then (if nScale d = 1 then 0 else 0x80)
      else if mn = 0 then (Config.openScale d).toNat
      else if nScale d = 1 then
        let x := floorLog2 a b - floorLog2 mn md
        wrapNat 8 (if x < -16 then -16 else if 15 < x then 15 else x)
      else
        let c := roundMag 4 (-11) .rup 0 false (a * md) (b * mn)
        if c < 1 then 1 else if 0xFE < c then 0xFE else c
    | _, _ => 0

/-- Code of one element of a scaled block (05 R125): the exact quotient rounded once, saturating. -/
def scaledCode (d : Nat) (rm : Rnd) (r : Nat) (sb : Nat) (v : FV) : Nat :=
  match scaleValue d sb with
  | .fin _ n dd => if n = 0 then 0 else
    (match v with
     | .inf s => nConvertSat d rm r s
     | w => nConvert d rm r true (w.quo n dd))
  | _ => 0
where
  /-- An infinity saturates like any value too large for the format (09 R209). -/
  nConvertSat (d : Nat) (rm : Rnd) (_r : Nat) (s : Bool) : Nat :=
    if !nInt d && nS d = 0 && s then 0 else nOver d rm true s

/-! ## Planes (05 R126, 09 R211) -/

/-- Width of a plane. -/
def planeWidth : Plane → Nat
  | .p8 => 8 | .p4 => 4 | .p2 => 2 | .p1 => 1

/-- Offset of a plane in a code of width w, or none when w lacks it (09 R211). -/
def planeOff (pl : Plane) (w : Nat) : Option Nat :=
  match pl with
  | .p8 => if w = 8 then some 0 else none
  | .p4 => if 4 ≤ w ∧ w ≤ 7 then some (w - 4) else none
  | .p2 => if w % 4 ≥ 2 then some (w % 2) else none
  | .p1 => if w % 2 = 1 then some 0 else none

/-- The planes of a width, widest first, with their offsets. -/
def planesOf (w : Nat) : List (Nat × Nat) :=
  [Plane.p8, .p4, .p2, .p1].filterMap (fun p => (planeOff p w).map (fun o => (planeWidth p, o)))

/-! ## Real functions to about 100 bits -/

def ln2fix : Nat := 235865763225513294137944142764154484399
def pifix : Nat := 4591442807048218921384805199743311128454155024418

/-- The bit length of the fixed-point values below. -/
def fxP : Nat := 160

/-- Integer square root by bisection on bits: the largest r < 2^k above `acc` with r² ≤ n. -/
def isqrtGo (n : Nat) : Nat → Nat → Nat
  | 0, acc => acc
  | k + 1, acc => let r := acc + 2 ^ k; isqrtGo n k (if r * r ≤ n then r else acc)

def isqrt (n : Nat) : Nat := isqrtGo n (Nat.log2 n / 2 + 1) 0

/-- Σ y^i / i! in fixed point with p bits: `t` is the running term. -/
def expTaylor (p : Nat) (y : Nat) : Nat → Nat → Nat → Nat
  | 0, _, _ => 0
  | k + 1, i, t => t + expTaylor p y k (i + 1) (t * y / 2 ^ p / (i + 1))

/-- e^y for y in [0, 1), y and the result scaled by 2^p. -/
def expFix (p y : Nat) : Nat := expTaylor p y 60 0 (2 ^ p)

def sqFix (p : Nat) : Nat → Nat → Nat
  | 0, x => x
  | k + 1, x => sqFix p k (x * x / 2 ^ p)

/-- 2^f for f = fn/fd in [0, 1), scaled by 2^160. -/
def exp2Fix (fn fd : Nat) : Nat := expFix 160 (ln2fix * 2 ^ 32 * fn / fd)

/-- Fractional bits of log2 y, y in [1, 2) scaled by 2^p. -/
def log2Bits (p : Nat) : Nat → Nat → Nat → Nat
  | 0, _, acc => acc
  | k + 1, y, acc =>
    let z := y * y / 2 ^ p
    if 2 ^ (p + 1) ≤ z then log2Bits p k (z / 2) (2 * acc + 1) else log2Bits p k z (2 * acc)

/-- log2 (n/d) scaled by 2^110. -/
def log2Fix (n d : Nat) : Int :=
  let k := floorLog2 n d
  let (a, b) := if 0 ≤ k then (n, d * 2 ^ k.toNat) else (n * 2 ^ (-k).toNat, d)
  k * (2 ^ 110 : Nat) + (log2Bits 256 110 (a * 2 ^ 256 / b) 0 : Nat)

/-- e^(2x) for x = n/d in [0, 9), scaled by 2^256. -/
def exp2xFix (n d : Nat) : Nat := sqFix 256 6 (expFix 256 (2 * n * 2 ^ 256 / (d * 64)))

/-- Σ (−1)^i t_i of a sine or cosine series at r² = z, from the term t; `j` is the index of its power. -/
def trigSeries (z : Nat) : Nat → Nat → Nat → Int
  | 0, _, _ => 0
  | k + 1, j, t => (t : Int) - trigSeries z k (j + 2) (t * z / 2 ^ fxP / ((j + 1) * (j + 2)))

/-- sin or cos of n/d, scaled by 2^160. -/
def trigFix (cos : Bool) (neg : Bool) (n d : Nat) : Int :=
  let r := n * 2 ^ fxP / d % (2 * pifix)
  let z := r * r / 2 ^ fxP
  if cos then trigSeries z 50 0 (2 ^ fxP)
  else (if neg then -1 else 1) * trigSeries z 50 1 r

/-! ## Approximate functions (09 R201, R202) -/

/-- |x − y| ≤ bound for rationals x = xs·xn/xd, y = ys·yn/yd and a bound bn·2^bq. -/
def within (x y : Int × Nat) (bn : Nat) (bq : Int) : Bool :=
  let diff := (x.1 * y.2 - y.1 * x.2).natAbs
  let den := x.2 * y.2
  if 0 ≤ bq then decide (diff ≤ den * bn * 2 ^ bq.toNat) else decide (diff * 2 ^ (-bq).toNat ≤ den * bn)

/-- Exponent of the FP32 ulp in the binade of n/d (09 R201). -/
def ulpExp (n d : Nat) : Int :=
  let k := floorLog2 n d - 23
  if k < -149 then -149 else k

/-- The FP32 code an approximate function returns for the operand x when its value is ±n/d up to 2^−100 and the bound is
bn·2^bq: the part's own code where it keeps within the bound and, below the normal range, has the value's sign, so that an underflow gives a
zero of that sign (R202); else the value rounded to nearest (log 4). -/
def approxPick (fn : Nat) (x : Nat) (neg : Bool) (n d : Nat) (bn : Nat) (bq : Int) : Nat :=
  if n ≠ 0 && geQ n d 128 then f32.sign neg + f32.infc else
  match f32.value (Config.approxBits fn (BitVec.ofNat 32 x)).toNat with
  | .fin s a b =>
    if within (sgnd s a, b) (sgnd neg n, d) bn bq && (s = neg || geQ a b (-126)) then (Config.approxBits fn (BitVec.ofNat 32 x)).toNat
    else f32.round .rne 0 false (.fin neg n d)
  | _ => f32.round .rne 0 false (.fin neg n d)

/-- Whether n/d, in lowest binary terms of an FP32 value, is a power of two. -/
def isPow2 (n d : Nat) : Bool := n ≠ 0 && (let k := floorLog2 n d; if 0 ≤ k then n = d * 2 ^ k.toNat else n * 2 ^ (-k).toNat = d)

def qOne : Nat := 0x3F800000

/-- FRCP (09 Tables 9.5, 9.6). -/
def frcpOf (x : Nat) : Nat :=
  match f32.value x with
  | .nan => f32.nanc
  | .inf s => f32.sign s
  | .fin s n d =>
    if n = 0 then f32.sign s + f32.infc
    else if isPow2 n d then f32.round .rne 0 false (.fin s d n)
    else approxPick 0 x s d n 1 (ulpExp d n)

/-- FRSQ; the value is the root of d/n to 2^−200. -/
def frsqOf (x : Nat) : Nat :=
  match f32.value x with
  | .nan => f32.nanc
  | .inf s => if s then f32.nanc else 0
  | .fin s n d =>
    if n = 0 then f32.sign s + f32.infc
    else if s then f32.nanc
    else
      let a := isqrt (d * 2 ^ 600 / n)
      if isPow2 n d && floorLog2 n d % 2 = 0 then f32.round .rne 0 false (.fin false a (2 ^ 300))
      else approxPick 1 x false a (2 ^ 300) 1 (ulpExp a (2 ^ 300))

/-- FSQRT, correctly rounded: an inexact root is represented by its floor on a fine grid plus half a unit of that grid,
which lies strictly between the same neighbours and on the same side of their middle; the random word of RS compares
with the floor of the discarded fraction. -/
def fsqrtOf (rm : Rnd) (r : Nat) (x : Nat) : Nat :=
  match f32.value x with
  | .nan => f32.nanc
  | .inf s => if s then f32.nanc else f32.infc
  | .fin s n d =>
    if n = 0 then f32.sign s
    else if s then f32.nanc
    else
      let m := n * 2 ^ 600 / d
      let a := isqrt m
      if a * a * d = n * 2 ^ 600 then f32.round rm r false (.fin false a (2 ^ 300))
      else f32.round rm r false (.fin false (2 * a + 1) (2 ^ 301))

/-- FEXP2. -/
def fexp2Of (x : Nat) : Nat :=
  match f32.value x with
  | .nan => f32.nanc
  | .inf s => if s then 0 else f32.infc
  | .fin s n d =>
    if n = 0 then qOne
    else
      let fl : Int := if s then -((n + d - 1) / d : Nat) else (n / d : Nat)
      if 128 ≤ fl then f32.infc
      else if s && decide (150 * d ≤ n) then 0
      else if n % d = 0 then f32.round .rne 0 false (.scaled false 1 fl)
      else
        let fr := if s then (d - n % d) else n % d
        match FV.scaled false (exp2Fix fr d) (fl - 160) with
        | .fin _ a b => approxPick 2 x false a b 2 (ulpExp a b)
        | _ => 0

/-- FLOG2. -/
def flog2Of (x : Nat) : Nat :=
  match f32.value x with
  | .nan => f32.nanc
  | .inf s => if s then f32.nanc else f32.infc
  | .fin s n d =>
    if n = 0 then f32.sign true + f32.infc
    else if s then f32.nanc
    else if isPow2 n d then f32.round .rne 0 false (.ofInt (floorLog2 n d))
    else
      let y := log2Fix n d
      if d ≤ 2 * n && n ≤ 2 * d then approxPick 3 x (decide (y < 0)) y.natAbs (2 ^ 110) 1 (-22)
      else approxPick 3 x (decide (y < 0)) y.natAbs (2 ^ 110) 2 (ulpExp y.natAbs (2 ^ 110))

/-- FTANH. -/
def ftanhOf (x : Nat) : Nat :=
  match f32.value x with
  | .nan => f32.nanc
  | .inf s => f32.sign s + qOne
  | .fin s n d =>
    if n * 4096 < d then x
    else if 9 * d ≤ n then f32.sign s + qOne
    else
      let e := exp2xFix n d
      approxPick 4 x s (e - 2 ^ 256) (e + 2 ^ 256) 2 (ulpExp (e - 2 ^ 256) (e + 2 ^ 256))

/-- FSIN and FCOS. -/
def ftrigOf (cos : Bool) (x : Nat) : Nat :=
  match f32.value x with
  | .nan => f32.nanc
  | .inf _ => f32.nanc
  | .fin s n d =>
    if n = 0 then (if cos then qOne else x)
    else if 65536 * d ≤ n then (if cos then qOne else 0)
    else
      let y := trigFix cos s n d
      approxPick (if cos then 6 else 5) x (decide (y < 0)) y.natAbs (2 ^ fxP) 1 (-21)

end Sys2Proof.Machine
end

