-- ==== Sys2Proof/Machine/Crypto.lean ====
section
/-! DEFINITION. Sys2Proof/Machine/Crypto.lean: SHA-384, and signatures by ECDSA on curve P-384 over it (01 R19, 17 R354, R357). The spec names the two and
gives neither; they are those of FIPS 180-4 and FIPS 186-5 (PRESUMED, log 41). -/

namespace Sys2Proof.Machine

/-! ## SHA-384 -/

/-- The number whose bytes, highest first, these are. -/
def ofBytesBE (bs : List Byte) : Nat := ofBytes bs.reverse

/-- Bytes of a number, highest first. -/
def bytesBE (n w : Nat) : List Byte := (bytesOf n w).reverse

/-- Rotation of a 64-bit word to the right. -/
def rotr (n x : Nat) : Nat := (x / 2 ^ n + x * 2 ^ (64 - n)) % 2 ^ 64

def xor3 (a b c : Nat) : Nat := Nat.xor (Nat.xor a b) c

/-- The constants of the 80 rounds. -/
def shaK : List Nat :=
  [0x428a2f98d728ae22, 0x7137449123ef65cd, 0xb5c0fbcfec4d3b2f, 0xe9b5dba58189dbbc,
   0x3956c25bf348b538, 0x59f111f1b605d019, 0x923f82a4af194f9b, 0xab1c5ed5da6d8118] ++
  [0xd807aa98a3030242, 0x12835b0145706fbe, 0x243185be4ee4b28c, 0x550c7dc3d5ffb4e2,
   0x72be5d74f27b896f, 0x80deb1fe3b1696b1, 0x9bdc06a725c71235, 0xc19bf174cf692694] ++
  [0xe49b69c19ef14ad2, 0xefbe4786384f25e3, 0x0fc19dc68b8cd5b5, 0x240ca1cc77ac9c65,
   0x2de92c6f592b0275, 0x4a7484aa6ea6e483, 0x5cb0a9dcbd41fbd4, 0x76f988da831153b5] ++
  [0x983e5152ee66dfab, 0xa831c66d2db43210, 0xb00327c898fb213f, 0xbf597fc7beef0ee4,
   0xc6e00bf33da88fc2, 0xd5a79147930aa725, 0x06ca6351e003826f, 0x142929670a0e6e70] ++
  [0x27b70a8546d22ffc, 0x2e1b21385c26c926, 0x4d2c6dfc5ac42aed, 0x53380d139d95b3df,
   0x650a73548baf63de, 0x766a0abb3c77b2a8, 0x81c2c92e47edaee6, 0x92722c851482353b] ++
  [0xa2bfe8a14cf10364, 0xa81a664bbc423001, 0xc24b8b70d0f89791, 0xc76c51a30654be30,
   0xd192e819d6ef5218, 0xd69906245565a910, 0xf40e35855771202a, 0x106aa07032bbd1b8] ++
  [0x19a4c116b8d2d0c8, 0x1e376c085141ab53, 0x2748774cdf8eeb99, 0x34b0bcb5e19b48a8,
   0x391c0cb3c5c95a63, 0x4ed8aa4ae3418acb, 0x5b9cca4f7763e373, 0x682e6ff3d6b2b8a3] ++
  [0x748f82ee5defb2fc, 0x78a5636f43172f60, 0x84c87814a1f0ab72, 0x8cc702081a6439ec,
   0x90befffa23631e28, 0xa4506cebde82bde9, 0xbef9a3f7b2c67915, 0xc67178f2e372532b] ++
  [0xca273eceea26619c, 0xd186b8c721c0c207, 0xeada7dd6cde0eb1e, 0xf57d4f7fee6ed178,
   0x06f067aa72176fba, 0x0a637dc5a2c898a6, 0x113f9804bef90dae, 0x1b710b35131c471b] ++
  [0x28db77f523047d84, 0x32caab7b40c72493, 0x3c9ebe0a15c9bebc, 0x431d67c49c100d4c,
   0x4cc5d4becb3e42b6, 0x597f299cfc657e2a, 0x5fcb6fab3ad6faec, 0x6c44198c4a475817]

/-- The eight words of the hash before the first block. -/
def shaInit : List Nat :=
  [0xcbbb9d5dc1059ed8, 0x629a292a367cd507, 0x9159015a3070dd17, 0x152fecd8f70e5939,
   0x67332667ffc00b31, 0x8eb44a8768581511, 0xdb0c2e0d64f98fa7, 0x47b5481dbefa4fa4]

/-- The next word of the message schedule from the sixteen before it. -/
def shaNext (w : List Nat) : Nat :=
  let a := w.getD 14 0
  let b := w.getD 1 0
  (xor3 (rotr 19 a) (rotr 61 a) (a / 2 ^ 6) + w.getD 9 0 + xor3 (rotr 1 b) (rotr 8 b) (b / 2 ^ 7) + w.headD 0) % 2 ^ 64

/-- One round on the eight working words, with its constant and its word of the schedule. -/
def shaRound (v : List Nat) (k w : Nat) : List Nat :=
  match v with
  | [a, b, c, d, e, f, g, h] =>
    let t := h + xor3 (rotr 14 e) (rotr 18 e) (rotr 41 e) + Nat.xor g (Nat.land e (Nat.xor f g)) + k + w
    let u := xor3 (rotr 28 a) (rotr 34 a) (rotr 39 a) + xor3 (Nat.land a b) (Nat.land a c) (Nat.land b c)
    [(t + u) % 2 ^ 64, a, b, c, (d + t) % 2 ^ 64, e, f, g]
  | _ => v

/-- The rounds of one block: the constants left, the sixteen next words of the schedule, the working words. -/
def shaRounds : List Nat → List Nat → List Nat → List Nat
  | [], _, v => v
  | k :: ks, w, v => shaRounds ks (w.drop 1 ++ [shaNext w]) (shaRound v k (w.headD 0))

/-- The hash after one more block of 128 bytes. -/
def shaBlock (h : List Nat) (b : List Byte) : List Nat :=
  let w := (List.range 16).map (fun i => ofBytesBE ((b.drop (8 * i)).take 8))
  (h.zip (shaRounds shaK w h)).map (fun p => (p.1 + p.2) % 2 ^ 64)

/-- The blocks of a message. -/
def shaBlocks : Nat → List Byte → List (List Byte)
  | 0, _ => []
  | n + 1, bs => if bs.isEmpty then [] else bs.take 128 :: shaBlocks n (bs.drop 128)

/-- The padding after n bytes. -/
def shaPad (n : Nat) : List Byte := 0x80#8 :: (List.replicate ((128 - (n + 17) % 128) % 128) 0#8 ++ bytesBE 16 (8 * n))

/-- SHA-384 of a run of bytes. -/
def sha384 (data : List Byte) : BitVec 384 :=
  let h := (shaBlocks (data.length / 128 + 2) (data ++ shaPad data.length)).foldl shaBlock shaInit
  BitVec.ofNat 384 ((h.take 6).foldl (fun a x => a * 2 ^ 64 + x) 0)

/-! ## Curve P-384 -/

/-- The prime of the field, the coefficient b of y² = x³ − 3x + b, the order of the group, and its generator. -/
def p384 : Nat := 2 ^ 384 - 2 ^ 128 - 2 ^ 96 + 2 ^ 32 - 1
def p384b : Nat := 0xb3312fa7e23ee7e4988e056be3f82d19181d9c6efe8141120314088f5013875ac656398d8a2ed19d2a85c8edd3ec2aef
def p384n : Nat := 0xffffffffffffffffffffffffffffffffffffffffffffffffc7634d81f4372ddf581a0db248b0a77aecec196accc52973
def p384x : Nat := 0xaa87ca22be8b05378eb1c71ef320ad746e1d3b628ba79b9859f741e082542a385502f25dbf55296c3a545e3872760ab7
def p384y : Nat := 0x3617de4a96262c6f5d9e98bf9292dc29f8f41dbd289a147ce9da3113b5f0b8c00a60b1ce1d7e819d7a431d7c90ea0e5f

/-- A difference in the field. -/
def subP (a b : Nat) : Nat := (a + p384 - b % p384) % p384

/-- A power modulo m, by the low n bits of the exponent. -/
def powMod (m : Nat) : Nat → Nat → Nat → Nat
  | 0, _, _ => 1 % m
  | n + 1, x, e => (if e % 2 = 1 then x else 1) * powMod m n (x * x % m) (e / 2) % m

/-- The inverse modulo a prime. -/
def invMod (m x : Nat) : Nat := powMod m 384 (x % m) (m - 2)

/-- A point as X / Z² and Y / Z³; Z is 0 at infinity. -/
structure Jac where
  x : Nat
  y : Nat
  z : Nat
deriving DecidableEq, Repr

def Jac.inf : Jac := { x := 1, y := 1, z := 0 }

/-- Twice a point. -/
def Jac.dbl (a : Jac) : Jac :=
  if a.z = 0 ∨ a.y = 0 then Jac.inf
  else
    let yy := a.y * a.y % p384
    let zz := a.z * a.z % p384
    let s := 4 * a.x * yy % p384
    let m := 3 * subP a.x zz * (a.x + zz) % p384
    let x := subP (m * m) (2 * s)
    { x := x, y := subP (m * subP s x) (8 * yy * yy), z := 2 * a.y * a.z % p384 }

/-- The sum of two points. -/
def Jac.add (a b : Jac) : Jac :=
  if a.z = 0 then b
  else if b.z = 0 then a
  else
    let za := a.z * a.z % p384
    let zb := b.z * b.z % p384
    let u := a.x * zb % p384
    let s := a.y * zb * b.z % p384
    let h := subP (b.x * za) u
    let r := subP (b.y * za * a.z) s
    if h = 0 then (if r = 0 then a.dbl else Jac.inf)
    else
      let hh := h * h % p384
      let v := u * hh % p384
      let x := subP (r * r) (hh * h + 2 * v)
      { x := x, y := subP (r * subP v x) (s * (hh * h % p384)), z := h * a.z * b.z % p384 }

/-- u times one point plus v times another, by their low n bits; `c` is the sum of the two points. -/
def Jac.mul2 (a b c : Jac) : Nat → Nat → Nat → Jac
  | 0, _, _ => Jac.inf
  | n + 1, u, v =>
    let d := (Jac.mul2 a b c n (u / 2) (v / 2)).dbl
    match u % 2, v % 2 with
    | 1, 1 => d.add c
    | 1, _ => d.add a
    | _, 1 => d.add b
    | _, _ => d

def Jac.gen : Jac := { x := p384x, y := p384y, z := 1 }

/-- The coordinate x of a point that is not at infinity. -/
def Jac.affX (a : Jac) : Nat := let i := invMod p384 a.z; a.x * (i * i % p384) % p384

/-- Whether a pair of coordinates is a point of the curve. -/
def onCurve (x y : Nat) : Bool :=
  decide (x < p384) && decide (y < p384) && decide (y * y % p384 = (x * x * x + (p384 - 3) * x + p384b) % p384)

/-! ## ECDSA -/

/-- Whether a signature, r and then s, over a digest verifies under a public key, which is x and then y, highest byte first. -/
def ecdsaVerify (key : List Byte) (digest : BitVec 384) (sig : BitVec 768) : Bool :=
  let x := ofBytesBE (key.take 48)
  let y := ofBytesBE (key.drop 48)
  let r := sig.toNat / 2 ^ 384
  let s := sig.toNat % 2 ^ 384
  let w := invMod p384n s
  let q : Jac := { x := x, y := y, z := 1 }
  let t := Jac.mul2 Jac.gen q (Jac.gen.add q) 384 (digest.toNat * w % p384n) (r * w % p384n)
  key.length = 96 && onCurve x y && decide (1 ≤ r) && decide (r < p384n) && decide (1 ≤ s) && decide (s < p384n) && t.z ≠ 0 && t.affX % p384n = r

/-- The signature over a digest by a private key, with the secret number of the signature. -/
def ecdsaSign (d k : Nat) (digest : BitVec 384) : BitVec 768 :=
  let r := (Jac.mul2 Jac.gen Jac.gen Jac.gen.dbl 384 k 0).affX % p384n
  let s := invMod p384n k * ((digest.toNat + r * d) % p384n) % p384n
  BitVec.ofNat 768 (r * 2 ^ 384 + s)

/-- The signature of an attestation report over its words, by the device's key (17 R354; log 19). -/
def attest (words : List Nat) : BitVec 768 :=
  let z := sha384 (words.flatMap (bytesOf 8))
  ecdsaSign (Config.attestKey % (p384n - 1) + 1) (Config.attestNonce z % (p384n - 1) + 1) z

end Sys2Proof.Machine
end

