-- ==== Sys2Proof/Machine/KMap.lean ====
section
/-! DEFINITION. Sys2Proof/Machine/KMap.lean: finite maps from Nat as sorted lists of pairs, the one canonical form in
which the state holds everything that is addressed by a number. -/

namespace Sys2Proof.Machine

/-- A finite map with strictly rising keys. -/
abbrev KMap (α : Type) := List (Nat × α)

/-- The value at a key. -/
def kFind {α : Type} (k : Nat) : KMap α → Option α
  | [] => none
  | (j, x) :: m => if j = k then some x else kFind k m

/-- The map with a key set to a value. -/
def kSet {α : Type} (k : Nat) (v : α) : KMap α → KMap α
  | [] => [(k, v)]
  | (j, x) :: m => if j = k then (k, v) :: m else if k < j then (k, v) :: (j, x) :: m else (j, x) :: kSet k v m

/-- The map without a key. -/
def kErase {α : Type} (k : Nat) (m : KMap α) : KMap α := m.filter (fun e => decide (e.1 ≠ k))

/-- The value at a key, or a default for an absent key. -/
def kGet {α : Type} (d : α) (k : Nat) (m : KMap α) : α := (kFind k m).getD d

/-- The map with a key set, an entry equal to the default being left out. -/
def kPut {α : Type} [DecidableEq α] (d : α) (k : Nat) (v : α) (m : KMap α) : KMap α :=
  if v = d then kErase k m else kSet k v m

/-- Whether the keys rise strictly above a bound. -/
def kAbove {α : Type} (b : Nat) : KMap α → Bool
  | [] => true
  | (j, _) :: m => decide (b < j) && kAbove j m

/-- Whether a map is in canonical form: keys strictly rising. -/
def kSorted {α : Type} : KMap α → Bool
  | [] => true
  | (j, _) :: m => kAbove j m

/-- Insertion into a list of numbers without repeats, rising. -/
def insN (k : Nat) : List Nat → List Nat
  | [] => [k]
  | j :: m => if j = k then j :: m else if k < j then k :: j :: m else j :: insN k m

end Sys2Proof.Machine
end

