-- ==== Sys2Proof/Machine/State.lean ====
section
/-! DEFINITION. Sys2Proof/Machine/State.lean: the whole state of the device as plain data, why a step can stop, and the
device right after reset. Maps are sparse: a key that is not listed stands for the default its docstring names. -/

namespace Sys2Proof.Machine

/-! ## Code positions, registers and lanes -/

/-- A place in code (06 R152): an instruction address, the header address of its clause, and the clause's header word. At a
clause header `pc = hdr` and the header word is not yet read (0). -/
structure Pos where
  pc : Nat := 0
  hdr : Nat := 0
  hw : Nat := 0
deriving DecidableEq, Repr

/-- v and o registers of a lane with their poison bits (01 R13, 08 R184). Key n is vn, key 640 + n is on. An unlisted
register reads 0 when `epoch` is none; when it is some e, an unlisted v register holds a free value of that epoch
(07 R172; log 3). -/
structure RegFile where
  vals : KMap W32 := []
  pois : List Nat := []
  epoch : Option Nat := none
deriving DecidableEq, Repr

/-- Why a lane is Held-fault (24 R409, R418). -/
inductive HeldWhy where
  /-- an access of it is parked -/
  | access
  /-- the fetch at its PC faulted, at this address -/
  | fetch (va : Nat)
  /-- SUSPEND's event-word access faulted -/
  | suspend
  /-- SUSPEND found no free wait record at this slice; the order of the wait -/
  | waitRecord (die slice ord : Nat)
deriving DecidableEq, Repr

/-- Lane states (02 Table 2.2). -/
inductive LaneSt where
  | idle
  | reserved (kern table : Nat)
  | pinned
  | active (suit : Nat)
  | heldReady
  | heldBarrier (level : Nat)
  | heldWait (peg thr : Nat)
  | heldFault (why : HeldWhy)
deriving DecidableEq, Repr

/-- The item a lane holds (02 R27). -/
structure Item where
  kern : Nat
  item : Nat
  table : Nat
  tix : Nat
  age : Nat
  /-- the item is a continuation (03 R79) -/
  cont : Bool := false
  /-- the item has executed WILL, in any of its continuations (03 R54, R80) -/
  willed : Bool := false
deriving DecidableEq, Repr

/-- A lane's cut (07 R171). -/
structure Cut where
  pos : Pos
  ranges : List Rng
deriving DecidableEq, Repr

/-- What WILL captured (03 R54). -/
structure Will where
  ident : Nat
  range : Rng
deriving DecidableEq, Repr

/-- A sealed estate (03 R55, R77). The data and poison are those of the lane's registers at sealing. -/
structure Estate where
  /-- a self-estate of SUSPEND -/
  self : Bool
  ident : Nat
  /-- the heir deck's kernel number; for a self-estate, the item's own kernel -/
  deck : Nat
  start : Nat
  data : List (W32 × Bool)
  kern : Nat
  item : Nat
  /-- device clock at sealing; while the hand is swapped, the window's age (03 R64, R67) -/
  sealClk : Nat
  /-- the lane number an in-place claim compares with is the lane itself; `psum` and `epois` travel with a self-estate -/
  psum : Bool := false
  epois : Bool := false
deriving DecidableEq, Repr

/-- One lane of a formed hand. -/
structure Lane where
  st : LaneSt := .idle
  item : Option Item := none
  /-- resume position of a held lane (02 R30) -/
  pos : Pos := {}
  regs : RegFile := {}
  l0 : W64 := 0
  l1 : W64 := 0
  l0p : Bool := false
  l1p : Bool := false
  /-- p0 to p6, bit j of each; p7 is not stored and reads 1 -/
  preds : BitVec 7 := 0
  predp : BitVec 7 := 0
  /-- stochastic generator (05 R116) -/
  rng : W32 := 0
  /-- s.psum (06 R143) and EPOIS (14 Table 14.5) -/
  psum : Bool := false
  epois : Bool := false
  cut : Option Cut := none
  isSealed : Bool := true
  will : Option Will := none
  /-- statuses of resolved claims by claim number (03 R62); the latest CLAIM is `late` -/
  claims : KMap Nat := []
  late : Option Nat := none
  /-- number of claims not yet resolved -/
  claimsDue : Nat := 0
  estate : Option Estate := none
  /-- leased registers, each with the operation that leases it (06 R155) -/
  leases : List (Nat × Nat) := []
  /-- l0 and l1 set aside at trap entry (22 R381) -/
  saved : Option (W64 × Bool × W64 × Bool) := none
  /-- device clock since when the lane has been Held-ready without reforming (02 R44) -/
  heldSince : Option Nat := none
deriving DecidableEq, Repr

/-! ## Suits, hands, pegs -/

/-- An MMA or MMAG that waits for its team (13 R275): its fields, as in Instr. -/
structure MmaI where
  mmag : Bool
  ps : Bool
  gsrc : Bool
  m : MmaF
  a : Nat
  b : Src
  c : Option Nat
deriving DecidableEq, Repr

/-- A group of rows of an MMA or MMAG (13 R274): group number, first row, count, talon offset of its image. -/
structure RowGrp where
  g : Nat
  first : Nat
  n : Nat
  off : Nat
deriving DecidableEq, Repr

/-- A member of a team that has arrived (13 R275): its instruction, its operation and the address after it, with what its checks at issue found: the groups,
whether an operand was poisoned, the B offset or the words of the group table, and the talon bytes that it will read. -/
structure TeamW where
  i : MmaI
  op : Nat
  npc : Nat
  groups : List RowGrp := []
  pois : Bool := false
  words : List Nat := []
  reads : List (Nat × Nat) := []
deriving DecidableEq, Repr

/-- Why a suit is Stalled (02 R32). -/
inductive Stall where
  | ready
  /-- its slot has been filled on this clock, so that it is Ready at the next (02 R34) -/
  | filled
  /-- a clause WAIT mask -/
  | clause
  /-- a leased register -/
  | lease
  /-- WAITP: the clock after which it gives up its slot, the peg, and each executing lane with its threshold -/
  | waitp (until_ peg : Nat) (thrs : List (Nat × Nat))
  /-- a MELD window that ends at this clock -/
  | meld (until_ : Nat)
  /-- the issue point of an engine operation (12 R246) -/
  | issuePoint
  /-- a peg at 255 (06 R153) -/
  | peg
  /-- a team instruction waiting for the other members (13 R275) -/
  | team (w : TeamW)
  /-- talon bytes or a slot still in use (12 R250, 13 R267) -/
  | unit
  /-- KEYZ waiting for the channels, by its number (14 R297) -/
  | keyz (id : Nat)
  /-- a suit in Trap, which keeps its slot, whose fetch faulted replayably at this address (02 R33, 24 R409) -/
  | fault (va : Nat)
deriving DecidableEq, Repr

/-- Trap mode of a suit: TPC and the lanes that entered (07 R178, 22 R381). -/
structure TrapSt where
  tpc : Pos
  amask : List Nat
deriving DecidableEq, Repr

/-- A suit slot that is not Free (02 R32). -/
structure Suit where
  kern : Nat
  pos : Pos := {}
  stall : Stall := .ready
  /-- W of the issue arbitration (15 R315) -/
  wait : Nat := 0
  /-- device clock at which it took its slot (02 R44) -/
  since : Nat := 0
  trap : Option TrapSt := none
  /-- the clause last decoded for the suit: its header's address and the words after the header (06 R157) -/
  clause : Option (Nat × List W32) := none
deriving DecidableEq, Repr

/-- One operation counted on a peg, in issue order; `done` once it is eligible to decrement (06 R153). -/
structure PegEnt where
  op : Nat
  done : Bool
deriving DecidableEq, Repr

/-- A segment descriptor (04 Table 4.3). -/
structure Desc where
  w0 : W64 := 0
  w1 : W64 := 0
deriving DecidableEq, Repr

/-- What a hand keeps for each kernel it holds (05 R111, 14 R294). -/
structure KernSet where
  mode : W32
  /-- fmt0 to fmt15; unlisted reads 0 -/
  fmts : KMap W32
  gl : Desc
  kc : Desc
  tl : Desc
  ep : Desc
deriving DecidableEq, Repr

/-- Hand states (02 Table 2.6); a Swapped hand lies in its context's save (15 R320). -/
inductive HandSt where
  | unformed
  /-- open -/
  | opened
  | dealt
  | swapped
deriving DecidableEq, Repr

/-- A hand of a core. -/
structure Hand where
  st : HandSt := .unformed
  ctx : Nat := 0
  /-- seat in registers -/
  seat : Nat := 0
  /-- generation tag, 8 bits (02 R38) -/
  gen : Nat := 0
  /-- draw sequence number (02 R27) -/
  seq : Nat := 0
  /-- logical time, and the device clock of its last tick (04 R94) -/
  pts : Nat := 0
  ptsClk : Nat := 0
  suits : KMap Suit := []
  lanes : KMap Lane := []
  /-- pg0 to pg11; the value of a peg is the number of entries -/
  pegs : KMap (List PegEnt) := []
  sets : KMap KernSet := []
  /-- allotted pot slots, tN being the N-th (13 R262) -/
  tiles : List Nat := []
  /-- kernel and block of a Dealt hand -/
  block : Option (Nat × Nat) := none
  /-- team instructions issued by the block (13 R275) -/
  teamN : Nat := 0
  /-- it has made a fill action on this clock (02 R34) -/
  filled : Bool := false
  /-- lanes passed over at the next fill, after YIELD.slot (07 R177) -/
  passOver : List Nat := []
deriving DecidableEq, Repr

/-! ## Cores -/

/-- One pot slot (13 Table 13.2). Unlisted accumulators, checksums and flags are zero; an unlisted column scale is 1.0. -/
structure Slot where
  /-- acc[i][j] under key 64 i + j -/
  acc : KMap (BitVec 192) := []
  nan : List Nat := []
  pinf : List Nat := []
  ninf : List Nat := []
  cr : KMap (BitVec 192) := []
  cc : KMap (BitVec 192) := []
  pois : Bool := false
  cstat : Nat := 0
  scale : KMap (W32 × Bool) := []
deriving DecidableEq, Repr

/-- A copy of a line with its lease (04 R94); `pois` has bit s for sector s. -/
structure Copy where
  data : BitVec 512
  wts : Nat
  rts : Nat
  pois : BitVec 4
deriving DecidableEq, Repr

/-- An unpublished .c store (04 R103): 16 bytes or fewer at a physical address, within one sector. `later` are the addresses of
those of its bytes over which a later access of the core under another policy has written: for that policy the later write is the
newer one, while the store still takes its place in T when it is published (04 R104). -/
structure CStore where
  ctx : Nat
  /-- the hand of the storing item, and its generation -/
  hand : Nat
  gen : Nat
  /-- the operation and lane that completes when the store is published (11 Table 11.5) -/
  op : Nat
  lane : Nat
  pa : Nat
  data : List Byte
  pois : Bool
  /-- REPL of the page -/
  repl : Nat := 0
  later : List Nat := []
deriving DecidableEq, Repr

/-- A translation buffer entry of a core (16 R327): the leaf that a walk read for a page of 2^lo bytes of a context, with the times
of the entries it read, as a copy under 04 R94, and the device clock at which its lease ends. -/
structure Tlb where
  ctx : Nat
  /-- virtual address of the page -/
  va : Nat
  lo : Nat
  level : Nat
  leaf : Nat
  wts : Nat
  rts : Nat
  till : Nat
deriving DecidableEq, Repr

/-- A woken or waiting continuation (03 R76, R79). -/
structure Cont where
  ctx : Nat
  kern : Nat
  item : Nat
  pc : Nat
  /-- carry range -/
  start : Nat
  len : Nat
  psum : Bool
  epois : Bool
  willed : Bool
  /-- logical time of the suspension, then of the event that wakes it (03 R78) -/
  pts : Nat
deriving DecidableEq, Repr

/-- A core. -/
structure Core where
  /-- hands 0 to 95; unlisted is Unformed with tag 0 -/
  hands : KMap Hand := []
  /-- scratchpad; an unlisted byte is 0 -/
  scr : List Host.Cell := []
  scrPois : List Nat := []
  /-- talon -/
  tal : List Host.Cell := []
  talPois : List Nat := []
  pot : KMap Slot := []
  /-- L1 copies by line number -/
  l1 : KMap Copy := []
  /-- translation buffer -/
  tlb : List Tlb := []
  /-- unpublished .c stores in core order -/
  cbuf : List CStore := []
  /-- continuation queue, earliest woken first (03 R78) -/
  contq : List Cont := []
  /-- stage deck the core serves: context and kernel (15 R316) -/
  serves : Option (Nat × Nat) := none
  /-- order of the last entry draw of each kernel, key 65536 ctx + kern (02 R41) -/
  lastDraw : KMap Nat := []
  /-- kernels an item of which consumed poison on this core (14 Table 14.5), key 65536 ctx + kern -/
  kpsum : List Nat := []
  offline : Bool := false
  /-- some hand has left its seats since they were last zeroed, so that the seats which no hand holds are no longer zero -/
  touched : Bool := false
deriving DecidableEq, Repr

/-! ## Kernels -/

/-- A launch record as accepted (15 Tables 15.1, 15.2): header words W0 to W15; unlisted k and fmt registers are 0. -/
structure LaunchRec where
  w : List W64 := []
  k : KMap W32 := []
  fmt : KMap W32 := []
deriving DecidableEq, Repr

/-- Completion states (02 Table 2.7). -/
inductive CState where
  | live | drained | exited | complete
deriving DecidableEq, Repr

/-- A granted table (02 R39). -/
structure Table where
  core : CoreRef
  /-- scratchpad allocation: base and bytes -/
  base : Nat
  len : Nat
  /-- s.tix of the items not yet drawn, in draw order -/
  left : List Nat
  /-- number of items that have exited or were never created -/
  out : Nat
  barrier : Bool := false
deriving DecidableEq, Repr

/-- A kernel, or an open deck (15 R304). -/
structure Kernel where
  lrec : LaunchRec := {}
  gl : Desc := {}
  kc : Desc := {}
  /-- descriptor of its estate area and task ring (15 R304) -/
  ep : Desc := {}
  /-- the ep segment of its items -/
  epseg : Desc := {}
  /-- device count and rank of a multi-device launch (17 R349) -/
  fab : Nat × Nat := (1, 0)
  /-- order of its acceptance, and that of the deck its HEIRK named -/
  born : Nat := 0
  heirBorn : Nat := 0
  /-- an heir was launched onto the deck that its HEIRK named, kept when that deck's number is used again -/
  heirHad : Bool := false
  cst : CState := .live
  deckOnly : Bool := false
  closed : Bool := false
  cancelled : Bool := false
  /-- probate of the deck has taken place (03 R72) -/
  probated : Bool := false
  /-- records appended to a task deck -/
  appended : Nat := 0
  /-- ring entry of each task appended and not yet drawn, by item index (15 R306) -/
  ring : KMap Nat := []
  /-- granted tables that have not ended, and the key of the core of each that has -/
  tables : KMap Table := []
  ended : KMap Nat := []
  /-- lowest table index never granted -/
  nextTable : Nat := 0
  /-- predecessors not yet satisfied (15 R310) -/
  preds : List Nat := []
  /-- items arrived at the current barrier by key 2^40 level + unit (02 R28), and the latest logical time of an arrival -/
  arrivals : KMap (List Nat) := []
  barPts : KMap Nat := []
  /-- logical time of the launch, of the latest DEAL and of the predecessors' completions (04 R105, R106, 21 R370) -/
  pts : Nat := 0
  /-- latest logical time of an event of its items that have exited (04 R106) -/
  endPts : Nat := 0
  /-- items that consumed poison (22 R384) -/
  poisoned : Nat := 0
  /-- identity to be visited next by probate, and the reason (03 R72) -/
  probate : Option (Nat × Nat) := none
  /-- identities of its records that a claim has left at STATE 3 before any testator sealed them (03 R70) -/
  early : List Nat := []
  /-- steps made on entering Complete: 0 none, 1 the poison report (22 R384), 3 every step of 15 R311 -/
  finish : Nat := 0
deriving DecidableEq, Repr

/-! ## Operations, requests and claims in flight -/

/-- The rounding environment of a floating operation, captured at issue (05 R111, 11 R232): the mode, its random words,
DAZ, FTZ and SATF. -/
structure FEnv where
  rnd : Rnd := .rne
  r0 : W32 := 0
  r1 : W32 := 0
  daz : Bool := false
  ftz : Bool := false
  satf : Bool := false
deriving DecidableEq, Repr

/-- What an access does (11). -/
inductive AccKind where
  /-- load, `sx` sign-extends -/
  | load (sx : Bool)
  | store
  | atomic (op : AtomOp) (b : W64) (env : FEnv)
  | cas (b c : W64)
  | evadd (b : W64)
  /-- MOVS into the scratchpad at this core offset, and out of it -/
  | movsIn (sc : Nat)
  | movsOut (sc : Nat)
deriving DecidableEq, Repr

/-- One access of one lane. -/
structure Access where
  kind : AccKind
  /-- the segment is sc: `addr` is a scratchpad offset of the core, else a virtual address -/
  sc : Bool
  addr : Nat
  len : Nat
  pol : Pol
  /-- destination register keys, low word first -/
  dst : List Nat
  /-- bytes of a store, and whether an operand is poisoned -/
  data : List Byte := []
  pois : Bool := false
  /-- poison of each 16-byte piece of an MDST row -/
  rowPois : List Bool := []
  /-- instruction PL, for replay -/
  pl : Nat := 0
deriving DecidableEq, Repr

/-- One lane of a counted operation. -/
inductive LaneOpSt where
  /-- a request of it is on its way -/
  | pending
  /-- its translation faulted replayably (24 R409) -/
  | parked (a : Access)
  /-- the result has arrived: register key, value, poison -/
  | arrived (ws : List (Nat × W32 × Bool))
  | done
deriving DecidableEq, Repr

structure LaneOp where
  lane : Nat
  kern : Nat
  item : Nat
  age : Nat
  /-- requests of the lane still outstanding -/
  due : Nat := 0
  st : LaneOpSt
  /-- its item has been killed, or its lane rewound alone, since: what returns is dropped (06 R156) -/
  void : Bool := false
deriving DecidableEq, Repr

/-- Address of an engine endpoint: virtual, scratchpad of the core, or talon of the core. -/
inductive ESpace where
  | mem | sc | tl
deriving DecidableEq, Repr

structure EAddr where
  sp : ESpace
  addr : Nat
deriving DecidableEq, Repr

/-- A range an engine has still to claim. -/
structure ERange where
  at_ : EAddr
  len : Nat
  dst : Bool
deriving DecidableEq, Repr

/-- A claim an engine holds (04 R99), with the translation it used (24 R414). -/
structure EClaim where
  at_ : EAddr
  pa : Nat
  len : Nat
  dst : Bool
  repl : Nat := 0
deriving DecidableEq, Repr

/-- What an engine operation does (12). -/
inductive EngK where
  | copy (src dst : EAddr) (len : Nat)
  | copy2 (src dst : EAddr) (row rows ps pd : Nat)
  | gather (src dst idx : EAddr) (n e : Nat)
  | scatter (src dst idx : EAddr) (n e : Nat)
  | reduce (src dst : EAddr) (len : Nat) (bf mx : Bool) (env : FEnv)
  | convert (src dst : EAddr) (n : Nat) (sf df : CvtFmt) (fmt : W32) (sat : Bool) (env : FEnv)
  | put (src : EAddr) (len : Nat)
  | get (dst : EAddr) (len : Nat)
  | signal (addend : W64)
deriving DecidableEq, Repr

/-- The engine part of an operation. -/
structure Eng where
  kind : EngK
  leader : Nat
  /-- suit and PC of the instruction, and the segment offset that a fault of the leader names -/
  suit : Nat := 0
  pc : Nat := 0
  off : Nat := 0
  /-- GATH and SCAT: bytes of the segment from the base on, and whether the reach of the indices has been checked -/
  room : Nat := 0
  reached : Bool := true
  /-- its logical time, once issued -/
  pt : Nat := 0
  /-- claim ticket: counter value and die (04 R101) -/
  ticket : Nat
  todo : List ERange
  held : List EClaim := []
  issued : Bool := false
  /-- parked in a replayable fault -/
  parked : Bool := false
  /-- stopped by pre-emption (15 R319) -/
  stopped : Bool := false
  /-- bytes it writes, and first destination and source addresses, for the stop record (22 Table 22.6) -/
  total : Nat := 0
  dstA : Nat := 0
  srcA : Nat := 0
  /-- its message, for remote operations -/
  msg : Option Nat := none
  /-- lines released -/
  rel : Nat := 0
  /-- GATH and SCAT: the indices, with their poison, as they stood when their list was claimed -/
  idx : List (Nat × Bool) := []
deriving DecidableEq, Repr

/-- A peer table or inbound window entry (17 Table 17.5). -/
structure PeerEnt where
  w0 : Nat
  w1 : Nat
deriving DecidableEq, Repr

/-- A remote operation whose leader's read of its peer-table entry is parked (24 R409): the entry, the right and the remote range that it is to be
checked for, and the reason and address for which its local range fails, if it does. -/
structure RemWait where
  peer : Nat
  /-- virtual address of the entry, and what reading it needs -/
  va : Nat
  right : Nat
  rem : Nat
  len : Nat
  bad : Option (Nat × Nat) := none
  empty : Bool := false
  /-- place of the instruction -/
  pos : Pos := {}
deriving DecidableEq, Repr

/-- What completes an operation beside its lanes. -/
inductive OpKind where
  | access
  | engine (e : Eng)
  /-- a remote operation that waits for its peer-table entry -/
  | remote (w : RemWait) (e : Eng)
  /-- matrix operation on a pot slot -/
  | matrix
  /-- CLAIM -/
  | claim
  /-- ESTAT: the destination register key of each lane is in its lane entry -/
  | estat (dst : Option Nat)
  /-- SCRUB of a context -/
  | scrub (ctx : Nat) (dst : Option Nat)
  /-- LAUNCH and DEAL at their issue point: the source in the scratchpad or in memory, and the level of the instruction -/
  | launch (sc : Bool) (at_ pl : Nat) (dst : Option Nat)
  | deal (sc : Bool) (at_ pl n deck : Nat) (dst : Option Nat)
deriving DecidableEq, Repr

/-- A counted operation in flight (06 R153, R156). -/
structure Op where
  h : HandRef
  gen : Nat
  ctx : Nat
  kern : Nat
  major : Nat
  peg : Option Nat
  lanes : List LaneOp
  kind : OpKind
  /-- lanes of the issuing suit, each with its kernel and item, for an operation with an issue point (12 R246) -/
  mates : List (Nat × Nat × Nat) := []
  /-- logical time that its hand had when it was released (04 R90) -/
  pts : Nat := 0
  /-- a matrix operation's first destination and source addresses, and the bytes that it writes, for its stop record (22 Table 22.6) -/
  span : Nat × Nat × Nat := (0, 0, 0)
deriving DecidableEq, Repr

/-- A memory request on its way to its home. -/
structure Req where
  op : Nat
  lane : Nat
  h : HandRef
  gen : Nat
  ctx : Nat
  kern : Nat
  item : Nat
  acc : Access
  /-- physical address, or scratchpad offset when `acc.sc` -/
  pa : Nat
  /-- policy in effect after the page's ceiling (04 R86), and REPL of the page (16 Table 16.3) -/
  pol : Pol
  repl : Nat
  /-- logical time that its hand had when it was released (04 R90) -/
  pts : Nat := 0
  /-- the lease of its translation: the logical time and the device clock at which it ends (16 R327) -/
  upTo : Nat := 2 ^ 64
  till : Nat := 2 ^ 64
  /-- its translation, made again after that lease had ended, faulted replayably (24 R409) -/
  parked : Bool := false
deriving DecidableEq, Repr

/-- A claim of an estate on its way to the record's home (03 R60, R63). -/
structure ClaimReq where
  ctx : Nat
  h : HandRef
  gen : Nat
  lane : Nat
  kern : Nat
  item : Nat
  ident : Nat
  /-- the identity is outside the deck's range, or the kernel is no heir -/
  outside : Bool
  dst : Nat
  n : Nat
  /-- its item has been killed, or its lane rewound alone, since (06 R156) -/
  void : Bool := false
  /-- seating claim j, or none for CLAIM -/
  j : Option Nat
  op : Option Nat
deriving DecidableEq, Repr

/-- A wait record (03 R76). -/
structure WaitRec where
  die : Nat
  slice : Nat
  /-- physical address of the event word -/
  pa : Nat
  target : Nat
  core : CoreRef
  cont : Cont
deriving DecidableEq, Repr

/-! ## Contexts -/

/-- A pending entry of a granule that has faulted (24 R410). -/
structure Pend where
  va : Nat
  level : Nat
  count : Nat
  /-- sequence number of its record, when one was written, and W0 of it without COUNT -/
  seq : Option Nat
  w0 : Nat := 0
deriving DecidableEq, Repr

/-- An action of the device that waits for a replay-all (24 R452), by what retries it. -/
inductive DevWait where
  | launchEntry
  | claim (id : Nat)
  | seal_ (h : HandRef) (lane : Nat)
  | evict (h : HandRef) (lane : Nat)
  | probate (kern : Nat)
  | finish (kern : Nat)
  | draw (h : HandRef)
deriving DecidableEq, Repr

/-- A write of the device for a context that waits for an engine claim on its line (04 R100): bytes at a physical address, no earlier than a logical
time, for the context `ctx` by an agent on a die. -/
structure LateW where
  ctx : Nat
  die : Nat
  pts : Nat
  pa : Nat
  data : List Byte
  pois : Bool := false
  repl : Nat := 0
  /-- a .c store that a table's end has published: its hand with generation, and the operation and lane that complete with it -/
  store : Option (HandRef × Nat × Nat × Nat) := none
deriving DecidableEq, Repr

/-- A halt (22 R385). -/
structure Halt where
  cause : Nat
  clk : Nat
  seq : Nat := 0
  norec : Bool := false
  tmo : Bool := false
  ovf : Bool := false
  done : Bool := false
  /-- hands that the halt line has not yet reached -/
  ahead : List HandRef := []
  /-- the completion state that each kernel had at the halt point -/
  states : KMap CState := []
deriving DecidableEq, Repr

/-- A scrub in progress (26 R435): the units of cores still to do, as (core, unit), the frames passed over, and the waiting SCRUBs. -/
structure Scrub where
  cores : List (CoreRef × Nat)
  skipped : List Nat := []
  ops : List Nat := []
  /-- its logical time: no earlier than the issuing item's -/
  pts : Nat := 0
deriving DecidableEq, Repr

/-- A KEYZ waiting for the channels (14 R297). -/
structure Keyz where
  id : Nat
  h : HandRef
  suit : Nat
  dst : Dst
  lanes : List Nat
  deadline : Nat
deriving DecidableEq, Repr

/-- Pre-emption status (15 Table 15.5). -/
inductive PStat where
  | running | saving | saved | restoring | lost
deriving DecidableEq, Repr

/-- What a core's save holds (15 R320). -/
structure SavedCore where
  core : CoreRef
  hands : KMap Hand
  slots : KMap Slot
  scr : List Host.Cell
  scrPois : List Nat
  tal : List Host.Cell
  talPois : List Nat
deriving DecidableEq, Repr

/-- A context (17 R352). -/
structure Ctx where
  maxpl : Nat := 0
  prot : Bool := false
  part : Nat := 0
  fbq : Nat := 0
  fbuf : Nat := 0
  tqq : Nat := 0
  tq : Nat := 0
  lq : Nat := 0
  ulog : Nat := 0
  savesz : Nat := 0
  /-- cores it may use, by die, bit c for core c; unlisted is none -/
  cores : KMap Nat := []
  /-- CX.STATE: 1 Open, 2 Stopping, 3 Stopped (17 R353) -/
  state : Nat := 1
  /-- CX.KSTATE (14 Table 14.6) -/
  kstate : Nat := 0
  /-- every other privileged register that stores a value, by PRN; unlisted reads 0 -/
  regs : KMap W64 := []
  kerns : KMap Kernel := []
  /-- next kernel number to try (15 R303) -/
  nextKern : Nat := 0
  pend : List Pend := []
  waits : List DevWait := []
  /-- actions of the device that wait for an engine claim (04 R100) -/
  busy : List DevWait := []
  /-- slices for which a WAITFULL record is pending, 32 die + slice -/
  waitFull : List Nat := []
  pstat : PStat := .running
  saves : List SavedCore := []
  /-- largest pts of its hands at the save (04 R98) -/
  savePts : Nat := 0
  halt : Option Halt := none
  scrub : Option Scrub := none
  /-- CX.SCRUBP and CX.SCRUBOK -/
  scrubP : Nat := 0
  scrubOk : Bool := false
  /-- DESTROY waits for the scrub (14 R298) -/
  destroyDue : Bool := false
  /-- KEYZs of its key slot that wait, oldest first -/
  keyz : List Keyz := []
  /-- its key slot at each channel (01 R19); unlisted is zero -/
  slots : KMap (BitVec 512) := []
  /-- bucket settings in effect in this window, and tokens by channel and port (16 R335, R336) -/
  hbmq : W64 := 0
  l2q : W64 := 0
  tokH : KMap Nat := []
  tokP : KMap Nat := []
  /-- sequence numbers of remote operations by peer entry (17 R348) -/
  peerSeq : KMap Nat := []
  /-- writes of the launch register that the queue has not reached the end of: CX.LQTAIL and the logical time of each (21 R370), and the
  logical time of the latest launch (15 R309) -/
  lqWrites : List (Nat × Nat) := []
  launchPts : Nat := 0
deriving DecidableEq, Repr

/-! ## The device -/

/-- Times of a line at its home (04 R94). -/
structure LineTs where
  wts : Nat := 0
  rts : Nat := 0
deriving DecidableEq, Repr

/-- A line held by its home slice (01 R16): the sectors that it holds, and its dirty sectors, each with the context that last
dirtied it, 256 for one since torn down (16 Table 16.9). -/
structure SliceLine where
  held : List Nat := []
  dirty : KMap Nat := []
deriving DecidableEq, Repr

/-- A poisoned sector's record entry (24 R419, R422): sector number and the contexts that have been told. -/
structure PoisEnt where
  sector : Nat
  told : List Nat := []
deriving DecidableEq, Repr

/-- A page-state entry (17 R355, 24 R420): REQ with OWNER, Q, and the contexts told of the quarantine. -/
structure Frame where
  req : Option Nat := none
  q : Bool := false
  told : List Nat := []
deriving DecidableEq, Repr

/-- A sharing-table entry (16 R329). -/
structure Share where
  rr : KMap Nat := []
  w : Nat := 0
  g : Nat := 1
  rset : List Nat := []
  bar : Bool := false
  /-- dies whose counted requests this window included one with REPL 10 -/
  max : List Nat := []
  /-- order of its latest counted request -/
  last : Nat := 0
  /-- device clock of the latest write of the region (16 Table 16.6) -/
  wclk : Option Nat := none
deriving DecidableEq, Repr

/-- A partition (17 Table 17.6, 16 R324, R333, 04 R88). Interleave tables `none` are the boot defaults of 04 Table 4.5. -/
structure Part where
  /-- V of its descriptor -/
  valid : Bool := false
  ports : Nat := 0
  acs : Nat := 0
  cores : KMap Nat := []
  chans : KMap Nat := []
  /-- pools as base and size in GiB -/
  ipool : Nat × Nat := (0, 0)
  dpools : KMap (Nat × Nat) := []
  dietab : Option (List Nat) := none
  chtab : KMap (List Nat) := []
  rthr : Nat := 256
deriving DecidableEq, Repr

/-- One 16-byte piece of a host request (17 R344, 21 R369, R370). -/
structure Piece where
  /-- the route by which it goes, that of its home when XD took the request -/
  die : Nat
  /-- its virtual address; it uses the translation current at its place in T (17 Table 17.8) -/
  va : Nat
  /-- its bytes; none for one whose byte enable is off -/
  data : List (Option Byte)
  /-- the order in which XD sent it -/
  ord : Option Nat := none
  applied : Bool := false
  acked : Bool := false
  /-- logical time it was sent with, then the time of its write -/
  p : Nat := 0
deriving DecidableEq, Repr

/-- A host write taken by XD, until its last piece is acknowledged. -/
structure HostTx where
  ro : Bool
  ctx : Nat
  pieces : List Piece
  qreq : Nat := 0
deriving DecidableEq, Repr

/-- A host requester (21 R370, R371). -/
structure HostAgent where
  pts : Nat := 0
  /-- q(r, d) by route; unlisted is 0 -/
  q : KMap Nat := []
  live : List HostTx := []
  /-- requests waiting at XD, in order: a request with data is a write -/
  waiting : List HostReq := []
deriving DecidableEq, Repr

/-- Completion of a host read (17 R343). -/
inductive CplSt where
  | ok | poisoned | abort | unsupported
deriving DecidableEq, Repr

structure Cpl where
  req : Nat
  st : CplSt
  data : List Byte
deriving DecidableEq, Repr

/-- An MSI-X message: function and vector (17 R345). -/
structure Msi where
  fn : Nat
  vec : Nat
deriving DecidableEq, Repr

/-- An outgoing remote message (17 R348): segments with their transmissions and acknowledgements. -/
structure Msg where
  op : Nat
  ctx : Nat
  entry : Nat
  port : Nat
  /-- the peer device (17 Table 17.5) -/
  mac : Nat := 0
  seq : Nat
  pctx : Nat
  pwin : Nat
  off : W64
  body : PeerOp
  /-- transmissions by segment -/
  segs : KMap Nat
deriving DecidableEq, Repr

/-- What the device answers to a peer's message: 0 when it has taken effect, else the reason of 24 R417, and the data of a
get. -/
structure Reply where
  port : Nat
  sender : Nat
  seq : Nat
  st : Nat
  data : List Byte
  pois : List Bool
deriving DecidableEq, Repr

/-- An attestation report (17 R354). -/
structure Report where
  ctx : Nat
  words : List Nat
  sig : BitVec 768
deriving DecidableEq, Repr

/-- Whether the device runs (01 R20, 22 R376, R392). -/
inductive Power where
  | running
  /-- the recovery image runs -/
  | recovery
  /-- after a device-fatal error, until reset -/
  | awaitReset
  /-- the recovery image itself failed -/
  | held
  | off
deriving DecidableEq, Repr

/-- Package flash and fuses (17 R357, 22 R392). -/
structure Flash where
  primary : FwImage
  recovery : FwImage
  /-- fuses: the hash of the key that signs firmware, and the rollback counter -/
  keyHash : BitVec 384
  rollback : Nat
  /-- recovery was requested over the Broisk port -/
  request : Bool
deriving DecidableEq, Repr

/-- What moves next when the agenda names it (log 1): the issue of a suit, an event of the table, a tick of the device
clock, or the silent loss of a copy that no rule keeps. -/
inductive Act where
  | issue (r : SuitRef)
  | event (i : Instr)
  | tick
  | dropL1 (c : CoreRef) (line : Nat)
  | dropReplica (die line : Nat)
  | writeBack (line : Nat)
  | dropTlb (c : CoreRef) (ctx va : Nat)
  /-- the halt line of a context reaches one of its hands (22 R385) -/
  | lineReach (ctx : Nat) (h : HandRef)
  /-- an action of the device that waited for an engine claim is tried again (04 R100) -/
  | again (ctx : Nat) (w : DevWait)
  /-- writes of the device that waited for engine claims are made -/
  | lateGo
deriving DecidableEq, Repr

/-- The state of the device. -/
structure State where
  power : Power
  flash : Flash
  /-- FWSTAT: recovery image, reason, version (22 R392) -/
  fwRecovery : Bool
  fwReason : Nat
  fwVersion : Nat
  /-- device clock counter s.clk -/
  clk : Nat
  /-- HBM; an unlisted byte is 0 -/
  mem : List Host.Cell
  /-- page-state table; an unlisted frame has no mark -/
  frames : KMap Frame
  /-- poisoned-sector records by channel -/
  pois : KMap (List PoisEnt)
  lines : KMap LineTs
  /-- replicas by key 2^48 die + line -/
  replicas : KMap Copy
  slices : KMap SliceLine
  /-- sharing entries by key 4 region + home die -/
  share : KMap Share
  /-- overflow tokens by port, 32 die + slice (16 R336) -/
  overflow : KMap Nat
  waitRecs : List WaitRec
  /-- cores by key 64 die + core -/
  cores : KMap Core
  ctxs : KMap Ctx
  ops : KMap Op
  /-- requests on their way, by number, in order of issue -/
  reqs : KMap Req
  claims : KMap ClaimReq
  /-- writes that wait for engine claims, in order (04 R100) -/
  late : List LateW
  msgs : KMap Msg
  /-- next expected sequence number by port, sender, the sender's context and its peer entry, and messages that came early -/
  inSeq : List ((Nat × Nat × Nat × Nat) × Nat)
  inbox : List PeerMsg
  /-- logical time of each port's agent (12 R258) -/
  portPts : KMap Nat
  /-- claim-ticket counters by die -/
  tickets : KMap Nat
  parts : KMap Part
  partsSealed : Bool
  /-- failing units of the latest boot: enabled dies, and failed sites, channels, slices, links, base-die engines, ports and
  application cores (22 R387, R388) -/
  dies : List Nat
  badSites : KMap (List Nat)
  badChans : List Nat
  badSlices : List Nat
  badLinks : List Nat
  badEngines : List Nat
  badPorts : List Nat
  badAcs : List Nat
  /-- channels offline at run time (14 R297) -/
  offChans : List Nat
  bist : List UnitFail
  /-- DERRT and the device error log by record number mod 256 -/
  derrt : Nat
  derr : KMap (W64 × W64)
  quarn : Nat
  /-- HWINw of function f under key 4 f + w; CRESULT by function -/
  hwin : KMap W64
  cresult : KMap Nat
  hosts : KMap HostAgent
  cpls : List Cpl
  msis : List Msi
  replies : List Reply
  reports : List Report
  /-- frames delivered to application cores: partition, port and bytes -/
  frameOut : List (Nat × Nat × List Byte)
  /-- location codes reported through the Broisk port -/
  fatalOut : List Nat
  -- the model's own fields
  /-- the suit whose instruction step is performing, and the address of the instruction after it -/
  cur : SuitRef
  npc : Nat
  agenda : List Act
  /-- suits that have issued an instruction on this clock -/
  issued : List SuitRef
  leaseChoices : List Nat
  /-- how many tables each fill action that is granted new ones gets before fill actions of other hands take theirs (20 R367; log 60) -/
  grantChoices : List Nat
  freeCount : Nat
  nextEpoch : Nat
  nextOp : Nat
  nextReq : Nat
  nextClaim : Nat
  nextMsg : Nat
  order : Nat
  /-- index of the latest dealer period of each die (15 R316), and of the latest sampling and bandwidth windows begun (16 R331,
  R336) -/
  dealerAt : KMap Nat
  sampleAt : Nat
  bandAt : Nat
deriving DecidableEq, Repr

/-- Why a step stops with a fault. -/
inductive Fault where
  /-- Raised by step when the module has no power, is held by the boot ROM or awaits reset (01 R20, 22 R376, R392): only a
  reset or a service over the Broisk port moves it. Safe: the hardware does nothing either. -/
  | notRunning
  /-- Raised by an instruction's meaning applied where State.cur names no suit. Safe: step never does so; the hardware has
  no such case. -/
  | noSuit
deriving DecidableEq, Repr

/-- Why a step is refused. -/
inductive Refusal where
  /-- Raised by the arm of an instruction that has no meaning yet. Safe: nothing is claimed of it. -/
  | notModelled (mnemonic : String)
deriving DecidableEq, Repr

/-! ## Reset -/

/-- The device right after a cold boot in which every unit passes (17 R357, 22 R437; logs 1, 6, 7, 12): no context, clock 0,
memory scrubbed, one sealed partition with every unit, and the pools of log 7. -/
def State.reset : State :=
  { power := .running
    flash := { primary := { readable := true, image := [], key := bytesBE 96 Config.bootKey, sig := Config.bootSig, version := 0, minVersion := 0 }
               recovery := { readable := true, image := [], key := bytesBE 96 Config.bootKey, sig := Config.bootSig, version := 0, minVersion := 0 }
               keyHash := Config.bootKeyHash, rollback := 0, request := false }
    fwRecovery := false, fwReason := 0, fwVersion := 0
    clk := 0, mem := [], frames := [], pois := [], lines := [], replicas := [], slices := [], share := []
    overflow := [], waitRecs := [], cores := [], ctxs := [], ops := [], reqs := [], claims := [], late := [], msgs := []
    inSeq := [], inbox := [], portPts := [], tickets := []
    parts := [(0, { valid := true, ports := 0xFF, acs := 0xFFFF
                    cores := [(0, 2 ^ 48 - 1), (1, 2 ^ 48 - 1), (2, 2 ^ 48 - 1), (3, 2 ^ 48 - 1)]
                    chans := [(0, 2 ^ 64 - 1), (1, 2 ^ 64 - 1), (2, 2 ^ 64 - 1), (3, 2 ^ 64 - 1)]
                    ipool := (0x4000000000, 512)
                    dpools := [(0, 0x1000000000, 64), (1, 0x2000000000, 64), (2, 0x3000000000, 64),
                               (3, 0xC000000000, 64)] })]
    partsSealed := true
    dies := [0, 1, 2, 3], badSites := [], badChans := [], badSlices := [], badLinks := [], badEngines := []
    badPorts := [], badAcs := [], offChans := [], bist := [], derrt := 0, derr := [], quarn := 0
    hwin := [], cresult := [], hosts := [], cpls := [], msis := [], replies := [], reports := [], frameOut := [], fatalOut := []
    cur := { die := 0, core := 0, hand := 0, suit := 0 }, npc := 0, agenda := [], issued := [], leaseChoices := [], grantChoices := []
    freeCount := 0, nextEpoch := 0, nextOp := 0, nextReq := 0, nextClaim := 0, nextMsg := 0, order := 0, dealerAt := []
    sampleAt := 0, bandAt := 0 }

end Sys2Proof.Machine
end

