-- ==== Sys2Proof/Machine/Record.lean ====
section
/-! DEFINITION. Sys2Proof/Machine/Record.lean: the fields of launch records, level words, segment descriptors, task records
and estate records (15 Tables 15.1, 15.2, 15.4, 02 Table 2.1, 04 Table 4.3, 03 Table 3.1). -/

namespace Sys2Proof.Machine

/-! ## Launch records -/

/-- Header word i. -/
def LaunchRec.word (r : LaunchRec) (i : Nat) : Nat := (r.w.getD i 0#64).toNat

/-- Bits hi to lo of header word i. -/
def LaunchRec.f (r : LaunchRec) (i hi lo : Nat) : Nat := fld (r.word i) hi lo

def LaunchRec.entry (r : LaunchRec) : Nat := r.f 0 56 0
def LaunchRec.level (r : LaunchRec) (m : Nat) : Nat := if m % 2 = 0 then r.f (1 + m / 2) 31 0 else r.f (1 + m / 2) 63 32
def LaunchRec.items (r : LaunchRec) : Nat := r.word 5
def LaunchRec.pl (r : LaunchRec) : Nat := r.f 6 59 58
def LaunchRec.afterEstate (r : LaunchRec) : Bool := bitN (r.word 6) 57
def LaunchRec.task (r : LaunchRec) : Bool := bitN (r.word 6) 56
def LaunchRec.donly (r : LaunchRec) : Bool := bitN (r.word 6) 55
def LaunchRec.hdeal (r : LaunchRec) : Bool := bitN (r.word 6) 54
def LaunchRec.cap (r : LaunchRec) : Nat := r.f 6 51 40
def LaunchRec.die (r : LaunchRec) : Nat := r.f 6 39 36
def LaunchRec.prio (r : LaunchRec) : Nat := r.f 6 35 34
def LaunchRec.energy (r : LaunchRec) : Nat := r.f 6 33 32
def LaunchRec.team (r : LaunchRec) : Nat := r.f 6 31 28
def LaunchRec.tiles (r : LaunchRec) : Nat := r.f 6 27 24
def LaunchRec.scr (r : LaunchRec) : Nat := r.f 6 23 13 * 256
def LaunchRec.seat (r : LaunchRec) : Nat := r.f 6 6 0 * 8
def LaunchRec.attach (r : LaunchRec) : Nat := r.f 7 63 48
def LaunchRec.heirk (r : LaunchRec) : Nat := r.f 7 47 32
def LaunchRec.mode (r : LaunchRec) : Nat := r.f 7 31 0
def LaunchRec.kf (r : LaunchRec) : Nat := r.f 8 54 52
/-- Claim factor k: 0, 1, 2, 4 or 8. -/
def LaunchRec.factor (r : LaunchRec) : Nat := match r.kf with | 0 => 0 | n + 1 => 2 ^ n
def LaunchRec.width (r : LaunchRec) : Nat := r.f 8 51 48 + 1
def LaunchRec.cbase (r : LaunchRec) : Nat := r.f 8 47 0
def LaunchRec.earea (r : LaunchRec) : Nat := r.f 9 56 0
def LaunchRec.sthi (r : LaunchRec) : Nat := r.f 10 63 56
def LaunchRec.stlo (r : LaunchRec) : Nat := r.f 10 55 48
def LaunchRec.vb (r : LaunchRec) : Nat := r.f 10 41 32
def LaunchRec.ecap (r : LaunchRec) : Nat := r.f 10 31 0
def LaunchRec.pile (r : LaunchRec) : Nat := r.f 11 56 0
def LaunchRec.msix (r : LaunchRec) : Nat := r.f 12 63 48
def LaunchRec.eps (r : LaunchRec) : Nat := r.f 12 35 32
def LaunchRec.kcs (r : LaunchRec) : Nat := r.f 12 31 28
def LaunchRec.gls (r : LaunchRec) : Nat := r.f 12 27 24
def LaunchRec.pcap (r : LaunchRec) : Nat := r.f 12 23 0
def LaunchRec.pred (r : LaunchRec) (m : Nat) : Nat := r.f 13 (16 * m + 15) (16 * m)
def LaunchRec.cev (r : LaunchRec) : Nat := r.f 14 56 0
def LaunchRec.tdeck (r : LaunchRec) : Nat := r.f 15 56 0

/-! ## Level words (02 Table 2.1) -/

def lvFan (w : Nat) : Nat := fld w 18 8
def lvBar (w : Nat) : Bool := bitN w 6
def lvScope (w : Nat) : Nat := fld w 5 3
def lvDom (w : Nat) : Nat := fld w 2 0

/-- A level word without its reserved bits (00 R7). -/
def lvBits (w : Nat) : Nat := Nat.land w 0x7FF7F

/-- L: one more than the highest level whose word is not zero. -/
def LaunchRec.levels (r : LaunchRec) : Nat := ((List.range 8).filter (fun m => lvBits (r.level m) ≠ 0)).foldl (fun a m => maxN a (m + 1)) 0

def LaunchRec.fan (r : LaunchRec) (m : Nat) : Nat := lvFan (r.level m)

/-- F(k): items of one level-k unit (02 R26). -/
def LaunchRec.unitItems (r : LaunchRec) (k : Nat) : Nat :=
  ((List.range k).map (fun j => r.fan (j + 1))).foldl (· * ·) 1

/-- Items of a table: FAN1, or 1 when L = 1 (02 R26). -/
def LaunchRec.fan1 (r : LaunchRec) : Nat := if r.levels ≤ 1 then 1 else maxN 1 (r.fan 1)

/-- Items of a unit of the highest level. -/
def LaunchRec.topItems (r : LaunchRec) : Nat := maxN 1 (r.unitItems (r.levels - 1))

/-- Whether its tables are barrier tables (02 R50). -/
def LaunchRec.barTables (r : LaunchRec) : Bool := (List.range 8).any (fun m => m ≥ 1 && lvBar (r.level m))

/-! ## Segment descriptors (04 Table 4.3) -/

def Desc.base (d : Desc) : Nat := fld d.w0.toNat 56 6 * 64
def Desc.limit (d : Desc) : Nat := d.w1.toNat % 2 ^ 48
def Desc.rd (d : Desc) : Bool := bitN d.w1.toNat 48
def Desc.wr (d : Desc) : Bool := bitN d.w1.toNat 49
def Desc.priv (d : Desc) : Bool := bitN d.w1.toNat 50

/-- The tl descriptor at launch (15 R302). -/
def Desc.talon : Desc := { w0 := 0, w1 := BitVec.ofNat 64 (524288 + 2 ^ 48 + 2 ^ 49) }

/-! ## Estate records (03 Table 3.1) -/

/-- Header and data of an estate record, as 96 bytes. -/
def estateBytes (w0 w1 w2 w3 : Nat) (data : List W32) : List Byte :=
  bytesOf 8 w0 ++ bytesOf 8 w1 ++ bytesOf 8 w2 ++ bytesOf 8 w3
    ++ ((List.range 16).map (fun j => bytesOf 4 (data.getD j 0#32).toNat)).flatten

def estW0 (st len ident : Nat) : Nat := st * 2 ^ 62 + len * 2 ^ 57 + ident % 2 ^ 48

/-- W1 with the place of the pinned lane. -/
def estW1 (pois kern : Nat) (h : HandRef) (lane gen : Nat) : Nat :=
  pois * 2 ^ 48 + kern * 2 ^ 32 + h.die * 2 ^ 28 + h.core * 2 ^ 22 + h.hand * 2 ^ 15 + lane * 2 ^ 10 + gen * 4

/-- W3 of a log record. -/
def estW3 (reason heirk seq : Nat) : Nat := reason * 2 ^ 56 + heirk * 2 ^ 32 + seq % 2 ^ 32

/-- W4 of trap and fault records (22 Table 22.3). -/
def whoWord (kern gen : Nat) (r : SuitRef) (pl : Nat) : Nat :=
  kern % 65536 * 2 ^ 48 + gen % 256 * 2 ^ 40 + r.hand * 2 ^ 33 + r.core * 2 ^ 27 + r.die * 2 ^ 25 + r.suit * 2 ^ 23
    + pl % 4 * 2 ^ 21

end Sys2Proof.Machine
end

