-- ==== Sys2Proof/Machine/Get.lean ====
section
/-! DEFINITION. Sys2Proof/Machine/Get.lean: the one place that reads and writes cores, hands, lanes, suits, kernels,
contexts and registers of the state. -/

namespace Sys2Proof

/-! ## References within one another -/

def HandRef.cr (h : HandRef) : CoreRef := { die := h.die, core := h.core }
def SuitRef.hr (r : SuitRef) : HandRef := { die := r.die, core := r.core, hand := r.hand }
def HandRef.sr (h : HandRef) (n : Nat) : SuitRef := { die := h.die, core := h.core, hand := h.hand, suit := n }
def CoreRef.hr (c : CoreRef) (n : Nat) : HandRef := { die := c.die, core := c.core, hand := n }

end Sys2Proof

namespace Sys2Proof.Machine

/-! ## Cores, hands, suits, lanes -/

def coreKey (c : CoreRef) : Nat := 64 * c.die + c.core
def coreOf (k : Nat) : CoreRef := { die := k / 64, core := k % 64 }

def State.core (s : State) (c : CoreRef) : Core := kGet {} (coreKey c) s.cores
def State.modCore (s : State) (c : CoreRef) (f : Core → Core) : State :=
  { s with cores := kPut {} (coreKey c) (f (s.core c)) s.cores }

def State.hand (s : State) (h : HandRef) : Hand := kGet {} h.hand (s.core h.cr).hands
def State.modHand (s : State) (h : HandRef) (f : Hand → Hand) : State :=
  s.modCore h.cr (fun c => { c with hands := kPut {} h.hand (f (kGet {} h.hand c.hands)) c.hands })

def Hand.lane (hd : Hand) (l : Nat) : Lane := kGet {} l hd.lanes
def Hand.modLane (hd : Hand) (l : Nat) (f : Lane → Lane) : Hand := { hd with lanes := kPut {} l (f (hd.lane l)) hd.lanes }
def Hand.suit (hd : Hand) (n : Nat) : Option Suit := kFind n hd.suits
def Hand.modSuit (hd : Hand) (n : Nat) (f : Suit → Suit) : Hand :=
  match hd.suit n with
  | some u => { hd with suits := kSet n (f u) hd.suits }
  | none => hd

/-- A change of every lane of a list. -/
def Hand.modLanes (hd : Hand) (ls : List Nat) (f : Nat → Lane → Lane) : Hand := ls.foldl (fun a l => a.modLane l (f l)) hd

def State.lane (s : State) (h : HandRef) (l : Nat) : Lane := (s.hand h).lane l
def State.modLane (s : State) (h : HandRef) (l : Nat) (f : Lane → Lane) : State := s.modHand h (fun hd => hd.modLane l f)
def State.modSuit (s : State) (r : SuitRef) (f : Suit → Suit) : State := s.modHand r.hr (fun hd => hd.modSuit r.suit f)

/-- Active lanes of a suit, rising. -/
def Hand.active (hd : Hand) (n : Nat) : List Nat := (List.range 32).filter (fun l => (hd.lane l).st = .active n)

/-- Lanes in a state that a test picks. -/
def Hand.lanesWith (hd : Hand) (p : Lane → Bool) : List Nat := (List.range 32).filter (fun l => p (hd.lane l))

/-- The lowest Free suit slot. -/
def Hand.freeSlot (hd : Hand) : Option Nat := (List.range 4).find? (fun n => (hd.suit n).isNone)

def Hand.kernSet (hd : Hand) (k : Nat) : KernSet :=
  (kFind k hd.sets).getD { mode := 0, fmts := [], gl := {}, kc := {}, tl := {}, ep := {} }

/-- Every hand reference of a core that is not Unformed. -/
def Core.formed (c : Core) : List Nat := (c.hands.filter (fun e => e.2.st ≠ .unformed)).map Prod.fst

/-- The cores of a die. -/
def coresOf (die : Nat) : List CoreRef := (List.range 48).map (fun c => { die := die, core := c })

/-- Every core that the state lists. -/
def State.coreList (s : State) : List CoreRef := s.cores.map (fun e => coreOf e.1)

/-- Every formed hand. -/
def State.handList (s : State) : List HandRef :=
  s.cores.flatMap (fun e => (e.2.hands.filter (fun h => h.2.st ≠ .unformed)).map (fun h => (coreOf e.1).hr h.1))

/-- Hands of a context. -/
def State.handsOf (s : State) (ctx : Nat) : List HandRef := s.handList.filter (fun h => (s.hand h).ctx = ctx)

/-! ## Contexts and kernels -/

def State.ctx (s : State) (c : Nat) : Option Ctx := kFind c s.ctxs
def State.modCtx (s : State) (c : Nat) (f : Ctx → Ctx) : State :=
  match s.ctx c with
  | some x => { s with ctxs := kSet c (f x) s.ctxs }
  | none => s
def State.ctxD (s : State) (c : Nat) : Ctx := (s.ctx c).getD {}

def State.kern (s : State) (c k : Nat) : Option Kernel := (s.ctx c).bind (fun x => kFind k x.kerns)
def State.kernD (s : State) (c k : Nat) : Kernel := (s.kern c k).getD {}
def State.modKern (s : State) (c k : Nat) (f : Kernel → Kernel) : State :=
  s.modCtx c (fun x => match kFind k x.kerns with
    | some y => { x with kerns := kSet k (f y) x.kerns }
    | none => x)

/-- A privileged register that stores a value (log 1). -/
def Ctx.reg (x : Ctx) (prn : Nat) : W64 := kGet 0 prn x.regs
def Ctx.setReg (x : Ctx) (prn : Nat) (v : W64) : Ctx := { x with regs := kPut 0 prn v x.regs }
def State.reg (s : State) (c prn : Nat) : Nat := ((s.ctxD c).reg prn).toNat
def State.setReg (s : State) (c prn : Nat) (v : Nat) : State := s.modCtx c (fun x => x.setReg prn (BitVec.ofNat 64 v))

/-- A counter register advanced. -/
def State.bump (s : State) (c prn n : Nat) : State := s.setReg c prn (s.reg c prn + n)

/-! ## Registers of a lane (01 R13, 06 R147) -/

def rfVal (f : RegFile) (k : Nat) : W32 :=
  match kFind k f.vals with
  | some x => x
  | none =>
    match f.epoch with
    | some e => if k < 640 then Config.undefWord e k else 0
    | none => 0

def rfPois (f : RegFile) (k : Nat) : Bool := f.pois.contains k

def rfSet (f : RegFile) (k : Nat) (v : W32) (p : Bool) : RegFile :=
  { f with
    vals := if f.epoch.isSome && decide (k < 640) then kSet k v f.vals else kPut 0 k v f.vals
    pois := if p then insN k f.pois else f.pois.filter (fun j => j ≠ k) }

/-- A register written without touching the last-result slots. -/
def Lane.put (l : Lane) (k : Nat) (v : W32) (p : Bool) : Lane := { l with regs := rfSet l.regs k v p }

/-- Consecutive registers written. -/
def Lane.puts (l : Lane) (k : Nat) (vs : List (W32 × Bool)) : Lane :=
  (vs.foldl (fun (a : Lane × Nat) v => (a.1.put a.2 v.1 v.2, a.2 + 1)) (l, k)).1

/-- The last-result slots shifted by a result (06 R147). -/
def Lane.shift (l : Lane) (v : W64) (p : Bool) : Lane := { l with l1 := l.l0, l1p := l.l0p, l0 := v, l0p := p }

/-- Whether a lane leases one of these registers. -/
def Lane.leases? (l : Lane) (ks : List Nat) : Bool := l.leases.any (fun e => ks.contains e.1)

/-- A predicate read, and its poison bit; p7 reads 1. -/
def Lane.pred (l : Lane) (j : Nat) : Bool := if j < 7 then l.preds.toNat / 2 ^ j % 2 = 1 else true
def Lane.predP (l : Lane) (j : Nat) : Bool := if j < 7 then l.predp.toNat / 2 ^ j % 2 = 1 else false

/-- A predicate written; p7 is never written. -/
def Lane.setPred (l : Lane) (j : Nat) (v p : Bool) : Lane :=
  if j < 7 then
    { l with preds := (l.preds &&& ~~~ (1#7 <<< j)) ||| (if v then 1#7 <<< j else 0#7)
             predp := (l.predp &&& ~~~ (1#7 <<< j)) ||| (if p then 1#7 <<< j else 0#7) }
  else l

/-- Levels 1 and 2 of a lane zeroed (02 R31, 07 R172). -/
def Lane.clear12 (l : Lane) : Lane :=
  { l with l0 := 0, l1 := 0, l0p := false, l1p := false, preds := 0, predp := 0, saved := none
           regs := { l.regs with vals := l.regs.vals.filter (fun e => decide (e.1 < 640)),
                                 pois := l.regs.pois.filter (fun k => decide (k < 640)) } }

end Sys2Proof.Machine
end

