-- ==== Sys2Proof/Machine/Kern.lean ====
section
/-! DEFINITION. Sys2Proof/Machine/Kern.lean: the items of a kernel that are still to be drawn, and its completion state (02 R24, R39,
Table 2.7, 17 R349). -/

namespace Sys2Proof.Machine

/-! ## Tables and items -/

/-- Items that a table holds, or would hold if it were granted now. -/
def Kernel.tableItems (k : Kernel) (t : Nat) : Nat :=
  if k.lrec.task then minN k.lrec.fan1 (k.appended - t * k.lrec.fan1) else k.lrec.fan1

def sumBy {α : Type} (f : α → Nat) (l : List α) : Nat := l.foldl (fun a x => a + f x) 0

/-- Items of granted tables that are not yet drawn. -/
def Kernel.leftN (k : Kernel) : Nat := sumBy (fun e => e.2.left.length) k.tables

/-- The lowest level with DOM 4, whose units are shared out among the devices of a multi-device launch (17 R349). -/
def LaunchRec.fabLevel (r : LaunchRec) : Option Nat := (List.range r.levels).find? (fun m => lvDom (r.level m) = 4)

/-- Items of a unit that one device runs whole; none when the device runs every item. -/
def Kernel.share (k : Kernel) : Option Nat :=
  if k.deckOnly || decide (k.fab.1 ≤ 1) then none else k.lrec.fabLevel.map (fun m => maxN 1 (k.lrec.unitItems m))

/-- Items that this device runs. -/
def Kernel.avail (k : Kernel) : Nat :=
  let n := if k.lrec.task then k.appended else k.lrec.items
  match k.share with
  | some f => (n / f + (k.fab.1 - 1 - k.fab.2)) / k.fab.1 * f + (if n / f % k.fab.1 = k.fab.2 then n % f else 0)
  | none => n

/-- Undrawn items. -/
def Kernel.undrawn (k : Kernel) : Nat :=
  if k.cancelled then 0
  else k.avail - sumBy (fun e => k.tableItems e.1) k.tables - sumBy (fun e => k.tableItems e.1) k.ended + k.leftN

/-! ## Actions of the device that wait -/

/-- Actions of the device that wait for a replay-all (24 R452) or for an engine claim (04 R100). -/
def Ctx.pending (x : Ctx) : List DevWait := x.waits ++ x.busy

/-! ## States of kernels (02 Table 2.7) -/

/-- Every item has been drawn and no more can come. -/
def Kernel.drained (k : Kernel) : Bool := k.undrawn = 0 && (k.cancelled || (!k.deckOnly && (!k.lrec.task || k.closed)))

/-- Whether an item of a kernel is suspended, or its continuation waits. -/
def State.hasCont (s : State) (ctx kern : Nat) : Bool :=
  s.waitRecs.any (fun w => w.cont.ctx = ctx && w.cont.kern = kern) ||
    s.cores.any (fun c => c.2.contq.any (fun k => k.ctx = ctx && k.kern = kern))

def State.hasSelf (s : State) (ctx kern : Nat) : Bool :=
  s.cores.any (fun c => c.2.hands.any (fun h => h.2.ctx = ctx && h.2.lanes.any (fun l => match l.2.estate with
    | some e => e.self && e.kern = kern
    | none => false)))

/-- Whether a seal of one of a kernel's items waits for a replay-all (24 R452): its EXIT has not ended. -/
def State.sealWaits (s : State) (ctx kern : Nat) : Bool :=
  (s.ctxD ctx).pending.any (fun w => match w with
    | .seal_ h l => (match (s.lane h l).estate with | some e => e.kern = kern | none => false)
    | _ => false)

/-- The completion state of a kernel; in a halted context the one that it had at the halt point (22 R385). -/
def State.kernState (s : State) (ctx kn : Nat) : CState :=
  match s.ctx ctx, s.kern ctx kn with
  | some x, some k =>
    if x.state ≠ 1 then ((x.halt.bind (fun h => kFind kn h.states)).getD k.cst)
    else if k.cst = .complete then k.cst
    else if !k.drained then .live
    else if !k.tables.isEmpty || s.hasCont ctx kn || s.hasSelf ctx kn || s.sealWaits ctx kn then .drained
    else .exited
  | _, _ => .live

def exitedOrMore : CState → Bool
  | .exited | .complete => true
  | _ => false

/-- The states of a context's kernels. -/
def State.kernStates (s : State) (ctx : Nat) : KMap CState := (s.ctxD ctx).kerns.map (fun k => (k.1, s.kernState ctx k.1))

end Sys2Proof.Machine
end

