-- ==== Sys2Proof/Machine/Mem.lean ====
section
/-! DEFINITION. Sys2Proof/Machine/Mem.lean: physical memory: bytes, homes, poisoned sectors, line times, copies, the sharing
table, and the scratchpad and talon of a core (04, 16, 24 R419 to R422). -/

namespace Sys2Proof.Machine

/-! ## Bytes -/

/-- A run of bytes read from a cell list; an unlisted byte is 0 (log 6). -/
def cellsRead (m : List Host.Cell) (a : Nat) : Nat → List Byte
  | 0 => []
  | n + 1 => kGet 0 a m :: cellsRead m (a + 1) n

/-- A run of bytes written. -/
def cellsWrite (m : List Host.Cell) (a : Nat) : List Byte → List Host.Cell
  | [] => m
  | b :: bs => cellsWrite (kPut 0 a b m) (a + 1) bs

/-- The canonical form of a memory: addresses strictly rising and no byte equal to 0. -/
def cellsWf (m : List Host.Cell) : Bool := kSorted m && m.all (fun e => e.2 ≠ 0)

/-- The canonical form of HBM. -/
def State.memWf (s : State) : Bool := cellsWf s.mem

def sectorOf (pa : Nat) : Nat := pa / 16
def lineOf (pa : Nat) : Nat := pa / 64
def frameOf (pa : Nat) : Nat := pa / 65536
def regionOf (pa : Nat) : Nat := pa / 2 ^ 21

/-- Numbers of the units of size u that a run of n bytes touches. -/
def spanOf (u a n : Nat) : List Nat := if n = 0 then [] else (List.range ((a + n - 1) / u + 1 - a / u)).map (fun i => a / u + i)

/-! ## Pools and homes (16 R324, 04 R87, R88) -/

/-- Whether a physical address lies in a pool given as base and size in GiB. -/
def inPool (p : Nat × Nat) (pa : Nat) : Bool := decide (p.1 ≤ pa) && decide (pa < p.1 + p.2 * 2 ^ 30)

/-- Where a partition's pools place an address: none outside them, some none in the interleaved pool, some (some d) in the die
pool of CDd. -/
def Part.place (p : Part) (pa : Nat) : Option (Option Nat) :=
  if inPool p.ipool pa then some none
  else (p.dpools.find? (fun e => inPool e.2 pa)).map (fun e => some e.1)

/-- The valid partition whose pool holds an address; partition 0 when none does. -/
def State.partOf (s : State) (pa : Nat) : Part :=
  ((s.parts.find? (fun e => e.2.valid && (e.2.place pa).isSome)).map (fun e => e.2)).getD (kGet {} 0 s.parts)

/-- Dies on which a partition holds channels, that are enabled. -/
def State.partDies (s : State) (p : Part) : List Nat := s.dies.filter (fun d => kGet 0 d p.chans ≠ 0)

/-- Local channels of a die that are enabled and the partition's. -/
def State.partChans (s : State) (p : Part) (d : Nat) : List Nat :=
  (bitList 64 (kGet 0 d p.chans)).filter (fun c => !s.badChans.contains (64 * d + c))

/-- DIETAB entry: the table's, or the boot default (04 Table 4.5). -/
def State.dietab (s : State) (p : Part) (i : Nat) : Nat :=
  match p.dietab with
  | some t => t.getD i 0
  | none => let ds := s.partDies p; ds.getD (i % maxN 1 ds.length) 0

/-- CHTAB[d] entry. -/
def State.chtab (s : State) (p : Part) (d i : Nat) : Nat :=
  match kFind d p.chtab with
  | some t => t.getD i 0
  | none => let cs := s.partChans p d; cs.getD (i % maxN 1 cs.length) 0

/-- Home of a physical address; the lines of a slice that failed are held by its neighbour (22 Table 22.8). -/
structure Home where
  die : Nat
  slice : Nat
  chan : Nat
deriving DecidableEq, Repr

def State.home (s : State) (pa : Nat) : Home :=
  let p := s.partOf pa
  let l := lineOf pa
  let die := match p.place pa with
    | some (some d) => d
    | _ => s.dietab p (foldBits l 16 % 96)
  let sl := foldBits l 5
  { die := die, slice := if s.badSlices.contains (32 * die + sl) then Nat.xor sl 1 else sl, chan := 64 * die + s.chtab p die (foldBits (l / 4) 10) }

/-! ## Device error log and MSI-X (22 R391, 17 R345) -/

/-- A device error record: class, mechanism and location code. Classes 2 and 3 signal vector 0 of the PF. -/
def State.devErr (s : State) (cls mech loc : Nat) : State :=
  { s with
    derr := kSet (s.derrt % 256) (BitVec.ofNat 64 (loc * 2 ^ 32 + cls * 2 ^ 24 + mech * 2 ^ 16 + 1), BitVec.ofNat 64 s.clk) s.derr
    derrt := s.derrt + 1
    msis := if 2 ≤ cls then s.msis ++ [{ fn := 0, vec := 0 }] else s.msis }

/-- Location codes (22 Table 22.7). -/
def locCode (ty place site sub : Nat) : Nat := ty * 2 ^ 28 + place * 2 ^ 24 + site * 2 ^ 16 + sub
/-- HBM channel, 0 to 255: two stacks of 32 channels to a die. -/
def locChan (ch : Nat) : Nat := locCode 2 (8 + ch / 32) (ch % 32) 0
def locSlice (die sl : Nat) : Nat := locCode 1 die sl 0

/-- Physical site of a core: core numbers go to passing sites in rising order (22 R389). -/
def State.siteOf (s : State) (c : CoreRef) : Nat :=
  (((List.range 52).filter (fun t => !(kGet [] c.die s.badSites).contains t)).getD c.core 0)
def State.locCore (s : State) (c : CoreRef) (sub : Nat) : Nat := locCode 0 c.die (s.siteOf c) sub

/-! ## Poisoned sectors (24 R419, R420) -/

def State.frame (s : State) (f : Nat) : Frame := kGet {} f s.frames
def State.modFrame (s : State) (f : Nat) (g : Frame → Frame) : State := { s with frames := kPut {} f (g (s.frame f)) s.frames }

/-- Whether a sector reads as poisoned at its home: recorded, in a quarantined frame, or on an offline channel (14 R297). -/
def State.secPois (s : State) (sec : Nat) : Bool :=
  let ch := (s.home (sec * 16)).chan
  (kGet [] ch s.pois).any (fun e => e.sector = sec) || (s.frame (frameOf (sec * 16))).q || s.offChans.contains ch

/-- A sector enters its channel's record; a full record quarantines the sector's frame. -/
def State.poison (s : State) (sec : Nat) : State :=
  let ch := (s.home (sec * 16)).chan
  let rec_ := kGet [] ch s.pois
  let f := frameOf (sec * 16)
  if (s.frame f).q || rec_.any (fun e => e.sector = sec) then s
  else if rec_.length < 512 then { s with pois := kSet ch (rec_ ++ [{ sector := sec }]) s.pois }
  else
    let s1 := s.modFrame f (fun x => { x with q := true })
    let s2 := { s1 with pois := kPut [] ch (rec_.filter (fun e => frameOf (e.sector * 16) ≠ f)) s1.pois, quarn := s1.quarn + 1 }
    s2.devErr 1 0 (locChan ch)

/-- A whole-sector write of clean data removes the entry. -/
def State.unpoison (s : State) (sec : Nat) : State :=
  let ch := (s.home (sec * 16)).chan
  { s with pois := kPut [] ch ((kGet [] ch s.pois).filter (fun e => e.sector ≠ sec)) s.pois }

/-- Bytes read at the home, with the poison of their sectors. -/
def State.memRead (s : State) (pa n : Nat) : List Byte := cellsRead s.mem pa n
def State.memPois (s : State) (pa n : Nat) : Bool := (spanOf 16 pa n).any s.secPois
/-- A 64-bit word. -/
def State.mem64 (s : State) (pa : Nat) : Nat := ofBytes (s.memRead pa 8)

/-- Bytes that reach HBM: a write of a line on an offline channel is dropped (14 R297). -/
def State.memPut (s : State) (pa : Nat) (bs : List Byte) : State :=
  if s.offChans.contains (s.home pa).chan then s else { s with mem := cellsWrite s.mem pa bs }

/-- Effect of a write on the poison of one sector it touches. -/
def State.secWrite (s : State) (pa n : Nat) (pois : Bool) (sec : Nat) : State :=
  if pois then s.poison sec
  else if pa ≤ sec * 16 ∧ sec * 16 + 16 ≤ pa + n then s.unpoison sec else s

/-! ## The sharing table (16 R329 to R332) -/

def shareKey (die region : Nat) : Nat := 4 * region + die

/-- Room for an entry of a die: the entry that has gone longest without a counted request is taken when 4,096 are in use. -/
def State.shareRoom (s : State) (die key : Nat) : KMap Share :=
  if (kFind key s.share).isSome then s.share
  else
    let own := s.share.filter (fun e => e.1 % 4 = die)
    if own.length < 4096 then s.share
    else match leastBy (fun e => e.2.last) own with
      | some e => kErase e.1 s.share
      | none => s.share

def satInc (x : Nat) : Nat := if x < 0xFFFF then x + 1 else x

/-- Who makes a request at a home: its context, its die (4 for the I/O die), and REPL of the page. -/
structure From where
  ctx : Nat
  die : Nat
  repl : Nat := 0
deriving DecidableEq, Repr

/-- Whether the sampling window ended on this clock: what a home still does on it belongs to that window, whose counts are gone (16 R331, Table
16.6). -/
def State.closed (s : State) : Bool := s.sampleAt ≠ 0 && s.clk = 65536 * s.sampleAt

/-- A counted request at a home: a read by a die, or a write; nothing when the page's REPL is 01, nor for a read that no die makes (16 R329; log
61). -/
def State.countReq (s : State) (die pa : Nat) (f : From) (write : Bool) : State :=
  if f.repl = 1 || (!write && decide (4 ≤ f.die)) then s
  else
    let key := shareKey die (regionOf pa)
    let tab := s.shareRoom die key
    let e := kGet {} key tab
    let e1 := if s.closed then e
      else
        let e0 := { e with max := if f.repl = 2 then insN f.die e.max else e.max }
        if write then { e0 with w := satInc e0.w } else { e0 with rr := kPut 0 f.die (satInc (kGet 0 f.die e0.rr)) e0.rr }
    let e2 := { e1 with last := s.order }
    { s with share := kSet key e2 tab, order := s.order + 1 }

/-- A write at the home of a region with degree above 1 collapses it (R332); its clock is noted (Table 16.6). On the clock on which the window ended, the
write falls in the window that has ended, so no raise of that end stands and the bar ends with it. -/
def State.collapse (s : State) (die pa : Nat) : State :=
  let key := shareKey die (regionOf pa)
  match kFind key s.share with
  | some e => { s with share := kSet key (if 1 < e.g then { e with g := 1, rset := [], bar := !s.closed || e.bar, wclk := some s.clk } else { e with wclk := some s.clk }) s.share }
  | none => s

/-! ## Transfers, and the room of a slice (01 R16, 16 R330, R337) -/

def quotaOn (q : W64) : Bool := bitN q.toNat 31

/-- One transfer at a slice port: a token of the context, else an overflow token, else served when it would idle. -/
def State.chargePort (s : State) (ctx die sl : Nat) : State :=
  let x := s.ctxD ctx
  let k := 32 * die + sl
  if !quotaOn x.l2q then s
  else
    let t := kGet 0 k x.tokP
    if 0 < t then s.modCtx ctx (fun y => { y with tokP := kPut 0 k (t - 1) y.tokP })
    else { s with overflow := kPut 0 k (kGet 0 k s.overflow - 1) s.overflow }

/-- One transfer at a channel. -/
def State.chargeChan (s : State) (ctx ch : Nat) : State :=
  let x := s.ctxD ctx
  if !quotaOn x.hbmq then s
  else s.modCtx ctx (fun y => { y with tokH := kPut 0 ch (kGet 0 ch y.tokH - 1) y.tokH })

/-- A line leaves its home slice: each dirty sector is a channel transfer of the context that last dirtied it, or of none (16
R335, Table 16.9). -/
def State.writeBack (s : State) (line : Nat) : State :=
  match kFind line s.slices with
  | none => s
  | some e =>
    let s1 := e.dirty.foldl (fun (a : State) d => if (a.ctx d.2).isSome then a.chargeChan d.2 (a.home (line * 64)).chan else a) s
    { s1 with slices := kErase line s1.slices }

def replicaKey (die line : Nat) : Nat := die * 2 ^ 48 + line

/-- A replica is dropped. -/
def State.dropReplica (s : State) (die line : Nat) : State := { s with replicas := kErase (replicaKey die line) s.replicas }

/-- Lines of one slice: 3 MiB. -/
def sliceLines : Nat := 49152

/-- A slice that is full gives up a line before it takes another: a replica before a line it homes (16 R330), the lowest first (log
2). -/
def State.sliceRoom (s : State) (die sl : Nat) : State :=
  if s.replicas.length + s.slices.length < sliceLines then s
  else
  let reps := s.replicas.filter (fun e => e.1 / 2 ^ 48 = die && (s.home (e.1 % 2 ^ 48 * 64)).slice = sl)
  let own := s.slices.filter (fun e => (s.home (e.1 * 64)).die = die && (s.home (e.1 * 64)).slice = sl)
  if reps.length + own.length < sliceLines then s
  else match reps, own with
    | r :: _, _ => s.dropReplica (r.1 / 2 ^ 48) (r.1 % 2 ^ 48)
    | [], e :: _ => s.writeBack e.1
    | [], [] => s

/-- Sectors of a line, 0 to 3, put into its home slice. -/
def State.fill (s : State) (line : Nat) (secs : List Nat) : State :=
  let h := s.home (line * 64)
  let s1 := if (kFind line s.slices).isSome then s else s.sliceRoom h.die h.slice
  let e := kGet {} line s1.slices
  { s1 with slices := kSet line { e with held := secs.foldl (fun m k => insN (k % 4) m) e.held } s1.slices }

/-- Some sectors of a line brought into its home slice for a context: one transfer of the channel when the slice does not hold every one
of them. -/
def State.hold (s : State) (ctx line : Nat) (secs : List Nat) : State :=
  if secs.all (fun k => (kGet {} line s.slices).held.contains (k % 4)) then s
  else (s.chargeChan ctx (s.home (line * 64)).chan).fill line secs

/-- A request of a context at the home of a line, for some of its sectors: one port transfer, and what brings the sectors there. -/
def State.charge (s : State) (ctx line : Nat) (secs : List Nat) : State :=
  let h := s.home (line * 64)
  (s.chargePort ctx h.die h.slice).hold ctx line secs

/-! ## Line times and writes at the home (04 R94) -/

def State.lineTs (s : State) (line : Nat) : LineTs := kGet {} line s.lines

/-- The sectors of a write marked dirty in the home slice, by their context. -/
def State.dirty (s : State) (line ctx : Nat) (secs : List Nat) : State :=
  let s1 := s.fill line secs
  let e := kGet {} line s1.slices
  { s1 with slices := kSet line { e with dirty := secs.foldl (fun d k => kSet (k % 4) ctx d) e.dirty } s1.slices }

/-- Sectors that a run covers only in part, which a write of it must fill first. -/
def partSecs (pa n : Nat) : List Nat := (spanOf 16 pa n).filter (fun k => !(decide (pa ≤ k * 16) && decide (k * 16 + 16 ≤ pa + n)))

/-- One write within one line at its home, at a logical time: transfers, data, poison, times, sharing. -/
def State.lineWrite (s : State) (w pa : Nat) (bs : List Byte) (pois : Bool) (f : From) : State :=
  let line := lineOf pa
  let h := s.home pa
  let secs := spanOf 16 pa bs.length
  let s1 := (s.charge f.ctx line (partSecs pa bs.length)).memPut pa bs
  let s2 := secs.foldl (fun a k => a.secWrite pa bs.length pois k) s1
  let s3 := { s2 with lines := kSet line { wts := w, rts := w } s2.lines }
  let s4 := s3.dirty line f.ctx secs
  (s4.countReq h.die pa f true).collapse h.die pa

/-- A run of bytes cut at line boundaries: address and bytes of each piece. -/
def cutLines (fuel a : Nat) (bs : List Byte) : List (Nat × List Byte) :=
  match fuel with
  | 0 => []
  | k + 1 =>
    if bs.isEmpty then []
    else
      let n := 64 - a % 64
      (a, bs.take n) :: cutLines k (a + n) (bs.drop n)

def linesOf (a : Nat) (bs : List Byte) : List (Nat × List Byte) := cutLines (bs.length / 64 + 2) a bs

/-- The logical time of a write of some lines: no earlier than the writer, and later than the reads of every one of them. -/
def State.writeTime (s : State) (pts : Nat) (lines : List Nat) : Nat := lines.foldl (fun p l => maxN p ((s.lineTs l).rts + 1)) pts

/-- A write of any length at a logical time. -/
def State.homePut (s : State) (w pa : Nat) (bs : List Byte) (pois : Bool) (f : From) : State :=
  (linesOf pa bs).foldl (fun a c => a.lineWrite w c.1 c.2 pois f) s

/-- A write of any length, as one event: the state after and the logical time that it takes. -/
def State.homeWrite (s : State) (pts pa : Nat) (bs : List Byte) (pois : Bool) (f : From) : State × Nat :=
  let w := s.writeTime pts (spanOf 64 pa bs.length)
  (s.homePut w pa bs pois f, w)

/-- A line read at its home at a logical time: later writes stand after it. -/
def State.readAt (s : State) (line p : Nat) : State :=
  let t := s.lineTs line
  { s with lines := kSet line { t with rts := maxN t.rts p } s.lines }

/-- A read of some sectors of a line at its home by an agent that keeps no copy, at a logical time: its transfers, its count, and its
place before later writes. -/
def State.homeRead (s : State) (line : Nat) (secs : List Nat) (f : From) (p : Nat) : State :=
  ((s.charge f.ctx line secs).countReq (s.home (line * 64)).die (line * 64) f false).readAt line p

/-- A run of bytes read so, line by line. -/
def State.homeReads (s : State) (pa n : Nat) (f : From) (p : Nat) : State :=
  (spanOf 64 pa n).foldl (fun a l => a.homeRead l ((spanOf 16 pa n).filter (fun k => k / 4 = l)) f p) s

/-- The latest write time of the lines of a run. -/
def State.wtsOf (s : State) (pa n : Nat) : Nat := (spanOf 64 pa n).foldl (fun v l => maxN v (s.lineTs l).wts) 0

/-- Lease length, chosen by the home from 1 to 64 (R94; log 2). -/
def State.lease (s : State) : Nat × State :=
  match s.leaseChoices with
  | [] => (64, s)
  | g :: gs => (if g < 1 then 1 else if 64 < g then 64 else g, { s with leaseChoices := gs })

/-- The data of a line as a number. -/
def State.lineData (s : State) (line : Nat) : BitVec 512 := BitVec.ofNat 512 (ofBytes (s.memRead (line * 64) 64))
def State.linePois (s : State) (line : Nat) : BitVec 4 :=
  BitVec.ofNat 4 (maskOf ((List.range 4).filter (fun j => s.secPois (line * 4 + j))))

/-- Bytes of a copy at an address of its line, with their poison. -/
def Copy.read (c : Copy) (pa n : Nat) : List Byte × Bool :=
  (bytesOf n (c.data.toNat / 2 ^ (8 * (pa % 64))), (spanOf 16 (pa % 64) n).any (fun j => bitN c.pois.toNat j))

/-- A live copy at a logical time. -/
def Copy.live (c : Copy) (pts : Nat) : Bool := decide (c.wts ≤ pts) && decide (pts ≤ c.rts)

/-- Lines of an L1 data cache: 384 KiB (01 Table 1.2). -/
def l1Lines : Nat := 6144

/-- Lines of a core's unpublished .c stores, which its L1 holds (04 Table 4.1). -/
def Core.ownLines (c : Core) : List Nat := c.cbuf.foldl (fun a x => insN (lineOf x.pa) a) []

/-- Whether an L1 holds a line, as a copy or as .c data. -/
def Core.l1Has (c : Core) (line : Nat) : Bool := (kFind line c.l1).isSome || c.cbuf.any (fun x => lineOf x.pa = line)

/-- Lines that an L1 holds: copies, and lines of .c data of which it has no copy. -/
def Core.l1Used (c : Core) : Nat := c.l1.length + (c.ownLines.filter (fun l => (kFind l c.l1).isNone)).length

/-- Room in an L1 for one more line: a full one gives up the copy of its lowest line (01 Table 1.2; log 2). -/
def Core.l1Room (c : Core) (line : Nat) : Core :=
  if decide (c.l1.length + c.cbuf.length < l1Lines) || c.l1Has line || decide (c.l1Used < l1Lines) then c else { c with l1 := c.l1.drop 1 }

/-- Whether an L1 is full of .c data, so that it has no line for a store of one more line. -/
def Core.l1Full (c : Core) (line : Nat) : Bool := decide (l1Lines ≤ c.cbuf.length) && !c.l1Has line && decide (l1Lines ≤ c.ownLines.length)

/-- A copy put into an L1; one full of .c data takes none. -/
def Core.l1Put (c : Core) (line : Nat) (x : Copy) : Core :=
  if c.l1Full line then c else { c.l1Room line with l1 := kSet line x (c.l1Room line).l1 }

/-- The copy of a line in a core's L1, when it is live at a logical time. -/
def State.l1Copy (s : State) (c : CoreRef) (line pts : Nat) : Option Copy :=
  (kFind line (s.core c).l1).bind (fun x => if x.live pts then some x else none)

/-- The replica of a line on a die, when it is live and the policy and REPL allow its use (16 R330). -/
def State.repCopy (s : State) (die line : Nat) (pol : Pol) (repl pts : Nat) : Option Copy :=
  if pol = .stream ∨ repl = 1 then none
  else (kFind (replicaKey die line) s.replicas).bind (fun x => if x.live pts then some x else none)

/-- CopyFor (R94): the L1 of the core, else a replica on its die. -/
def State.copyFor (s : State) (c : CoreRef) (line : Nat) (pol : Pol) (repl pts : Nat) : Option Copy :=
  match s.l1Copy c line pts with
  | some x => some x
  | none => s.repCopy c.die line pol repl pts

/-- Whether an unpublished store gives a byte to an access: a .c access sees every one, another those over which no later access of
the core has written (04 R104). -/
def CStore.shows (st : CStore) (core_ : Bool) (a : Nat) : Bool :=
  decide (st.pa ≤ a) && decide (a < st.pa + st.data.length) && (core_ || !st.later.contains a)

/-- Unpublished .c stores of the core over bytes read at a physical address (04 R103, R104). -/
def overlay (buf : List CStore) (core_ : Bool) (pa : Nat) (bs : List Byte) : List Byte :=
  buf.foldl (fun acc st => acc.mapIdx (fun i b => if st.shows core_ (pa + i) then st.data.getD (pa + i - st.pa) b else b)) bs

/-- Poison of bytes read, where a later unpublished store replaces that of the sectors it covers. -/
def overlayPois (buf : List CStore) (core_ : Bool) (pa n : Nat) (p : Bool) : Bool :=
  buf.foldl (fun acc st =>
    let hit := (List.range n).filter (fun i => st.shows core_ (pa + i))
    if hit.isEmpty then acc else if hit.length = n then st.pois else acc || st.pois) p

/-- Bytes over which a later access of the core under another policy writes (04 R104). -/
def CStore.cover (st : CStore) (pa n : Nat) : CStore :=
  { st with later := ((List.range st.data.length).map (fun i => st.pa + i)).filter (fun a => st.later.contains a || (decide (pa ≤ a) && decide (a < pa + n))) }

/-! ## The logical time of a hand's events (04 R90, R94) -/

/-- Whether a hand is still the one that issued something. -/
def State.sameGen (s : State) (h : HandRef) (gen : Nat) : Bool := (s.hand h).gen = gen && (s.hand h).st ≠ .unformed

/-- Logical time of the hand that issued something; once it has been released, the time `late` kept from then. -/
def State.ptsOf (s : State) (h : HandRef) (gen late : Nat) : Nat := if s.sameGen h gen then (s.hand h).pts else late

/-- A hand's logical time raised; once it has been released, the time kept for what it issued and is still under way. -/
def State.setPts (s : State) (h : HandRef) (gen pts : Nat) : State :=
  if s.sameGen h gen then s.modHand h (fun d => { d with pts := maxN d.pts pts })
  else
    { s with
      reqs := s.reqs.map (fun e => (e.1, if e.2.h = h ∧ e.2.gen = gen then { e.2 with pts := maxN e.2.pts pts } else e.2))
      ops := s.ops.map (fun e => (e.1, if e.2.h = h ∧ e.2.gen = gen then { e.2 with pts := maxN e.2.pts pts } else e.2)) }

/-- The time of an event of a kernel's item, which its completion follows (04 R106). -/
def State.endAt (s : State) (ctx kern p : Nat) : State := s.modKern ctx kern (fun k => { k with endPts := maxN k.endPts p })

/-! ## Claims of engine operations (04 R99, R100) -/

/-- Whether an engine has written its destination: a get has not before the peer's data is here (12 R257). -/
def Eng.written (g : Eng) : Bool := g.issued && (match g.kind with | .get _ _ => g.msg.isNone | _ => true)

/-- Claims of engine operations that cover a unit of 64 bytes of a place: memory, or the scratchpad or talon of a core. -/
def State.claimsOn (s : State) (sp : ESpace) (c : CoreRef) (u : Nat) : List (EClaim × Bool) :=
  s.ops.flatMap (fun e => match e.2.kind with
    | .engine g => (g.held.filter (fun k => k.at_.sp = sp && (sp = .mem || decide (e.2.h.cr = c)) &&
        (spanOf 64 (if sp = .mem then k.pa else k.at_.addr) k.len).contains u)).map (fun k => (k, g.written))
    | _ => [])

/-- Whether a write that waits for a claim covers a line: what comes after it waits too. -/
def State.lateOn (s : State) (line : Nat) : Bool := s.late.any (fun w => (spanOf 64 w.pa w.data.length).contains line)

/-- Whether engine claims hold back an access (04 R100): a load by a destination not yet written, a write by any claim. -/
def State.claimBars (s : State) (sp : ESpace) (c : CoreRef) (u : Nat) (write : Bool) : Bool :=
  (s.claimsOn sp c u).any (fun k => write || (k.1.dst && !k.2)) || (sp = .mem && s.lateOn u)

/-- Whether engine claims hold back an access of the device, the host or a peer to a run of physical bytes. -/
def State.runBars (s : State) (pa n : Nat) (write : Bool) : Bool := (spanOf 64 pa n).any (fun l => s.claimBars .mem { die := 0, core := 0 } l write)

def overlaps (a n b m : Nat) : Bool := decide (a < b + m) && decide (b < a + n)

/-! ## Results that arrive -/

def LaneOp.arrive (o : LaneOp) (ws : List (Nat × W32 × Bool)) : LaneOp := { o with st := .arrived ws, due := 0 }

/-- The result of one lane of an operation arrives; a lane with more requests on their way waits for the last. -/
def State.arrive (s : State) (op lane : Nat) (ws : List (Nat × W32 × Bool)) : State :=
  match kFind op s.ops with
  | some o => { s with ops := kSet op { o with lanes := o.lanes.map (fun x =>
      if x.lane ≠ lane then x else if 1 < x.due then { x with due := x.due - 1 } else x.arrive ws) } s.ops }
  | none => s

/-! ## Writes that wait for an engine claim (04 R100) -/

/-- The kernel of an operation. -/
def State.opKern (s : State) (op : Nat) : Option Nat := (kFind op s.ops).map Op.kern

/-- A write that no claim bars takes its place in T; the operation of a .c store completes with it. -/
def State.lateOne (s : State) (w : LateW) : State :=
  let f : From := { ctx := w.ctx, die := w.die, repl := w.repl }
  match w.store with
  | none => (s.homeWrite w.pts w.pa w.data w.pois f).1
  | some (h, gen, op, lane) =>
    let r := s.homeWrite (maxN w.pts (s.ptsOf h gen (match kFind op s.ops with | some o => o.pts | none => 0))) w.pa w.data w.pois f
    let s1 := match s.opKern op with | some k => r.1.endAt w.ctx k r.2 | none => r.1
    (s1.setPts h gen r.2).arrive op lane []

/-- The writes that wait, in order: each that no claim bars, nor one before it that still waits, is made. -/
def State.lateGo (s : State) : State :=
  s.late.foldl (fun a w => if a.runBars w.pa w.data.length true then { a with late := a.late ++ [w] } else a.lateOne w) { s with late := [] }

/-- A write of the device made at its home at once, or once no claim bars it. -/
def State.putLate (s : State) (w : LateW) : State := if s.runBars w.pa w.data.length true then { s with late := s.late ++ [w] } else s.lateOne w

/-! ## Loads (04 R94, 16 R330) -/

/-- A load: the hand that makes it, its context, the policy in effect, REPL of the page, and whether the line may enter the L1. -/
structure Ld where
  h : HandRef
  gen : Nat
  late : Nat := 0
  ctx : Nat
  pol : Pol := .shared
  repl : Nat := 0
  l1 : Bool := true
deriving DecidableEq, Repr

/-- Load (R94): the copy that a load of some bytes of a line reads, and the times, copies, counts and transfers that it leaves. Policies 0 and 1 read a
replica, and policy 0 alone fills one (04 Table 4.4, 16 R330; log 62). A load that may not enter the L1 does not look there. -/
def State.loadCopy (s : State) (d : Ld) (pa n : Nat) : Copy × State :=
  let line := lineOf pa
  let pts := s.ptsOf d.h d.gen d.late
  let hm := s.home pa
  match (if d.l1 then s.l1Copy d.h.cr line pts else none), s.repCopy d.h.die line d.pol d.repl pts with
  | some c, _ => (c, s.setPts d.h d.gen (c.rts - 63))
  | none, some c =>
    let s1 := (s.chargePort d.ctx d.h.die hm.slice).setPts d.h d.gen (c.rts - 63)
    (c, if d.l1 then s1.modCore d.h.cr (fun x => x.l1Put line c) else s1)
  | none, none =>
    let s1 := (s.charge d.ctx line (if d.pol = .stream then spanOf 16 pa n else [0, 1, 2, 3])).countReq hm.die pa { ctx := d.ctx, die := d.h.die, repl := d.repl } false
    let (g, s2) := s1.lease
    let t := s2.lineTs line
    let c : Copy := { data := s2.lineData line, wts := t.wts, rts := pts + g, pois := s2.linePois line }
    let s3 := { s2 with lines := kSet line { t with rts := maxN t.rts (pts + g) } s2.lines }
    let s4 := if d.pol = .stream || !d.l1 then s3 else s3.modCore d.h.cr (fun x => x.l1Put line c)
    let inSet := match kFind (shareKey hm.die (regionOf pa)) s4.share with | some e => e.rset.contains d.h.die | none => false
    let s5 := if d.pol = .shared && d.repl ≠ 1 && inSet && d.h.die ≠ hm.die then
        (let r := s4.sliceRoom d.h.die hm.slice
         { r with replicas := kSet (replicaKey d.h.die line) c r.replicas }).chargePort d.ctx d.h.die hm.slice
      else s4
    (c, s5.setPts d.h d.gen t.wts)

/-- The bytes and poisoned sectors that a load of a line returns, and the state after. -/
def State.loadLine (s : State) (d : Ld) (pa n : Nat) : List Byte × List Nat × State :=
  let r := s.loadCopy d pa n
  ((r.1.read pa n).1, (spanOf 16 pa n).filter (fun k => bitN r.1.pois.toNat (k % 4)), r.2)

/-! ## Scratchpad and talon -/

def Core.scRead (c : Core) (a n : Nat) : List Byte × Bool :=
  (cellsRead c.scr a n, (spanOf 16 a n).any (fun k => c.scrPois.contains k))

/-- Poison of a sector list after a write. -/
def poisAfter (ps : List Nat) (a n : Nat) (pois : Bool) : List Nat :=
  (spanOf 16 a n).foldl (fun acc k =>
    if pois then insN k acc else if a ≤ k * 16 ∧ k * 16 + 16 ≤ a + n then acc.filter (fun j => j ≠ k) else acc) ps

def Core.scWrite (c : Core) (a : Nat) (bs : List Byte) (pois : Bool) : Core :=
  { c with scr := cellsWrite c.scr a bs, scrPois := poisAfter c.scrPois a bs.length pois }

def Core.tlRead (c : Core) (a n : Nat) : List Byte := cellsRead c.tal a n
def Core.tlPois (c : Core) (a n : Nat) : Bool := (spanOf 16 a n).any (fun k => c.talPois.contains k)

end Sys2Proof.Machine
end

