-- ==== Sys2Proof/Machine/Xlate.lean ====
section
/-! DEFINITION. Sys2Proof/Machine/Xlate.lean: the page-table walk, its fatal reasons, and the segment check (16 R325, R326,
24 R407, 04 R84). -/

namespace Sys2Proof.Machine

/-- Result of a translation (24 R407). -/
inductive Xl where
  /-- physical address, policy ceiling, REPL, and the page size as a power of two -/
  | hit (pa ceil repl lo : Nat)
  /-- an entry with V = 0: its level and physical address -/
  | miss (level entry : Nat)
  /-- reason of 24 Table 24.1 -/
  | fatal (reason : Nat)
  /-- no result of a walk: an access of the device whose line an engine operation has claimed waits (04 R100) -/
  | busy
deriving DecidableEq, Repr

/-- What an access needs of a page. -/
structure Need where
  rd : Bool
  wr : Bool
  /-- privilege level; PRIV is ignored when it is not 0 -/
  pl : Nat
deriving DecidableEq, Repr

/-- Low bit and width of the index of each walk level. -/
def walkBits : List (Nat × Nat) := [(48, 9), (39, 9), (30, 9), (21, 9), (16, 5)]

/-- Whether a leaf's frame lies in the pool that DH and HOME name; none when it lies in no pool of the partition. -/
def Part.frameOk (p : Part) (leaf fr : Nat) : Option Bool :=
  (p.place fr).map (fun x => decide (x = if bitN leaf 11 then some (fld leaf 10 9) else none))

/-- Fatal reasons of a leaf at a level, rising (24 Table 24.1); at levels 0 and 1 a leaf, and at level 4 an entry that is none, has
LEAF in the wrong level. -/
def State.leafBad (s : State) (ctx : Nat) (x : Ctx) (n : Need) (level leaf pa : Nat) : List Nat :=
  let p := kGet {} x.part s.parts
  let fr := fld leaf 51 16 * 65536
  let ks := fld leaf 60 52
  let low := if level = 2 then fld leaf 29 16 else if level = 3 then fld leaf 20 16 else 0
  (if (n.rd && !bitN leaf 2) || (n.wr && !bitN leaf 3) || (bitN leaf 4 && n.pl = 0) then [3] else [])
  ++ (if level < 2 ∨ !bitN leaf 1 then [4] else [])
  ++ (if fld leaf 8 7 = 3 ∨ fld leaf 6 5 = 3 ∨ fld leaf 13 12 = 3 ∨ low ≠ 0 ∨ (ks ≠ 0 ∧ ks ≠ ctx + 1) ∨ p.frameOk leaf fr = some false then [4] else [])
  ++ (if p.frameOk leaf fr = none then [5] else [])
  ++ (if (match (s.frame (frameOf pa)).req with | some o => o != ctx | none => false) then [6] else [])
  ++ (if ks = ctx + 1 ∧ x.kstate ≠ 1 then [7] else [])

/-- What an entry of a walk gives: the result, or the table of the next level. -/
inductive Entry where
  | done (x : Xl)
  | next (tab : Nat)

/-- A valid leaf, used for an access. -/
def State.leafGo (s : State) (ctx : Nat) (x : Ctx) (n : Need) (va level lo leaf : Nat) : Xl :=
  let pa := fld leaf 51 16 * 65536 + va % 2 ^ lo
  match s.leafBad ctx x n level leaf pa with
  | [] => .hit pa (fld leaf 6 5) (fld leaf 8 7) lo
  | r :: _ => .fatal r

/-- One entry of a walk, at physical address `ea`: its value and whether it reads as poisoned. PLACE is a field of an entry that can
be a leaf (16 Table 16.3; log 42). -/
def State.entry (s : State) (ctx : Nat) (x : Ctx) (n : Need) (va level lo ea e : Nat) (pois : Bool) : Entry :=
  if pois then .done (.fatal 8)
  else if !bitN e 0 then
    .done (if fld e 13 12 = 3 ∧ (level = 4 ∨ (2 ≤ level ∧ bitN e 1)) then .fatal 4 else .miss level ea)
  else if bitN e 1 || level = 4 then .done (s.leafGo ctx x n va level lo e)
  else .next (fld e 51 8 * 256)

/-- The address of the entry of a table that a level of the walk reads. -/
def entryAt (va lo wd tab : Nat) : Nat := tab + 8 * (va / 2 ^ lo % 2 ^ wd)

/-! ## The walk at the home: accesses of devices, engines, the host and peers -/

/-- The walk from the table at `tab`, at a level. -/
def State.walk (s : State) (ctx : Nat) (x : Ctx) (n : Need) (va : Nat) : List (Nat × Nat) → Nat → Nat → Xl
  | [], _, _ => .fatal 4
  | (lo, wd) :: rest, level, tab =>
    let ea := entryAt va lo wd tab
    match s.entry ctx x n va level lo ea (s.mem64 ea) (s.memPois ea 8) with
    | .done r => r
    | .next t => s.walk ctx x n va rest (level + 1) t

/-- Address of the level-0 table of a context. -/
def State.rootOf (s : State) (ctx : Nat) : Nat := fld ((s.ctxD ctx).reg 0x130).toNat 51 12 * 4096

/-- Translation of a virtual address in a context. -/
def State.xlate (s : State) (ctx : Nat) (n : Need) (va : Nat) : Xl := s.walk ctx (s.ctxD ctx) n (va % 2 ^ 57) walkBits 0 (s.rootOf ctx)

/-- Addresses of the entries that a walk reads. -/
def State.walkEnts (s : State) (va : Nat) : List (Nat × Nat) → Nat → List Nat
  | [], _ => []
  | (lo, wd) :: rest, tab =>
    let ea := entryAt va lo wd tab
    let e := s.mem64 ea
    ea :: (if !bitN e 0 || bitN e 1 then [] else s.walkEnts va rest (fld e 51 8 * 256))

def State.entsOf (s : State) (ctx va : Nat) : List Nat := s.walkEnts (va % 2 ^ 57) walkBits (s.rootOf ctx)

/-- The walker reads entries as loads (16 R327): what follows a walk stands after the writes that it saw. -/
def State.walkTime (s : State) (ctx va : Nat) : Nat := (s.entsOf ctx va).foldl (fun p ea => maxN p (s.lineTs (lineOf ea)).wts) 0

/-- What the walk of an agent on a die leaves at the homes of the entries, read at a logical time. -/
def State.walked (s : State) (ctx va die p : Nat) : State :=
  (s.entsOf ctx va).foldl (fun a ea => a.homeRead (lineOf ea) [sectorOf ea] { ctx := ctx, die := die } p) s

/-! ## The walk of a hand, and the translation buffer of its core (16 R327) -/

/-- The walk of a hand: each entry is a load of policy 0. `w` and `r` are the latest write time and the earliest lease end of the
entries read so far; a leaf that it uses enters the core's translation buffer. -/
def State.walkH (s : State) (d : Ld) (x : Ctx) (n : Need) (va : Nat) : List (Nat × Nat) → Nat → Nat → Nat → Nat → Xl × State
  | [], _, _, _, _ => (.fatal 4, s)
  | (lo, wd) :: rest, level, tab, w, r =>
    let ea := entryAt va lo wd tab
    let (c, s1) := s.loadCopy d ea 8
    let buf := (s.core d.h.cr).cbuf
    let e := ofBytes (overlay buf false ea (c.read ea 8).1)
    let w1 := maxN w c.wts
    let r1 := minN r c.rts
    match s1.entry d.ctx x n va level lo ea e (overlayPois buf false ea 8 (c.read ea 8).2) with
    | .next t => s1.walkH d x n va rest (level + 1) t w1 r1
    | .done (.hit pa ceil repl b) =>
      (.hit pa ceil repl b, s1.modCore d.h.cr (fun k =>
        { k with tlb := k.tlb.filter (fun t => !(t.ctx = d.ctx && t.va / 2 ^ t.lo = va / 2 ^ t.lo)) ++
                   [{ ctx := d.ctx, va := va / 2 ^ lo * 2 ^ lo, lo := lo, level := level, leaf := e, wts := w1, rts := r1, till := s.clk + 4096 }] }))
    | .done y => (y, s1)

/-- A translation buffer entry that serves a hand at its logical time: under a live lease. -/
def Tlb.serves (t : Tlb) (ctx va pts clk : Nat) : Bool :=
  t.ctx = ctx && t.va / 2 ^ t.lo = va / 2 ^ t.lo && decide (t.wts ≤ pts) && decide (pts ≤ t.rts) && decide (clk ≤ t.till)

/-- Translation of an access of a hand, and what it leaves: from its core's translation buffer, or by a walk. `late` is the time of a hand that has been
released. -/
def State.translate (s : State) (h : HandRef) (gen ctx : Nat) (n : Need) (va : Nat) (late : Nat := 0) : Xl × State :=
  let v := va % 2 ^ 57
  match (s.core h.cr).tlb.find? (fun t => t.serves ctx v (s.ptsOf h gen late) s.clk) with
  | some t => (s.leafGo ctx (s.ctxD ctx) n v t.level t.lo t.leaf, s.setPts h gen (t.rts - 63))
  | none => s.walkH { h := h, gen := gen, late := late, ctx := ctx } (s.ctxD ctx) n v walkBits 0 (s.rootOf ctx) 0 (2 ^ 64)

/-- The lease of the translation of a page that a core's buffer holds: the logical time and the device clock at which it ends. -/
def State.leaseAt (s : State) (c : CoreRef) (ctx va : Nat) : Nat × Nat :=
  match ((s.core c).tlb.filter (fun t => t.ctx = ctx && t.va / 2 ^ t.lo = va % 2 ^ 57 / 2 ^ t.lo)).getLast? with
  | some t => (t.rts, t.till)
  | none => (2 ^ 64, 2 ^ 64)

/-- The mark a protected context's first translation of a page of 2^lo bytes leaves on each of its frames (17 R355, 26
R434). -/
def State.mark (s : State) (ctx pa lo : Nat) : State :=
  let first := frameOf (pa / 2 ^ lo * 2 ^ lo)
  if (s.ctxD ctx).prot && decide ((s.frames.filter (fun e => decide (first ≤ e.1) && decide (e.1 < first + 2 ^ (lo - 16)) && e.2.req.isSome)).length < 2 ^ (lo - 16)) then
    (List.range (2 ^ (lo - 16))).foldl (fun a i => a.modFrame (first + i) (fun f =>
      if f.req.isNone then { f with req := some ctx } else f)) s
  else s

/-! ## Segments -/

/-- The check of R84 on `len` bytes at an offset: a fatal reason, or the address. A length of 0 passes it (12 R245). -/
def segCheck (sg : Seg) (d : Desc) (n : Need) (off len : Nat) : Except Nat Nat :=
  if len = 0 then .ok (d.base + off)
  else if d.limit < off + len ∨ 2 ^ 57 < d.base + off + len then .error 1
  else if (n.rd && !d.rd) || (n.wr && !d.wr) || (d.priv && n.pl = 0) || (sg = .ep && n.pl = 0) || (sg = .kc && n.wr) then .error 2
  else .ok (d.base + off)

/-- The descriptor a hand holds for a kernel's segment. -/
def KernSet.desc (k : KernSet) : Seg → Desc
  | .gl => k.gl
  | .kc => k.kc
  | .tl => k.tl
  | .ep => k.ep
  | .sc => {}

/-- The sc descriptor of a table (15 R302). -/
def scDesc (r : LaunchRec) (t : Table) : Desc :=
  { w0 := BitVec.ofNat 64 t.base, w1 := BitVec.ofNat 64 (r.scr + 2 ^ 48 + 2 ^ 49) }

/-- Descriptor of a segment for a lane: sc is its table's allocation. -/
def State.laneDesc (s : State) (h : HandRef) (lane : Nat) (kern : Nat) (sg : Seg) : Desc :=
  let hd := s.hand h
  match sg with
  | .sc =>
    let k := s.kernD hd.ctx kern
    match (hd.lane lane).item with
    | some it => match kFind it.table k.tables with
      | some t => scDesc k.lrec t
      | none => {}
    | none => {}
  | g => (hd.kernSet kern).desc g

end Sys2Proof.Machine
end

