-- ==== Sys2Proof/Machine/Trap.lean ====
section
/-! DEFINITION. Sys2Proof/Machine/Trap.lean: accesses the device makes for a context, trap and fault records, the halt line,
the entry into trap mode and the return from it, and the killing of tables (22, 23, 24). -/

namespace Sys2Proof.Machine

/-! ## MSI-X (17 R345) -/

/-- Vector v of a context. -/
def State.vector (s : State) (ctx v : Nat) : State :=
  { s with msis := s.msis ++ [{ fn := (s.ctxD ctx).part + 1, vec := 8 * ctx + v }] }

/-- The source of CX.IVEC whose field starts at bit `lo` signals, when enabled. -/
def State.source (s : State) (ctx lo : Nat) : State :=
  let iv := s.reg ctx 0x160
  if bitN iv (lo + 3) then s.vector ctx (fld iv (lo + 2) lo) else s

/-! ## Accesses of the device (24 R452) -/

/-- Pieces of a run of bytes that lie within one 64 KiB page each. -/
def pagesOf (fuel a n : Nat) : List (Nat × Nat) :=
  match fuel with
  | 0 => []
  | k + 1 =>
    if n = 0 then []
    else
      let m := minN n (65536 - a % 65536)
      (a, m) :: pagesOf k (a + m) (n - m)

/-- Translation of every page of a run: the physical pieces, or the first failure with its virtual address. -/
def State.xlateRun (s : State) (ctx : Nat) (n : Need) : List (Nat × Nat) → Except (Nat × Xl) (List (Nat × Nat × Nat × Nat))
  | [] => .ok []
  | (a, m) :: ps =>
    match s.xlate ctx n a with
    | .hit pa _ repl lo => (s.xlateRun ctx n ps).map (fun r => (pa, m, repl, lo) :: r)
    | x => .error (a, x)

/-- The same for an access that waits while an engine operation has claimed a line of it (04 R100). -/
def State.xlateFree (s : State) (ctx : Nat) (n : Need) (pages : List (Nat × Nat)) : Except (Nat × Xl) (List (Nat × Nat × Nat × Nat)) :=
  (s.xlateRun ctx n pages).bind (fun ps => if ps.any (fun q => s.runBars q.1 q.2.1 n.wr) then .error ((pages.headD (0, 0)).1, .busy) else .ok ps)

/-- Need of a device access. -/
def devNeed (wr : Bool) : Need := { rd := !wr, wr := wr, pl := 2 }

/-- The latest write time of what a walk of each page reads, and of the lines of the physical pieces. -/
def State.runTime (s : State) (ctx pts : Nat) (pages : List (Nat × Nat)) : Nat :=
  pages.foldl (fun p g => maxN p (s.walkTime ctx g.1)) pts

/-- What the walks of the pages of a run leave, made at a logical time by an agent on a die, with the marks of the pages. -/
def State.runWalked (s : State) (ctx die p : Nat) (pages : List (Nat × Nat)) (ps : List (Nat × Nat × Nat × Nat)) : State :=
  ps.foldl (fun a q => a.mark ctx q.1 q.2.2.2) (pages.foldl (fun a g => a.walked ctx g.1 die p) s)

/-- What a read the device makes returns: bytes, poison, its logical time, and the state after. -/
structure DevGot where
  bytes : List Byte
  pois : Bool
  /-- poison of the byte at a place -/
  bad : Nat → Bool
  at_ : Nat
  s : State

/-- Why an access of the device fails: ACC of its fault record (0 a read, 1 a write, 2 both), its address, its translation. -/
abbrev DevErr := Nat × Nat × Xl

/-- A read in a context's address space by an agent on a die, with what it needs of each page, no earlier than a logical time: the pieces, and what
they give. -/
def State.runRead (s : State) (n : Need) (ctx die pts va len : Nat) : Except DevErr (List (Nat × Nat × Nat × Nat) × DevGot) :=
  let pages := pagesOf (len / 65536 + 2) va len
  ((s.xlateFree ctx n pages).mapError (fun e => (0, e))).map (fun ps =>
    let p := ps.foldl (fun w q => maxN w (s.wtsOf q.1 q.2.1)) (s.runTime ctx pts pages)
    (ps, { bytes := ps.flatMap (fun q => s.memRead q.1 q.2.1), pois := ps.any (fun q => s.memPois q.1 q.2.1), at_ := p
           bad := fun i => match (ps.flatMap (fun q => (List.range q.2.1).map (fun j => q.1 + j)))[i]? with | some a => s.secPois (sectorOf a) | none => false
           s := ps.foldl (fun a q => a.homeReads q.1 q.2.1 { ctx := ctx, die := die, repl := q.2.2.1 } p) (s.runWalked ctx die p pages ps) }))

/-- Bytes cut by the lengths of physical pieces, written at their homes at a logical time. -/
def State.putAt (s : State) (ctx die w : Nat) (pois : Bool) : List (Nat × Nat × Nat × Nat) → List Byte → State
  | [], _ => s
  | (pa, m, repl, _) :: ps, bs => (s.homePut w pa (bs.take m) pois { ctx := ctx, die := die, repl := repl }).putAt ctx die w pois ps (bs.drop m)

/-- The same as one event, no earlier than a logical time; the time it takes. -/
def State.putPieces (s : State) (ctx die pts : Nat) (pois : Bool) (ps : List (Nat × Nat × Nat × Nat)) (bs : List Byte) : State × Nat :=
  let w := s.writeTime pts (ps.flatMap (fun q => spanOf 64 q.1 q.2.1))
  (s.putAt ctx die w pois ps bs, w)

/-- A write made in a context's address space by an agent on a die no earlier than a logical time; the time it takes. -/
def State.devWrite (s : State) (ctx die pts va : Nat) (bs : List Byte) : Except DevErr (State × Nat) :=
  let pages := pagesOf (bs.length / 65536 + 2) va bs.length
  ((s.xlateFree ctx (devNeed true) pages).mapError (fun e => (1, e))).map (fun ps =>
    let p := s.runTime ctx pts pages
    (s.runWalked ctx die p pages ps).putPieces ctx die p false ps bs)

/-- Bytes cut by the lengths of physical pieces, each written as soon as no claim bars it. -/
def State.latePieces (s : State) (ctx die w : Nat) : List (Nat × Nat × Nat × Nat) → List Byte → State
  | [], _ => s
  | (pa, m, repl, _) :: ps, bs => (s.putLate { ctx := ctx, die := die, pts := w, pa := pa, data := bs.take m, repl := repl }).latePieces ctx die w ps (bs.drop m)

/-- A record written in a context's address space by an agent on a die. Its ring goes on at once; the bytes of a record whose line an engine operation has
claimed follow when the claim ends (04 R100; DESIGN CHOICE, log 63). -/
def State.recWrite (s : State) (ctx die va : Nat) (bs : List Byte) : Except DevErr State :=
  let pages := pagesOf (bs.length / 65536 + 2) va bs.length
  ((s.xlateRun ctx (devNeed true) pages).mapError (fun e => (1, e))).map (fun ps =>
    let p := s.runTime ctx 0 pages
    (s.runWalked ctx die p pages ps).latePieces ctx die p ps bs)

/-! ## Trap records (22 R378, R379) -/

structure TrapRec where
  kind : Nat
  code : Nat := 0
  pc : Nat := 0
  cmask : List Nat := []
  amask : List Nat := []
  item : Nat := 0
  who : Nat := 0
  arg0 : Nat := 0
  arg1 : Nat := 0
  /-- die of the agent that writes it, no part of the record -/
  die : Nat := 4
deriving DecidableEq, Repr

def TrapRec.bytes (t : TrapRec) (seq clk : Nat) : List Byte :=
  ([t.kind * 2 ^ 56 + t.code % 65536 * 2 ^ 32 + seq % 2 ^ 32, t.pc % 2 ^ 57, maskOf t.cmask * 2 ^ 32 + maskOf t.amask,
    t.item, t.who, t.arg0, t.arg1, clk].map (bytesOf 8)).flatten

/-- Unread records of a ring, by its tail and read registers. -/
def State.unread (s : State) (ctx tail rd : Nat) : Nat := (s.reg ctx tail + 2 ^ 64 - s.reg ctx rd) % 2 ^ 64

/-- How a trap record went. -/
inductive TrapWrote where
  | written (s : State)
  /-- no free entry -/
  | full (s : State)
  /-- the trap queue's translation faults -/
  | unreachable (va : Nat) (x : Xl)

/-- A trap record written when fewer than `room` entries are unread. -/
def State.putTrap (s : State) (ctx : Nat) (t : TrapRec) (room : Nat) : TrapWrote :=
  let n := s.unread ctx 0x194 0x195
  if n < room then
    let tail := s.reg ctx 0x194
    let x := s.ctxD ctx
    match s.recWrite ctx t.die (x.tq + 64 * (tail % 2 ^ (x.tqq + 3))) (t.bytes tail s.clk) with
    | .ok s1 =>
      let s2 := s1.bump ctx 0x194 1
      .written (if n = 0 then s2.source ctx 4 else s2)
    | .error (_, va, e) => .unreachable va e
  else .full s

/-! ## The halt line (22 R385) -/

/-- Step 1 of the halt: CX.HSTAT, CX.STATE, the fatal record, the halt vector; the halt line is on its way to every hand of the
context. Cause 0 is STOP and writes no record. A context that is not Open is left alone. -/
def State.halt (s : State) (ctx cause : Nat) (t : TrapRec) : State :=
  match s.ctx ctx with
  | none => s
  | some x =>
    if x.state ≠ 1 then s
    else
      let ps := if x.pstat = .saving ∨ x.pstat = .saved ∨ x.pstat = .restoring then PStat.lost else x.pstat
      let hl : Halt := { cause := cause, clk := s.clk, ahead := if x.pstat = .running then s.handsOf ctx else [], states := s.kernStates ctx }
      let s0 := s.modCtx ctx (fun y => { y with state := 2, pstat := ps, halt := some hl })
      let s1 :=
        if cause = 0 then s0
        else match s0.putTrap ctx { t with kind := cause } (2 ^ (x.tqq + 3)) with
          | .written s2 => s2.modCtx ctx (fun y => { y with halt := some { hl with seq := (s0.reg ctx 0x194) % 2 ^ 32 } })
          | .full s2 => s2.modCtx ctx (fun y => { y with halt := some { hl with ovf := true } })
          | .unreachable _ _ => s0.modCtx ctx (fun y => { y with halt := some { hl with norec := true } })
      s1.source ctx 12

/-- CX.HSTAT (22 Table 22.5). -/
def Ctx.hstat (x : Ctx) : Nat :=
  match x.halt with
  | none => 0
  | some h => h.seq * 2 ^ 32 + h.cause * 2 ^ 8 + (if h.norec then 16 else 0) + (if h.tmo then 8 else 0)
      + (if h.ovf then 4 else 0) + (if h.done then 2 else 0) + 1

/-- The halt of a fault on a device access of kind 6 to 8. -/
def State.haltXlate (s : State) (ctx va : Nat) (x : Xl) : State :=
  s.halt ctx 0x22 { kind := 0x22, code := (match x with | .fatal r => r | _ => 0), arg0 := va }

/-- A trap record below 0x20: the state after, and whether it was lost; none when the context halted on it. -/
def State.report (s : State) (ctx : Nat) (t : TrapRec) : State × Bool :=
  match s.putTrap ctx t (2 ^ ((s.ctxD ctx).tqq + 3) - 1) with
  | .written s1 => (s1, false)
  | .full s1 => (s1.bump ctx 0x196 1, true)
  | .unreachable va x => (s.haltXlate ctx va x, true)

/-! ## Fault records (22 R377, 24 R410, R411) -/

structure FaultRec where
  kind : Nat
  req : Nat := 0
  acc : Nat := 0
  fdie : Nat := 0
  va : Nat := 0
  w2 : Nat := 0
  item : Nat := 0
  who : Nat := 0
  arg : Nat := 0
deriving DecidableEq, Repr

/-- W0 of a record, without COUNT. -/
def FaultRec.w0 (t : FaultRec) (seq : Nat) : Nat := t.kind * 2 ^ 56 + t.req * 2 ^ 52 + t.acc * 2 ^ 50 + t.fdie % 4 * 2 ^ 48 + seq % 2 ^ 32

def FaultRec.bytes (t : FaultRec) (count seq clk : Nat) : List Byte :=
  ([t.w0 seq + count * 2 ^ 32, t.va % 2 ^ 57,
    t.w2, t.item, t.who, t.arg, 0, clk].map (bytesOf 8)).flatten

/-- One record of the fault buffer by R377, of a given COUNT, with the sequence number when it was written. -/
def State.faultRecord (s : State) (ctx : Nat) (t : FaultRec) (n0 : Nat := 1) : State × Option Nat :=
  let x := s.ctxD ctx
  let n := s.unread ctx 0x190 0x191
  if n < 2 ^ (x.fbq + 3) then
    let tail := s.reg ctx 0x190
    match s.recWrite ctx t.fdie (x.fbuf + 64 * (tail % 2 ^ (x.fbq + 3))) (t.bytes n0 tail s.clk) with
    | .ok s1 =>
      let s2 := s1.bump ctx 0x190 1
      (if n = 0 then s2.source ctx 0 else s2, some tail)
    | .error (_, va, e) => (s.haltXlate ctx va e, none)
  else ((s.setReg ctx 0x192 1).bump ctx 0x193 1, none)

/-- Granule of a walk level as a power of two, and its GRAN code (24 R410). -/
def granBits (level : Nat) : Nat × Nat := if level = 4 then (16, 0) else if level = 3 then (21, 1) else (30, 2)

/-- `n` replayable faults of one granule: coalesced into its pending entry, W0 of whose record is written again while its slot still holds it (25 R429), or
recorded (24 R410). The faults of one instruction are counted together before a record is written. -/
def State.replayables (s : State) (ctx va level entry n : Nat) (t : FaultRec) : State :=
  let (gb, gc) := granBits level
  let x := s.ctxD ctx
  let g := va % 2 ^ 57 / 2 ^ gb
  let same := fun (p : Pend) => p.va / 2 ^ gb = g && (granBits p.level).1 = gb
  match x.pend.find? same with
  | some p =>
    let c := minN (p.count + n) 0xFFFF
    let s1 := s.modCtx ctx (fun y => { y with pend := y.pend.map (fun q => if same q then { q with count := c } else q) })
    match p.seq with
    | some sq =>
      if 2 ^ (x.fbq + 3) ≤ s.reg ctx 0x190 - sq then s1
      else
        match s1.recWrite ctx t.fdie (x.fbuf + 64 * (sq % 2 ^ (x.fbq + 3))) (bytesOf 8 (p.w0 + c * 2 ^ 32)) with
        | .ok s2 => s2
        | .error (_, a, e) => s1.haltXlate ctx a e
    | none => s1
  | none =>
    let c := minN n 0xFFFF
    let r : FaultRec := { t with kind := 1, va := va, w2 := gc * 2 ^ 62 + level * 2 ^ 59 + entry / 8 * 8 }
    let (s1, sq) := s.faultRecord ctx r c
    s1.modCtx ctx (fun y => { y with pend := y.pend ++ [{ va := va % 2 ^ 57, level := level, count := c, seq := sq, w0 := r.w0 (sq.getD 0) }] })

/-- One replayable fault. -/
def State.replayable (s : State) (ctx va level entry : Nat) (t : FaultRec) : State := s.replayables ctx va level entry 1 t

/-- A wait for a claim that no event of the device looks at again by itself. -/
def DevWait.keeps : DevWait → Bool
  | .seal_ _ _ | .evict _ _ | .probate _ => true
  | _ => false

/-- A fault on a device access of kind 1 to 5 made on a die: the action waits for a replay-all, or the context halts. One whose line an engine operation
has claimed waits for the claim (04 R100). -/
def State.devFault (s : State) (ctx kind die : Nat) (e : DevErr) (w : DevWait) : State :=
  match e.2.2 with
  | .miss level entry =>
    (s.replayable ctx e.2.1 level entry { kind := 1, req := 6, acc := e.1, fdie := die, who := kind }).modCtx ctx
      (fun y => { y with waits := if y.waits.contains w then y.waits else y.waits ++ [w] })
  | .busy => if w.keeps then s.modCtx ctx (fun y => { y with busy := if y.busy.contains w then y.busy else y.busy ++ [w] }) else s
  | x => s.haltXlate ctx e.2.1 x

/-! ## Reports of poison (24 R422) -/

/-- The first read of a poisoned sector by a context while its entry stands writes a CONSUMED record. -/
def State.tellSec (s : State) (ctx sec : Nat) (t : FaultRec) : State :=
  let f := frameOf (sec * 16)
  let ch := (s.home (sec * 16)).chan
  if (s.frame f).q then
    if (s.frame f).told.contains ctx then s
    else ((s.modFrame f (fun x => { x with told := insN ctx x.told })).faultRecord ctx { t with kind := 3, arg := f * 65536 }).1
  else
    let rec_ := kGet [] ch s.pois
    match rec_.find? (fun e => e.sector = sec) with
    | none => s
    | some e =>
      if e.told.contains ctx then s
      else (({ s with pois := kSet ch (rec_.map (fun (x : PoisEnt) => if x.sector = sec then { x with told := insN ctx x.told } else x)) s.pois }).faultRecord
        ctx { t with kind := 3, arg := sec * 16 }).1

/-- A read by a context that returns poisoned sectors, each with its virtual address: CX.PCONS, and the reports. -/
def State.consumedAt (s : State) (ctx : Nat) (secs : List (Nat × Nat)) (t : FaultRec) : State :=
  if secs.isEmpty then s else secs.foldl (fun a k => a.tellSec ctx k.1 { t with va := k.2 }) (s.bump ctx 0x19B 1)

/-- The same for an access at one address. -/
def State.consumed (s : State) (ctx : Nat) (secs : List Nat) (t : FaultRec) : State := s.consumedAt ctx (secs.map (fun k => (k, t.va))) t

/-- Poisoned sectors of the pieces of a run, each with its virtual address. -/
def State.badSecs (s : State) : Nat → List (Nat × Nat × Nat × Nat) → List (Nat × Nat)
  | _, [] => []
  | va, p :: ps => ((spanOf 16 p.1 p.2.1).filter s.secPois).map (fun k => (k, va + (maxN p.1 (16 * k) - p.1))) ++ s.badSecs (va + p.2.1) ps

/-- A read that the device makes on a die (4 is the I/O die) for a context, of an access kind of 24 R452. -/
def State.devRead (s : State) (kind ctx die pts va n : Nat) : Except DevErr DevGot :=
  (s.runRead (devNeed false) ctx die pts va n).map (fun r =>
    { r.2 with s := r.2.s.consumedAt ctx (s.badSecs va r.1) { kind := 0, req := 6, fdie := die, who := kind } })

/-! ## The suit at which an instruction stands -/

/-- s.item of the lowest lane of a list. -/
def Hand.itemOf (hd : Hand) (ls : List Nat) : Nat :=
  match ls with
  | [] => 0
  | l :: _ => match (hd.lane l).item with | some it => it.item | none => 0

/-- W4 of a record about a suit. -/
def State.whoOf (s : State) (r : SuitRef) (kern : Nat) : Nat :=
  let hd := s.hand r.hr
  whoWord kern hd.gen r (s.kernD hd.ctx kern).lrec.pl

/-- The trap record of an instruction of a suit. -/
def State.trapRec (s : State) (r : SuitRef) (kind code pc : Nat) (cmask amask : List Nat) (arg0 arg1 : Nat) : TrapRec :=
  let hd := s.hand r.hr
  let kern := match hd.suit r.suit with | some u => u.kern | none => 0
  { kind := kind, code := code, pc := pc, cmask := cmask, amask := amask, item := hd.itemOf cmask, who := s.whoOf r kern
    arg0 := arg0, arg1 := arg1, die := r.die }

/-! ## Places in code -/

/-- The start of a clause. -/
def Pos.at_ (a : Nat) : Pos := { pc := a, hdr := a, hw := 0 }

/-- Address of the clause after the one at `hdr` with header word `hw`. -/
def Pos.nextHdr (p : Pos) : Nat := p.hdr + 16 * (fld p.hw 10 9 + 1)

/-- The place after an instruction that ends at `npc` (06 R151). -/
def Pos.after (p : Pos) (npc : Nat) : Pos := if p.nextHdr ≤ npc then Pos.at_ p.nextHdr else { p with pc := npc }

/-! ## Trap mode (22 R381, R382) -/

/-- Entry into trap mode: lanes of `amask` save l0 and l1 and take the trap word; TPC is `tpc`. -/
def State.trapEntry (s : State) (r : SuitRef) (kind code : Nat) (cmask amask : List Nat) (tpc : Pos) (arg0 arg1 : Nat) : State :=
  let hd := s.hand r.hr
  match hd.suit r.suit with
  | none => s
  | some u =>
    match u.trap with
    | some t => s.halt hd.ctx 0x21 (s.trapRec r 0x21 kind u.pos.pc cmask [] u.pos.pc t.tpc.pc)
    | none =>
      let h := s.reg hd.ctx 0x11
      if h = 0 then s.halt hd.ctx 0x23 (s.trapRec r 0x23 kind u.pos.pc cmask [] arg0 0)
      else
        let seq := s.reg hd.ctx 0x194
        let (s1, lost) := s.report hd.ctx (s.trapRec r kind code u.pos.pc cmask amask arg0 arg1)
        if (s1.ctxD hd.ctx).state ≠ (s.ctxD hd.ctx).state then s1
        else
          let word := BitVec.ofNat 64 (seq % 2 ^ 32 + kind * 2 ^ 32 + (if lost then 2 ^ 40 else 0))
          (s1.modHand r.hr (fun d => d.modLanes amask (fun _ l =>
              { l with saved := some (l.l0, l.l0p, l.l1, l.l1p), l1 := l.l0, l1p := l.l0p, l0 := word, l0p := false }))).modSuit r
            (fun v => { v with pos := Pos.at_ h, stall := .ready, wait := 0, trap := some { tpc := tpc, amask := amask } })

/-- Return from trap mode: l0 and l1 as they stood at entry, the suit Ready at TPC (07 R179, 22 R382). -/
def State.trapReturn (s : State) (r : SuitRef) (t : TrapSt) : State :=
  (s.modHand r.hr (fun d => d.modLanes (d.active r.suit) (fun _ l =>
      match l.saved with
      | some (a, ap, b, bp) => { l with l0 := a, l0p := ap, l1 := b, l1p := bp, saved := none }
      | none => l))).modSuit r (fun v => { v with pos := t.tpc, stall := .ready, wait := 0, trap := none })

/-! ## Publication (04 R103) -/

/-- A .c store as a write that may wait for a claim. -/
def CStore.late (x : CStore) (c : CoreRef) (p : Nat) : LateW :=
  { ctx := x.ctx, die := c.die, pts := p, pa := x.pa, data := x.data, pois := x.pois, repl := x.repl, store := some (c.hr x.hand, x.gen, x.op, x.lane) }

/-- One .c store takes its place in T, no earlier than a logical time and than its hand's, and the end of its kernel follows it (04 R106); one whose line an
engine operation has claimed takes it when the claim ends (04 R100). The time after. -/
def State.publish1 (s : State) (c : CoreRef) (p : Nat) (x : CStore) : State × Nat :=
  (s.putLate (x.late c p), (s.putLate (x.late c p)).wtsOf x.pa x.data.length |> maxN p)

/-- Every unpublished .c store of a core takes its place in T, in core order; the logical time of a hand at its publication point
follows. Copies of the written lines on the core and its die end. -/
def State.publish (s : State) (h : HandRef) : State :=
  let buf := (s.core h.cr).cbuf
  if buf.isEmpty then s
  else
    let (s1, p) := buf.foldl (fun (a : State × Nat) c => a.1.publish1 h.cr a.2 c) (s, if (s.hand h).st = .unformed then 0 else (s.hand h).pts)
    let ls := buf.map (fun c => lineOf c.pa)
    let s2 := s1.modCore h.cr (fun c => { c with cbuf := [], l1 := c.l1.filter (fun e => !ls.contains e.1) })
    let s3 := { s2 with replicas := s2.replicas.filter (fun e => !ls.any (fun l => e.1 = replicaKey h.die l)) }
    if (s3.hand h).st = .unformed then s3 else s3.modHand h (fun d => { d with pts := maxN d.pts p })

/-! ## Ends of tables, killing (02 R39, 22 R384) -/

/-- Lanes of a hand that hold an item of a table. -/
def Hand.tableLanes (hd : Hand) (kern table : Nat) : List Nat :=
  hd.lanesWith (fun l => match l.item with | some it => it.kern = kern && it.table = table | none => false)

/-- A suit slot without lanes becomes Free. -/
def Hand.sweep (hd : Hand) : Hand := { hd with suits := hd.suits.filter (fun e => !(hd.active e.1).isEmpty) }

/-- What a kernel no longer holding a lane leaves: its MODE, formats and descriptors go (05 R111). -/
def Hand.sweepSets (hd : Hand) : Hand :=
  { hd with sets := hd.sets.filter (fun e => !(hd.lanesWith (fun l => match l.st, l.item with
      | .reserved k _, _ => k = e.1
      | .pinned, _ => (match l.estate with | some x => x.kern = e.1 | none => false)
      | _, some it => it.kern = e.1
      | _, none => false)).isEmpty) }

/-- A lane left Idle: what it held is gone, its registers stay. -/
def Lane.idle (l : Lane) : Lane := { regs := l.regs, rng := l.rng }

/-- The table ends: its scratchpad is free, Reserved lanes of it are Idle, the core's .c stores are published; what the kernel kept in
a hand goes with its last lane there (05 R111). -/
def State.endTable (s : State) (ctx kern table : Nat) (h : HandRef) : State :=
  let s1 := s.publish h
  let s2 := s1.modKern ctx kern (fun k => { k with tables := kErase table k.tables, ended := kSet table (coreKey h.cr) k.ended })
  { s2 with cores := s2.cores.map (fun e => if e.1 = coreKey h.cr then
      (e.1, { e.2 with hands := e.2.hands.map (fun x => (x.1, if x.2.ctx = ctx then
        Hand.sweepSets { x.2 with lanes := x.2.lanes.map (fun l => (l.1, if l.2.st = .reserved kern table then { l.2 with st := .idle } else l.2)) } else x.2)) }) else e) }

/-- An item has exited: the count of its table, and the end of the table with the last; the kernel's end follows its events and the
publication (04 R106). -/
def State.itemOut (s : State) (ctx : Nat) (h : HandRef) (it : Item) : State :=
  let k := s.kernD ctx it.kern
  match kFind it.table k.tables with
  | none => s
  | some t =>
    let n := t.out + 1
    let s1 := s.modKern ctx it.kern (fun k => { k with tables := kSet it.table { t with out := n } k.tables })
    let s2 := if k.lrec.fan1 ≤ n then s1.endTable ctx it.kern it.table h else s1
    s2.modKern ctx it.kern (fun k => { k with endPts := maxN k.endPts (s2.hand h).pts })

/-- A lane's part in an operation once its item has been killed, or the lane rewound alone: what returns is dropped, and a parked access and a wait for the
statuses of claims are discarded, so that the operation can complete (06 R156, 24 R424). -/
def LaneOp.voided (k : OpKind) (x : LaneOp) : LaneOp :=
  match x.st, k with
  | .parked _, _ | .pending, .estat _ => { x with void := true, st := .arrived [], due := 0 }
  | _, _ => { x with void := true }

/-- Parked requests that a test picks are discarded, so that their operations can complete. -/
def State.dropParked (s : State) (p : Req → Bool) : State :=
  (s.reqs.filter (fun e => e.2.parked && p e.2)).foldl (fun a e => { a with reqs := kErase e.1 a.reqs }.arrive e.2.op e.2.lane []) s

/-- A table killed (22 R384): its lanes are Idle, its estates, wait records and continuations are gone, its items count as exited at
every barrier (02 R28), a KILL record is written. `lanes` are those that caused it. -/
def State.killIn (s : State) (ctx : Nat) (h : HandRef) (kern table code : Nat) (lanes : List Nat) (item who : Nat) : State :=
  match kFind table (s.kernD ctx kern).tables with
  | none => s
  | some t =>
    let f1 := (s.kernD ctx kern).lrec.fan1
    let mine := fun (c : Cont) => c.ctx = ctx && c.kern = kern && c.item / f1 = table
    let gone := fun (l : Lane) => match l.item, l.estate with
      | some it, _ => it.kern = kern && it.table = table
      | none, some e => e.kern = kern && e.item / f1 = table
      | none, none => false
    let s1 := s.modCore t.core (fun c =>
      { c with contq := c.contq.filter (fun x => !mine x)
               hands := c.hands.map (fun e => (e.1, if e.2.ctx = ctx then
                 Hand.sweepSets (Hand.sweep { e.2 with lanes := e.2.lanes.map (fun l => (l.1, if gone l.2 then l.2.idle else l.2)) })
                 else e.2)) })
    let s2 := { s1 with
      waitRecs := s1.waitRecs.filter (fun w => !mine w.cont)
      claims := s1.claims.map (fun (e : Nat × ClaimReq) => (e.1, if e.2.ctx = ctx && e.2.kern = kern && e.2.item / f1 = table then { e.2 with void := true } else e.2))
      ops := s1.ops.map (fun (e : Nat × Op) => (e.1, if e.2.ctx = ctx then { e.2 with lanes := e.2.lanes.map (fun (x : LaneOp) =>
        if x.kern = kern && x.item / f1 = table then x.voided e.2.kind else x) } else e.2)) }
    let s3 := ((s2.dropParked (fun r => r.ctx = ctx && r.kern = kern && r.item / f1 = table)).endTable ctx kern table h).modKern ctx kern (fun k =>
      { k with arrivals := k.arrivals.foldl (fun m e => kPut [] e.1 (e.2.filter (fun i => i / f1 ≠ table)) m) k.arrivals })
    (s3.report ctx { kind := 0x10, code := code, cmask := lanes, item := item, who := who, arg0 := table, die := h.die
                     arg1 := s.locCore t.core 0 }).1

/-- A table of a hand's context killed. -/
def State.killTable (s : State) (h : HandRef) (kern table code : Nat) (lanes : List Nat) (who : Nat) : State :=
  s.killIn (s.hand h).ctx h kern table code lanes ((s.hand h).itemOf lanes) who

/-- The tables of lanes whose control value is poisoned are killed, each once (24 R423). -/
def State.killLanes (s : State) (r : SuitRef) (code : Nat) (lanes : List Nat) : State :=
  let hd := s.hand r.hr
  lanes.foldl (fun a l =>
    match (hd.lane l).item with
    | none => a
    | some it =>
      let same := lanes.filter (fun j => match (hd.lane j).item with | some x => x.kern = it.kern && x.table = it.table | none => false)
      if same.head? = some l then a.killTable r.hr it.kern it.table code same (s.whoOf r it.kern) else a) s

end Sys2Proof.Machine
end

