-- ==== Sys2Proof/Machine/Operands.lean ====
section
/-! DEFINITION. Sys2Proof/Machine/Operands.lean: what an issuing instruction sees, and the value of every operand form (06
R136, R137, R141 to R145). -/

namespace Sys2Proof.Machine

/-- An instruction at its issue: the suit, its hand and kernel, its active lanes and the lanes that execute it. -/
structure Iss where
  s : State
  r : SuitRef
  hd : Hand
  u : Suit
  kern : Kernel
  ks : KernSet
  act : List Nat
  ex : List Nat

/-- The width an operand is read with, which fixes how constants are extended (06 R137). -/
inductive OW where
  | w32
  | w64
  | packed (z : ISize)
  /-- packed FP16, or BF16 when `bf` -/
  | half (bf : Bool)
deriving DecidableEq, Repr

def isizeBits : ISize → Nat
  | .w32 => 32 | .w16 => 16 | .w8 => 8

/-- An element replicated over a register. -/
def replicate (w x : Nat) : Nat := if w = 16 then x % 65536 * 65537 else if w = 8 then x % 256 * 0x1010101 else x % 2 ^ 32

/-- An integer constant in the width of its operand. -/
def immVal (w : OW) (i : Int) : Nat :=
  match w with
  | .w32 => wrapNat 32 i
  | .w64 => wrapNat 64 i
  | .packed z => replicate (isizeBits z) (wrapNat (isizeBits z) i)
  | .half _ => replicate 16 (wrapNat 16 i)

def fconstBits : FConst → Nat
  | .one => 0x3F800000 | .two => 0x40000000 | .half => 0x3F000000 | .negOne => 0xBF800000

/-- An FP32 constant in the width of its operand. -/
def fcVal (w : OW) (c : FConst) : Nat :=
  match w with
  | .half bf => replicate 16 ((if bf then bf16 else f16).round .rne 0 false (f32.value (fconstBits c)))
  | _ => fconstBits c

/-- The specials (06 Table 6.6), as the lane reads them. -/
def Iss.special (x : Iss) (l : Nat) (wide : Bool) (sp : Special) : Nat :=
  let it := ((x.hd.lane l).item).getD { kern := 0, item := 0, table := 0, tix := 0, age := 0 }
  match sp with
  | .lane => l
  | .itemLo => if wide then it.item else it.item % 2 ^ 32
  | .itemHi => it.item / 2 ^ 32 % 2 ^ 32
  | .table => it.table % 2 ^ 32
  | .tix => it.tix
  | .hand => x.r.hand
  | .core => x.r.core
  | .die => x.r.die
  | .kern => x.u.kern
  | .age => it.age
  | .suit => x.r.suit
  | .mask => maskOf x.act
  | .ctx => x.hd.ctx
  | .gen => x.hd.gen
  | .clkLo => if wide then x.s.clk % 2 ^ 64 else x.s.clk % 2 ^ 32
  | .clkHi => x.s.clk / 2 ^ 32 % 2 ^ 32
  | .psum => if (x.hd.lane l).psum then 1 else 0

def kreg (k : Kernel) (n : Nat) : W32 := kGet 0 n k.lrec.k

/-- A register of a lane by key, and its pair. -/
def reg32 (l : Lane) (k : Nat) : W32 × Bool := (rfVal l.regs k, rfPois l.regs k)
def reg64 (l : Lane) (k : Nat) : W64 × Bool := (pair64 (rfVal l.regs k) (rfVal l.regs (k + 1)), rfPois l.regs k || rfPois l.regs (k + 1))

/-- The value of an operand for a lane and its poison (08 R184). A 32-bit value is zero-extended. -/
def Iss.rd (x : Iss) (w : OW) (l : Nat) (a : Src) : W64 × Bool :=
  let ln := x.hd.lane l
  let regr (k : Nat) : W64 × Bool := if w = .w64 then reg64 ln k else ((reg32 ln k).1.setWidth 64, (reg32 ln k).2)
  match a with
  | .v n => regr n
  | .o n => regr (640 + n)
  | .l n =>
    let v := if n = 0 then ln.l0 else ln.l1
    (if w = .w64 then v else (lo32 v).setWidth 64, if n = 0 then ln.l0p else ln.l1p)
  | .zero => (0, false)
  | .k n => (if w = .w64 then pair64 (kreg x.kern n) (kreg x.kern (n + 1)) else (kreg x.kern n).setWidth 64, false)
  | .p n => (if ln.pred n then 1 else 0, ln.predP n)
  | .spec sp => (if w = .w64 then BitVec.ofNat 64 (x.special l true sp) else (BitVec.ofNat 32 (x.special l false sp)).setWidth 64, false)
  | .imm i => (BitVec.ofNat 64 (immVal w i), false)
  | .fc c => (BitVec.ofNat 64 (fcVal w c), false)
  | .lit v => (if w = .w64 then v else (lo32 v).setWidth 64, false)

/-- Its value as a number, and its poison. -/
def Iss.val (x : Iss) (w : OW) (l : Nat) (a : Src) : Nat := (x.rd w l a).1.toNat
def Iss.pois (x : Iss) (w : OW) (l : Nat) (a : Src) : Bool := (x.rd w l a).2

/-- A register of the lane, by key. -/
def Iss.reg (x : Iss) (l k : Nat) : W32 × Bool := reg32 (x.hd.lane l) k

/-- Register keys an operand of n words reads. -/
def srcKeys (n : Nat) : Src → List Nat
  | .v a => (List.range n).map (fun i => a + i)
  | .o a => (List.range n).map (fun i => 640 + a + i)
  | _ => []

/-- Main-file window of an operand of n words (06 R451). -/
def srcWin (n : Nat) : Src → List (Nat × Nat)
  | .v a => [(a, n)]
  | _ => []

/-- Keys a destination of n words writes. -/
def dstKeys (n : Nat) : Dst → List Nat
  | .v a => (List.range n).map (fun i => a + i)
  | .o a => (List.range n).map (fun i => 640 + a + i)
  | .none => []

def dstWin (n : Nat) : Dst → List (Nat × Nat)
  | .v a => [(a, n)]
  | _ => []

/-- Keys of a main-file range, and its window. -/
def rngKeys (a n : Nat) : List Nat := (List.range n).map (fun i => a + i)
def rngWin (a n : Nat) : List (Nat × Nat) := if n = 0 then [] else [(a, n)]

/-- Words of a register for n consecutive keys. -/
def Iss.regs (x : Iss) (l a n : Nat) : List (W32 × Bool) := (rngKeys a n).map (x.reg l)

end Sys2Proof.Machine
end

