-- ==== Sys2Proof/Machine/Flags.lean ====
section
/-! DEFINITION. Sys2Proof/Machine/Flags.lean: the status bits of a lane and its kernel: the MODE word, the rounding
environment it gives an instruction, comparison outcomes, and the poison summaries (05 R110 to R113, 08 R190, 09 R199, 14
R293). -/

namespace Sys2Proof.Machine

/-! ## MODE (05 Table 5.2) -/

def modeSsel (m : Nat) : Nat := fld m 9 8
def modeSatf (m : Nat) : Bool := bitN m 5
def modeDaz (m : Nat) : Bool := bitN m 4
def modeFtz (m : Nat) : Bool := bitN m 3
def modeRnd (m : Nat) : Nat := fld m 2 0

/-- Whether the RND and SSEL of a MODE value are legal: RND 1 to 6, SSEL not 11. A launch is refused otherwise; it ignores reserved bits (00 R7, 05
R111). -/
def modeLaunch (m : Nat) : Bool := decide (1 ≤ modeRnd m) && decide (modeRnd m ≤ 6) && modeSsel m ≠ 3

/-- Whether SETMODE takes a MODE value: reserved bits zero too (11 R239). -/
def modeLegal (m : Nat) : Bool := fld m 31 10 = 0 && fld m 7 6 = 0 && modeLaunch m

/-- The mode of a rounding code (05 Table 5.3). -/
def rndOfCode : Nat → Rnd
  | 1 => .rne | 2 => .rtz | 3 => .rup | 4 => .rdn | 5 => .rna | 6 => .rs | _ => .rne

/-- The mode an instruction rounds in: its own, or MODE.RND (05 R113). -/
def rndIn (m : Nat) : Rnd → Rnd
  | .mode => rndOfCode (modeRnd m)
  | r => r

/-- Random words of a lane: `n` draws when the mode is RS, else none; the words and the state after (05 R114, R116). -/
def draws (m : Rnd) : Nat → W32 → List Nat × W32
  | 0, g => ([], g)
  | n + 1, g => if m = .rs then (let g1 := nextRandom g; let (ws, g2) := draws m n g1; (g1.toNat :: ws, g2)) else ([], g)

/-- The seed source of SSEL (05 Table 5.2), with the state after (an entropy word is a free value, log 5). -/
def State.seedOf (s : State) (ctx : Nat) (k : Kernel) (mode : W32) : W32 × State :=
  match modeSsel mode.toNat with
  | 0 => (kreg k 63, s)
  | 1 => (BitVec.ofNat 32 (s.reg ctx 0x12), s)
  | _ => (Config.entropy s.freeCount, { s with freeCount := s.freeCount + 1 })

/-- The generator of a lane seeded (05 R117). -/
def State.reseed (s : State) (h : HandRef) (l : Nat) : State :=
  let hd := s.hand h
  match (hd.lane l).item with
  | none => s
  | some it =>
    let (sd, s1) := s.seedOf hd.ctx (s.kernD hd.ctx it.kern) (hd.kernSet it.kern).mode
    s1.modLane h l (fun ln => { ln with rng := seedRng sd it.item it.kern })

/-! ## Comparisons -/

/-- Integer compare (08 R190). -/
def icHolds (c : ICc) (a b : Int) : Bool :=
  match c with
  | .eq => a = b | .ne => a ≠ b | .lt => a < b | .le => a ≤ b | .gt => b < a | .ge => b ≤ a

/-- Floating compare (09 Table 9.3). -/
def fcHolds (c : FCc) (a b : FV) : Bool :=
  let n := a.isNan || b.isNan
  match c with
  | .eq => !n && FV.eq a b
  | .ne => n || !FV.eq a b
  | .lt => !n && FV.lt a b
  | .le => !n && !FV.lt b a
  | .gt => !n && FV.lt b a
  | .ge => !n && !FV.lt a b
  | .num => !n
  | .nan => n

/-- An unsigned sum with carry in: the word and the carry out (08 R187). -/
def addCarry (a b c : Nat) : Nat × Bool := ((a + b + c) % 2 ^ 32, decide (2 ^ 32 ≤ a + b + c))

/-- Clamping to a width and signedness (05 R108). -/
def clampTo (w : Nat) (sgn : Bool) (x : Int) : Int :=
  let lo : Int := if sgn then -((2 ^ (w - 1) : Nat) : Int) else 0
  let hi : Int := if sgn then ((2 ^ (w - 1) - 1 : Nat) : Int) else ((2 ^ w - 1 : Nat) : Int)
  if x < lo then lo else if hi < x then hi else x

/-! ## Poison summaries (08 R184, 14 Table 14.5) -/

/-- Key of a kernel in core tables. -/
def kernKey (ctx kern : Nat) : Nat := 65536 * ctx + kern

/-- An item consumes poison: s.psum, the kernel's mark on the core, and the count of such items. -/
def State.consume (s : State) (h : HandRef) (l : Nat) : State :=
  let hd := s.hand h
  let ln := hd.lane l
  match ln.item with
  | none => s
  | some it =>
    if ln.psum then s
    else
      ((s.modLane h l (fun a => { a with psum := true })).modCore h.cr (fun c => { c with kpsum := insN (kernKey hd.ctx it.kern) c.kpsum })).modKern
        hd.ctx it.kern (fun k => { k with poisoned := k.poisoned + 1 })

/-- CHKE word of a lane (14 Table 14.5). -/
def Iss.chke (x : Iss) (l : Nat) : Nat :=
  let ln := x.hd.lane l
  let c := x.s.core x.r.hr.cr
  (if ln.psum then 1 else 0) + (if c.kpsum.contains (kernKey x.hd.ctx x.u.kern) then 2 else 0)
    + (if x.hd.tiles.any (fun t => (kGet {} t c.pot).pois) then 4 else 0) + (if ln.epois then 8 else 0)

end Sys2Proof.Machine
end

