-- ==== Sys2Proof/Machine/Ops.lean ====
section
/-! DEFINITION. Sys2Proof/Machine/Ops.lean: the shared operations of issue: which lanes execute, the checks an instruction
passes in order (23 R396), stalls, pegs, writing results, and moving past the instruction. Taking an exception is
State.trapEntry and its return State.trapReturn, in Trap.lean. -/

namespace Sys2Proof.Machine

abbrev Out := Host.Outcome State Fault Refusal

/-! ## Pegs (06 R153, R154) -/

/-- Entries at the front that are eligible retire, in issue order. -/
def retire (p : List PegEnt) : List PegEnt := p.dropWhile (fun e => e.done)

/-- The peg that PSLOT selects in a header word; none for 15. -/
def pegOf (hw : Nat) (ps : Bool) : Option Nat :=
  let f := if ps then fld hw 30 27 else fld hw 26 23
  if f < 12 then some f else none

/-- An operation counted on a peg. -/
def State.count (s : State) (h : HandRef) (peg : Option Nat) (op : Nat) (done : Bool) : State :=
  match peg with
  | none => s
  | some p => s.modHand h (fun d => { d with pegs := kPut [] p (retire (kGet [] p d.pegs ++ [{ op := op, done := done }])) d.pegs })

def isEvSt : Stall → Bool
  | .clause | .lease | .issuePoint | .peg | .unit => true
  | _ => false

/-- The value of a peg. -/
def Hand.peg (hd : Hand) (p : Nat) : Nat := (kGet [] p hd.pegs).length

/-- Suits that wait for something that may have ended look again; a WAITP whose peg is low enough ends (07 R175). -/
def Hand.wake (hd : Hand) : Hand :=
  { hd with suits := hd.suits.map (fun e => (e.1,
      if isEvSt e.2.stall then { e.2 with stall := .ready, wait := 0 }
      else match e.2.stall with
        | .waitp _ p thrs => if thrs.all (fun t => decide (hd.peg p ≤ t.2)) then { e.2 with stall := .ready, wait := 0, pos := e.2.pos.after (e.2.pos.pc + 12) } else e.2
        | _ => e.2)) }

def State.wake (s : State) (h : HandRef) : State := s.modHand h Hand.wake

/-- Every suit of every hand looks again: the claims of an engine hold back accesses of every core. -/
def State.wakeAll (s : State) : State :=
  { s with cores := s.cores.map (fun c => (c.1, { c.2 with hands := c.2.hands.map (fun h => (h.1, h.2.wake)) })) }

/-- An operation becomes eligible to decrement its peg. -/
def State.pegDone (s : State) (h : HandRef) (peg : Option Nat) (op : Nat) : State :=
  match peg with
  | none => s.wake h
  | some p => s.modHand h (fun d => Hand.wake { d with pegs := kPut [] p (retire ((kGet [] p d.pegs).map (fun e =>
      if e.op = op then { e with done := true } else e))) d.pegs })

/-- What a hand has issued and is still under way keeps the logical time the hand has now: the hand is being released (04 R90). -/
def State.keepPts (s : State) (h : HandRef) : State :=
  let hd := s.hand h
  { s with
    reqs := s.reqs.map (fun e => (e.1, if e.2.h = h ∧ e.2.gen = hd.gen then { e.2 with pts := hd.pts } else e.2))
    ops := s.ops.map (fun e => (e.1, if e.2.h = h ∧ e.2.gen = hd.gen then { e.2 with pts := hd.pts } else e.2)) }

/-- A fresh operation number. -/
def State.newOp (s : State) : Nat × State := (s.nextOp, { s with nextOp := s.nextOp + 1 })

/-! ## What issues -/

/-- The suit that State.cur names, with its hand, kernel and active lanes. -/
def State.look (s : State) : Option Iss :=
  let hd := s.hand s.cur.hr
  match hd.suit s.cur.suit with
  | none => none
  | some u => some { s := s, r := s.cur, hd := hd, u := u, kern := s.kernD hd.ctx u.kern, ks := hd.kernSet u.kern
                     act := hd.active s.cur.suit, ex := [] }

def Iss.h (x : Iss) : HandRef := x.r.hr
def Iss.ctx (x : Iss) : Nat := x.hd.ctx
def Iss.pl (x : Iss) : Nat := x.kern.lrec.pl
def Iss.lane (x : Iss) (l : Nat) : Lane := x.hd.lane l
def Iss.item (x : Iss) (l : Nat) : Item := ((x.hd.lane l).item).getD { kern := 0, item := 0, table := 0, tix := 0, age := 0 }
def Iss.mode (x : Iss) : Nat := x.ks.mode.toNat
def Iss.seat (x : Iss) : Nat := x.kern.lrec.seat

/-- Whether a lane executes under a guard (06 R140). -/
def guardOn (g : Grd) (l : Lane) : Bool := l.pred g.p != g.neg

/-- What an instruction needs of its issue. -/
structure Use where
  g : Grd := Grd.always
  major : Nat := 0
  /-- main-file windows in the order D, A, B, C (06 R451) -/
  wins : List (Nat × Nat) := []
  /-- register keys read or written -/
  keys : List Nat := []
  /-- PSLOT of a counted instruction -/
  peg : Option Bool := none
  /-- privilege level required -/
  pl : Nat := 0
  /-- the target context of a privilege fault -/
  tgt : Nat := 0xFF
  /-- the target context is of another partition (23 R404) -/
  foreign : Bool := false
  /-- makes an event of T, publishes or seals (12 R246, 24 R408) -/
  event : Bool := false
  /-- ends its clause (24 R408) -/
  ends : Bool := false
  /-- takes its place in T at issue, so that requests of its executing lanes must have taken theirs (04 R92) -/
  now : Bool := false

/-- Lanes of a hand with a parked access of their own. -/
def State.parkedIn (s : State) (h : HandRef) (ls : List Nat) : List Nat :=
  ls.filter (fun l => s.reqs.any (fun e => e.2.parked && e.2.h = h && e.2.gen = (s.hand h).gen && e.2.lane = l &&
    (match (s.lane h l).item with | some it => it.item = e.2.item && it.kern = e.2.kern | none => false)) || s.ops.any (fun e => e.2.h = h && e.2.gen = (s.hand h).gen && e.2.lanes.any (fun o => o.lane = l &&
    (match o.st with | .parked _ => true | _ => false) &&
    (match (s.lane h l).item with | some it => it.item = o.item && it.kern = o.kern | none => false))))

/-- Whether an operation has a parked lane. -/
def State.opParked (s : State) (op : Nat) : Bool :=
  s.reqs.any (fun e => e.2.parked && e.2.op = op) || match kFind op s.ops with
  | some o => o.lanes.any (fun x => match x.st with | .parked _ => true | _ => false)
  | none => false

/-- The suit gives up its slot at a fault: lanes with a parked access are Held-fault, the others Held-ready (24 R409). -/
def State.faultYield (s : State) (r : SuitRef) (pos : Pos) : State :=
  let hd := s.hand r.hr
  let pk := s.parkedIn r.hr (hd.active r.suit)
  s.modHand r.hr (fun d => Hand.sweep (d.modLanes (d.active r.suit) (fun l ln =>
    { ln with st := if pk.contains l then .heldFault .access else .heldReady, pos := pos })))

/-- Stalls the suit of an instruction; or gives up its slot when a parked access of a lane of the suit keeps it (24 R409). -/
def Iss.stall (x : Iss) (why : Stall) (ops : List Nat) : State :=
  if x.u.trap.isNone && ops.any x.s.opParked && !(x.s.parkedIn x.h x.act).isEmpty then x.s.faultYield x.r x.u.pos
  else x.s.modSuit x.r (fun u => { u with stall := why, wait := 0 })

/-- Requests of one item that came before a number. -/
def State.itemBusy (s : State) (ctx kern item below : Nat) : Bool :=
  s.reqs.any (fun e => decide (e.1 < below) && e.2.ctx = ctx && e.2.kern = kern && e.2.item = item)

/-- Whether an item has a request on its way, so that a later event of it must wait (04 R92). -/
def State.itemWaits (s : State) (ctx kern item : Nat) : Bool := s.itemBusy ctx kern item s.nextReq

/-- Whether an operation's issue point is still to come: an engine operation (12 R246), a LAUNCH or a DEAL (14 R290, R291), or a
CLAIM that has not reached its home (14 R288). -/
def Op.unissued (o : Op) : Bool :=
  match o.kind with
  | .engine g => !g.issued
  | .remote _ _ | .claim | .launch _ _ _ _ | .deal _ _ _ _ _ _ => o.lanes.any (fun x => match x.st with | .pending | .parked _ => true | _ => false)
  | _ => false

/-- Operations of the matrix array: MMA and MMAG, and MDRAIN, MDST and MSTAT, which read it (13). -/
def Op.onArray (o : Op) : Bool :=
  match o.kind with
  | .matrix => true
  | .access => o.major = 0x71 || o.major = 0x72 || o.major = 0x74
  | _ => false

/-- Operations of an engine (15 Table 15.6). -/
def Op.onEngine (o : Op) : Bool := o.onArray || (match o.kind with | .engine _ | .remote _ _ => true | _ => false)

/-- Kinds of operation with an issue point. -/
def OpKind.pointed : OpKind → Bool
  | .engine _ | .remote _ _ | .claim | .launch _ _ _ _ | .deal _ _ _ _ _ _ => true
  | _ => false

/-- Active lanes of the suit with their kernels and items. -/
def Iss.mates (x : Iss) : List (Nat × Nat × Nat) := x.act.map (fun l => (l, (x.item l).kern, (x.item l).item))

/-- Whether an operation that the suit, or one it was divided from, has issued is before its issue point. -/
def Iss.beforePoint (x : Iss) : Bool :=
  x.s.ops.any (fun e => e.2.h = x.r.hr && e.2.gen = x.hd.gen && e.2.unissued && e.2.mates.any x.mates.contains)

/-- An instruction that traps: no lane takes effect, it still counts on its peg, and the suit enters trap mode (23 R396). -/
def Iss.trap (x : Iss) (u : Use) (kind code : Nat) (cmask : List Nat) (arg0 arg1 : Nat) : State :=
  let s1 := match u.peg with
    | some ps => (x.s.newOp.2).count x.h (pegOf x.u.pos.hw ps) x.s.nextOp true
    | none => x.s
  s1.trapEntry x.r kind code cmask x.act (if u.ends then Pos.at_ x.u.pos.nextHdr else x.u.pos.after x.s.npc) arg0 arg1

/-- The first window beyond the seat: index and window (06 R451). -/
def badWin (seat : Nat) (ws : List (Nat × Nat)) : Option (Nat × Nat × Nat) :=
  (ws.find? (fun w => seat < w.1 + w.2)).map (fun w => (seat - w.1, w.1, w.2))

/-- The index trap of the windows of an instruction, in an instruction that executes in some lane (06 R451). -/
def Iss.winTrap (x : Iss) (u : Use) (wins : List (Nat × Nat)) : Option State :=
  match badWin x.seat wins with
  | some (i, b, w) => if x.ex.isEmpty then none else some (x.trap u 3 0 x.ex i (b * 2 ^ 32 + w))
  | none => none

/-- Operations that lease one of some registers in some of the lanes. -/
def Iss.leasesOf (x : Iss) (ls keys : List Nat) : List Nat :=
  ls.flatMap (fun l => ((x.lane l).leases.filter (fun e => keys.contains e.1)).map Prod.snd)

/-- The checks common to every instruction, in order; some s when the instruction does not take effect now. -/
def Iss.gate (x : Iss) (u : Use) : Option State :=
  let conflict := x.leasesOf x.ex u.keys
  if (u.event || u.ends) && !(x.s.parkedIn x.h x.act).isEmpty then
    some (if x.u.trap.isNone then x.s.faultYield x.r x.u.pos else x.s.modSuit x.r (fun v => { v with stall := .lease }))
  else if u.event && x.beforePoint then some (x.stall .issuePoint [])
  else if u.now && x.ex.any (fun l => x.s.itemWaits x.hd.ctx (x.item l).kern (x.item l).item) then some (x.stall .issuePoint [])
  else if (decide (x.pl < u.pl) || u.foreign) && !x.ex.isEmpty then some (x.trap u 9 u.pl x.ex u.tgt 0)
  else if !conflict.isEmpty then some (x.stall .lease conflict)
  else if (match u.peg.bind (pegOf x.u.pos.hw) with | some p => decide (255 ≤ x.hd.peg p) | none => false) then some (x.stall .peg [])
  else x.winTrap u u.wins

/-- Lanes that read a poisoned control value: each has consumed poison, and its table is killed (08 R184, 24 R423). -/
def State.controlKill (s : State) (r : SuitRef) (bad : List Nat) : State :=
  (bad.foldl (fun a l => a.consume r.hr l) s).killLanes r 1 bad

/-- An instruction at its issue: poisoned guards kill tables (24 R423), the lanes that execute, the common checks, then the
effect `k`. -/
def issue (u : Use) (s : State) (k : Iss → State) : Out :=
  match s.look with
  | none => .fault .noSuit
  | some x0 =>
    let bad := x0.act.filter (fun l => (x0.lane l).predP u.g.p)
    if !bad.isEmpty then .next (s.controlKill s.cur bad)
    else
      let x := { x0 with ex := x0.act.filter (fun l => guardOn u.g (x0.lane l)) }
      match x.gate u with
      | some s1 => .next s1
      | none => .next (k x)

/-- The suit moves past the instruction (W is zero after an issue, 15 R315). -/
def State.advance (s : State) (r : SuitRef) : State :=
  s.modSuit r (fun u => { u with pos := u.pos.after s.npc, stall := .ready, wait := 0 })

/-- Lanes whose control operand is poisoned have their tables killed; the instruction takes effect in no lane and is met
again by the others (24 R423). -/
def Iss.control (x : Iss) (bad : List Nat) (k : State) : State := if bad.isEmpty then k else x.s.controlKill x.r bad

/-! ## Results -/

/-- What an instruction does to one lane at issue. -/
structure LaneOut where
  ws : List (Nat × W32 × Bool) := []
  /-- the result that shifts the last-result slots (06 R147) -/
  slot : Option (W64 × Bool) := none
  /-- predicate, value, poison -/
  pr : List (Nat × Bool × Bool) := []
  rng : Option W32 := none
  /-- it read a poisoned value -/
  eats : Bool := false

def Lane.take (l : Lane) (o : LaneOut) : Lane :=
  let l1 := o.ws.foldl (fun (a : Lane) w => a.put w.1 w.2.1 w.2.2) l
  let l2 := match o.slot with | some (v, p) => l1.shift v p | none => l1
  let l3 := o.pr.foldl (fun (a : Lane) p => a.setPred p.1 p.2.1 p.2.2) l2
  match o.rng with | some g => { l3 with rng := g } | none => l3

/-- The outcome of one lane put into the state. -/
def State.laneOut (s : State) (h : HandRef) (l : Nat) (o : LaneOut) : State :=
  let s1 := s.modLane h l (fun ln => ln.take o)
  if o.eats then s1.consume h l else s1

/-- The outcomes of every executing lane. -/
def Iss.commit (x : Iss) (f : Nat → LaneOut) : State := x.ex.foldl (fun s l => s.laneOut x.h l (f l)) x.s

/-- A 32-bit result in D. -/
def out32 (d : Dst) (v : Nat) (p : Bool) : LaneOut :=
  match dstKeys 1 d with
  | k :: _ => { ws := [(k, BitVec.ofNat 32 v, p)], slot := some (BitVec.ofNat 64 (v % 2 ^ 32), p), eats := p }
  | [] => { eats := p }

/-- A 64-bit result in the pair D. -/
def out64 (d : Dst) (v : Nat) (p : Bool) : LaneOut :=
  match dstKeys 2 d with
  | k :: j :: _ => { ws := [(k, BitVec.ofNat 32 v, p), (j, BitVec.ofNat 32 (v / 2 ^ 32), p)]
                     slot := some (BitVec.ofNat 64 v, p), eats := p }
  | _ => { eats := p }

/-- An instruction that computes in each executing lane on its own and goes on. -/
def lanewise (u : Use) (s : State) (f : Iss → Nat → LaneOut) : Out :=
  issue u s (fun x => (x.commit (f x)).advance x.r)

/-- Use of an instruction with a destination of `dn` words and sources of given widths. -/
def useOf (g : Grd) (major dn : Nat) (d : Dst) (srcs : List (Nat × Src)) : Use :=
  { g := g, major := major
    wins := dstWin dn d ++ srcs.flatMap (fun a => srcWin a.1 a.2)
    keys := dstKeys dn d ++ srcs.flatMap (fun a => srcKeys a.1 a.2) }

/-! ## Sealing by instruction class (07 R171) -/

/-- Executing lanes become sealed (07 Table 7.3). -/
def State.sealLanes (s : State) (h : HandRef) (ls : List Nat) : State :=
  s.modHand h (fun d => d.modLanes ls (fun _ l => { l with isSealed := true }))

/-! ## Counted operations -/

/-- A counted operation started: its peg entry and its record; with no lane it is counted and eligible at once (06 R154). -/
def State.startOp (s : State) (x : Iss) (major : Nat) (ps : Bool) (lanes : List LaneOp) (kind : OpKind) (done : Bool) (span : Nat × Nat × Nat := (0, 0, 0)) : State :=
  let (id, s1) := s.newOp
  let peg := pegOf x.u.pos.hw ps
  let s2 := s1.count x.h peg id done
  if done then s2
  else { s2 with ops := kSet id { h := x.h, gen := x.hd.gen, ctx := x.ctx, kern := x.u.kern, major := major, peg := peg, lanes := lanes, kind := kind,
                                          mates := if kind.pointed then x.mates else [], span := span } s2.ops }

/-- Registers leased by an operation in a lane (06 R155). -/
def State.leaseRegs (s : State) (h : HandRef) (l : Nat) (op : Nat) (ks : List Nat) : State :=
  s.modLane h l (fun ln => { ln with leases := ln.leases ++ ks.map (fun k => (k, op)) })

/-- The lane entry of an operation. -/
def Iss.laneOp (x : Iss) (l due : Nat) (st : LaneOpSt) : LaneOp :=
  let it := x.item l
  { lane := l, kern := it.kern, item := it.item, age := it.age, due := due, st := st }

end Sys2Proof.Machine
end

