-- ==== Sys2Proof/Machine/Integer.lean ====
section
/-! DEFINITION. Sys2Proof/Machine/Integer.lean: the integer, logic and address instructions (08). -/

namespace Sys2Proof.Machine

/-! ## Elements (08 R185, R186) -/

/-- Element j of width w, by signedness. -/
def elemOf (w : Nat) (sgn : Bool) (j x : Nat) : Int :=
  let e := x / 2 ^ (w * j) % 2 ^ w
  if sgn then sext w e else e

/-- A register built from its elements, each taken modulo 2^w. -/
def ofElems (w : Nat) (f : Nat → Int) : Nat :=
  ((List.range (32 / w)).map (fun j => wrapNat w (f j) * 2 ^ (w * j))).foldl (· + ·) 0

/-- The exact integer of each element, wrapped or clamped (R186). -/
def elemwise (ty : ITy) (sat : Bool) (f : Int → Int → Int → Int) (a b c : Nat) : Nat :=
  let w := isizeBits ty.size
  ofElems w (fun j =>
    let e := f (elemOf w ty.sgn j a) (elemOf w ty.sgn j b) (elemOf w ty.sgn j c)
    if sat then clampTo w ty.sgn e else e)

def tyU : ITy := { size := .w32, sgn := false }
def tyS : ITy := { size := .w32, sgn := true }

/-- An element-wise instruction of up to three sources. -/
def intOp (g : Grd) (major : Nat) (ty : ITy) (sat : Bool) (f : Int → Int → Int → Int) (d : Dst) (a b c : Src) (s : State) : Out :=
  let w := OW.packed ty.size
  lanewise (useOf g major 1 d [(1, a), (1, b), (1, c)]) s (fun x l =>
    out32 d (elemwise ty sat f (x.val w l a) (x.val w l b) (x.val w l c)) (x.pois w l a || x.pois w l b || x.pois w l c))

/-- A 32-bit function of up to three words. -/
def wordOp (g : Grd) (major : Nat) (f : Nat → Nat → Nat → Nat) (d : Dst) (a b c : Src) (s : State) : Out :=
  lanewise (useOf g major 1 d [(1, a), (1, b), (1, c)]) s (fun x l =>
    out32 d (f (x.val .w32 l a) (x.val .w32 l b) (x.val .w32 l c)) (x.pois .w32 l a || x.pois .w32 l b || x.pois .w32 l c))

/-! ## Values -/

def mulHigh (w : Nat) (a b : Int) : Int := a * b / (2 ^ w : Nat)
def imin2 (a b : Int) : Int := if a ≤ b then a else b
def imax2 (a b : Int) : Int := if a ≤ b then b else a

/-- The shifts and rotations of one element (08 R188). -/
def shlE (w a n : Nat) : Nat := if w ≤ n then 0 else a * 2 ^ n % 2 ^ w
def shrE (w a n : Nat) : Nat := if w ≤ n then 0 else a / 2 ^ n
def sarE (w a n : Nat) : Nat := wrapNat w (sext w a / (2 ^ minN n (w - 1) : Nat))
def rotE (right : Bool) (w a n : Nat) : Nat := if right then rotl w a ((w - n % w) % w) else rotl w a (n % w)

/-- A shift applied to each element with the matching count. -/
def shiftElems (sz : ISize) (f : Nat → Nat → Nat → Nat) (a b : Nat) : Nat :=
  let w := isizeBits sz
  ofElems w (fun j => (f w (a / 2 ^ (w * j) % 2 ^ w) (b / 2 ^ (w * j) % 2 ^ w) : Nat))

def shiftOp (g : Grd) (major : Nat) (sz : ISize) (f : Nat → Nat → Nat → Nat) (d : Dst) (a b : Src) (s : State) : Out :=
  let w := OW.packed sz
  lanewise (useOf g major 1 d [(1, a), (1, b)]) s (fun x l =>
    out32 d (shiftElems sz f (x.val w l a) (x.val w l b)) (x.pois w l a || x.pois w l b))

/-- SHF (08 R188): the pair B:A shifted left, its high word, or right, its low word. -/
def shfVal (right : Bool) (a b c : Nat) : Nat :=
  let n := minN c 32
  let x := b * 2 ^ 32 + a
  if right then x / 2 ^ n % 2 ^ 32 else x * 2 ^ n / 2 ^ 32 % 2 ^ 32

/-- BFE (08 R189). -/
def bfeVal (sgn : Bool) (a b : Nat) : Nat :=
  let pos := b % 256
  let len := minN (b / 256 % 256) 32
  let x : Int := if sgn then sext 32 a else a
  let f := wrapNat len (x / (2 ^ pos : Nat))
  if len = 0 then 0 else if sgn then wrapNat 32 (sext len f) else f

/-- BFI (08 R189). -/
def bfiVal (a b c : Nat) : Nat :=
  let pos := c % 256
  let len := minN (c / 256 % 256) 32
  let mask := (2 ^ len - 1) * 2 ^ pos % 2 ^ 32
  Nat.lor (Nat.land a (Nat.xor mask (2 ^ 32 - 1))) (Nat.land (b * 2 ^ pos % 2 ^ 32) mask)

def popcVal (a : Nat) : Nat := (bitList 32 a).length
def ctzVal (a : Nat) : Nat := ((List.range 32).find? (bitN a)).getD 32
def brevVal (a : Nat) : Nat := maskOf ((bitList 32 a).map (fun i => 31 - i))
def clzVal (a : Nat) : Nat := ctzVal (brevVal a)

/-- BSEL (08 R189): each byte of D by one control byte of C. -/
def bselVal (a b c : Nat) : Nat :=
  let x := b * 2 ^ 32 + a
  let byte (i : Nat) : Nat :=
    let ctl := c / 2 ^ (8 * i) % 256
    let y := x / 2 ^ (8 * (ctl % 8)) % 256
    match ctl / 8 % 4 with
    | 0 => y
    | 1 => 0
    | 2 => 255
    | _ => if 128 ≤ y then 255 else 0
  byte 0 + byte 1 * 2 ^ 8 + byte 2 * 2 ^ 16 + byte 3 * 2 ^ 24

/-- ISET (08 R190): all ones in each element that compares true. -/
def isetVal (ty : ITy) (cc : ICc) (a b : Nat) : Nat :=
  let w := isizeBits ty.size
  ofElems w (fun j => if icHolds cc (elemOf w ty.sgn j a) (elemOf w ty.sgn j b) then ((2 ^ w - 1 : Nat) : Int) else 0)

/-- An integer read by signedness. -/
def ext (w : Nat) (sgn : Bool) (x : Nat) : Int := if sgn then sext w x else x

/-- A 64-bit result, clamped when `sat` (08 R187). -/
def wide (sgn sat : Bool) (e : Int) : Nat := wrapNat 64 (if sat then clampTo 64 sgn e else e)

/-! ## Meanings -/

/-- IADD (08 R186, base form R135). -/
def execIadd (d : Dst) (a b : Src) (s : State) : Out :=
  intOp Grd.always 0x10 tyU false (fun a b _ => a + b) d a b .zero s

/-- IADD (08 R186). -/
def execIaddExt (g : Grd) (ty : ITy) (sat : Bool) (d : Dst) (a b : Src) (s : State) : Out :=
  intOp g 0x10 ty sat (fun a b _ => a + b) d a b .zero s

/-- ISUB (08 R186, base form R135). -/
def execIsub (d : Dst) (a b : Src) (s : State) : Out :=
  intOp Grd.always 0x10 tyU false (fun a b _ => a - b) d a b .zero s

/-- ISUB (08 R186). -/
def execIsubExt (g : Grd) (ty : ITy) (sat : Bool) (d : Dst) (a b : Src) (s : State) : Out :=
  intOp g 0x10 ty sat (fun a b _ => a - b) d a b .zero s

/-- IMUL (08 R186, base form R135). -/
def execImul (d : Dst) (a b : Src) (s : State) : Out :=
  intOp Grd.always 0x11 tyU false (fun a b _ => a * b) d a b .zero s

/-- IMUL (08 R186). -/
def execImulExt (g : Grd) (ty : ITy) (sat : Bool) (d : Dst) (a b : Src) (s : State) : Out :=
  intOp g 0x11 ty sat (fun a b _ => a * b) d a b .zero s

/-- IADDC: a 32-bit sum with carry in and out (08 R187). -/
def execIaddc (g : Grd) (pen : Bool) (pd : Nat) (d : Dst) (a b c : Src) (s : State) : Out :=
  lanewise (useOf g 0x10 1 d [(1, a), (1, b), (1, c)]) s (fun x l =>
    let p := x.pois .w32 l a || x.pois .w32 l b || x.pois .w32 l c
    let r := addCarry (x.val .w32 l a) (x.val .w32 l b) (x.val .w32 l c % 2)
    { out32 d r.1 p with pr := if pen then [(pd, r.2, p)] else [] })

/-- IMULH (08 R186, base form R135). -/
def execImulh (d : Dst) (a b : Src) (s : State) : Out :=
  intOp Grd.always 0x11 tyU false (fun a b _ => mulHigh 32 a b) d a b .zero s

/-- IMULH (08 R186). -/
def execImulhExt (g : Grd) (ty : ITy) (d : Dst) (a b : Src) (s : State) : Out :=
  intOp g 0x11 ty false (fun a b _ => mulHigh (isizeBits ty.size) a b) d a b .zero s

/-- IMAD (08 R186). -/
def execImad (g : Grd) (ty : ITy) (sat : Bool) (d : Dst) (a b c : Src) (s : State) : Out :=
  intOp g 0x12 ty sat (fun a b c => a * b + c) d a b c s

/-- IMADW: a 64-bit multiply-add (08 R187). -/
def execImadw (g : Grd) (sgn sat : Bool) (d : Dst) (a b c : Src) (s : State) : Out :=
  lanewise (useOf g 0x12 2 d [(1, a), (1, b), (2, c)]) s (fun x l =>
    out64 d (wide sgn sat (ext 32 sgn (x.val .w32 l a) * ext 32 sgn (x.val .w32 l b) + ext 64 sgn (x.val .w64 l c)))
      (x.pois .w32 l a || x.pois .w32 l b || x.pois .w64 l c))

/-- IMIN (08 R186, base form R135). -/
def execImin (d : Dst) (a b : Src) (s : State) : Out :=
  intOp Grd.always 0x13 tyU false (fun a b _ => imin2 a b) d a b .zero s

/-- IMIN (08 R186). -/
def execIminExt (g : Grd) (ty : ITy) (d : Dst) (a b : Src) (s : State) : Out :=
  intOp g 0x13 ty false (fun a b _ => imin2 a b) d a b .zero s

/-- IMAX (08 R186, base form R135). -/
def execImax (d : Dst) (a b : Src) (s : State) : Out :=
  intOp Grd.always 0x13 tyU false (fun a b _ => imax2 a b) d a b .zero s

/-- IMAX (08 R186). -/
def execImaxExt (g : Grd) (ty : ITy) (d : Dst) (a b : Src) (s : State) : Out :=
  intOp g 0x13 ty false (fun a b _ => imax2 a b) d a b .zero s

/-- IABS.s.b32, the one base form that is signed (08 R186, 06 R135). -/
def execIabs (d : Dst) (a : Src) (s : State) : Out :=
  intOp Grd.always 0x14 tyS false (fun a _ _ => (a.natAbs : Int)) d a .zero .zero s

/-- IABS (08 R186). -/
def execIabsExt (g : Grd) (ty : ITy) (sat : Bool) (d : Dst) (a : Src) (s : State) : Out :=
  intOp g 0x14 ty sat (fun a _ _ => (a.natAbs : Int)) d a .zero .zero s

/-- INEG (08 R186, base form R135). -/
def execIneg (d : Dst) (a : Src) (s : State) : Out :=
  intOp Grd.always 0x14 tyU false (fun a _ _ => -a) d a .zero .zero s

/-- INEG (08 R186). -/
def execInegExt (g : Grd) (ty : ITy) (sat : Bool) (d : Dst) (a : Src) (s : State) : Out :=
  intOp g 0x14 ty sat (fun a _ _ => -a) d a .zero .zero s

/-- AND (08 R188, base form R135). -/
def execAnd (d : Dst) (a b : Src) (s : State) : Out :=
  wordOp Grd.always 0x15 (fun a b _ => Nat.land a b) d a b .zero s

/-- AND (08 R188). -/
def execAndExt (g : Grd) (d : Dst) (a b : Src) (s : State) : Out :=
  wordOp g 0x15 (fun a b _ => Nat.land a b) d a b .zero s

/-- OR (08 R188, base form R135). -/
def execOr (d : Dst) (a b : Src) (s : State) : Out :=
  wordOp Grd.always 0x15 (fun a b _ => Nat.lor a b) d a b .zero s

/-- OR (08 R188). -/
def execOrExt (g : Grd) (d : Dst) (a b : Src) (s : State) : Out :=
  wordOp g 0x15 (fun a b _ => Nat.lor a b) d a b .zero s

/-- XOR (08 R188, base form R135). -/
def execXor (d : Dst) (a b : Src) (s : State) : Out :=
  wordOp Grd.always 0x15 (fun a b _ => Nat.xor a b) d a b .zero s

/-- XOR (08 R188). -/
def execXorExt (g : Grd) (d : Dst) (a b : Src) (s : State) : Out :=
  wordOp g 0x15 (fun a b _ => Nat.xor a b) d a b .zero s

/-- ANDN (08 R188, base form R135). -/
def execAndn (d : Dst) (a b : Src) (s : State) : Out :=
  wordOp Grd.always 0x15 (fun a b _ => Nat.land a (Nat.xor b (2 ^ 32 - 1))) d a b .zero s

/-- ANDN (08 R188). -/
def execAndnExt (g : Grd) (d : Dst) (a b : Src) (s : State) : Out :=
  wordOp g 0x15 (fun a b _ => Nat.land a (Nat.xor b (2 ^ 32 - 1))) d a b .zero s

/-- NOT (08 R188, base form R135). -/
def execNot (d : Dst) (a : Src) (s : State) : Out :=
  wordOp Grd.always 0x16 (fun a _ _ => Nat.xor a (2 ^ 32 - 1)) d a .zero .zero s

/-- NOT (08 R188). -/
def execNotExt (g : Grd) (d : Dst) (a : Src) (s : State) : Out :=
  wordOp g 0x16 (fun a _ _ => Nat.xor a (2 ^ 32 - 1)) d a .zero .zero s

/-- SHL (08 R188, base form R135). -/
def execShl (d : Dst) (a b : Src) (s : State) : Out :=
  shiftOp Grd.always 0x17 .w32 shlE d a b s

/-- SHL (08 R188). -/
def execShlExt (g : Grd) (sz : ISize) (d : Dst) (a b : Src) (s : State) : Out :=
  shiftOp g 0x17 sz shlE d a b s

/-- SHR (08 R188, base form R135). -/
def execShr (d : Dst) (a b : Src) (s : State) : Out :=
  shiftOp Grd.always 0x17 .w32 shrE d a b s

/-- SHR (08 R188). -/
def execShrExt (g : Grd) (sz : ISize) (d : Dst) (a b : Src) (s : State) : Out :=
  shiftOp g 0x17 sz shrE d a b s

/-- SAR (08 R188, base form R135). -/
def execSar (d : Dst) (a b : Src) (s : State) : Out :=
  shiftOp Grd.always 0x17 .w32 sarE d a b s

/-- SAR (08 R188). -/
def execSarExt (g : Grd) (sz : ISize) (d : Dst) (a b : Src) (s : State) : Out :=
  shiftOp g 0x17 sz sarE d a b s

/-- SHF (08 R188). -/
def execShf (g : Grd) (r : Bool) (d : Dst) (a b c : Src) (s : State) : Out :=
  wordOp g 0x18 (shfVal r) d a b c s

/-- ROT.l (08 R188, base form R135). -/
def execRot (d : Dst) (a b : Src) (s : State) : Out :=
  shiftOp Grd.always 0x18 .w32 (rotE false) d a b s

/-- ROT (08 R188). -/
def execRotExt (g : Grd) (sz : ISize) (r : Bool) (d : Dst) (a b : Src) (s : State) : Out :=
  shiftOp g 0x18 sz (rotE r) d a b s

/-- BFE (08 R189). -/
def execBfe (g : Grd) (sgn : Bool) (d : Dst) (a b : Src) (s : State) : Out :=
  wordOp g 0x19 (fun a b _ => bfeVal sgn a b) d a b .zero s

/-- BFI (08 R189). -/
def execBfi (g : Grd) (d : Dst) (a b c : Src) (s : State) : Out :=
  wordOp g 0x19 bfiVal d a b c s

/-- POPC (08 R189, base form R135). -/
def execPopc (d : Dst) (a : Src) (s : State) : Out :=
  wordOp Grd.always 0x1a (fun a _ _ => popcVal a) d a .zero .zero s

/-- POPC (08 R189). -/
def execPopcExt (g : Grd) (d : Dst) (a : Src) (s : State) : Out :=
  wordOp g 0x1a (fun a _ _ => popcVal a) d a .zero .zero s

/-- CLZ (08 R189, base form R135). -/
def execClz (d : Dst) (a : Src) (s : State) : Out :=
  wordOp Grd.always 0x1a (fun a _ _ => clzVal a) d a .zero .zero s

/-- CLZ (08 R189). -/
def execClzExt (g : Grd) (d : Dst) (a : Src) (s : State) : Out :=
  wordOp g 0x1a (fun a _ _ => clzVal a) d a .zero .zero s

/-- CTZ (08 R189, base form R135). -/
def execCtz (d : Dst) (a : Src) (s : State) : Out :=
  wordOp Grd.always 0x1a (fun a _ _ => ctzVal a) d a .zero .zero s

/-- CTZ (08 R189). -/
def execCtzExt (g : Grd) (d : Dst) (a : Src) (s : State) : Out :=
  wordOp g 0x1a (fun a _ _ => ctzVal a) d a .zero .zero s

/-- BREV (08 R189, base form R135). -/
def execBrev (d : Dst) (a : Src) (s : State) : Out :=
  wordOp Grd.always 0x1a (fun a _ _ => brevVal a) d a .zero .zero s

/-- BREV (08 R189). -/
def execBrevExt (g : Grd) (d : Dst) (a : Src) (s : State) : Out :=
  wordOp g 0x1a (fun a _ _ => brevVal a) d a .zero .zero s

/-- BSEL (08 R189). -/
def execBsel (g : Grd) (d : Dst) (a b c : Src) (s : State) : Out :=
  wordOp g 0x1b bselVal d a b c s

/-- ISET (08 R190). -/
def execIset (g : Grd) (ty : ITy) (cc : ICc) (pen : Bool) (pd : Nat) (d : Dst) (a b : Src) (s : State) : Out :=
  let w := OW.packed ty.size
  lanewise (useOf g 0x1c 1 d [(1, a), (1, b)]) s (fun x l =>
    let p := x.pois w l a || x.pois w l b
    let v := isetVal ty cc (x.val w l a) (x.val w l b)
    { out32 d v p with pr := if pen then [(pd, v ≠ 0, p)] else [] })

/-- PSET: bit i of LUT (08 R190). -/
def execPset (g : Grd) (pd : Nat) (lut : Byte) (d : Dst) (a b c : Src) (s : State) : Out :=
  lanewise (useOf g 0x1d 1 d [(1, a), (1, b), (1, c)]) s (fun x l =>
    let p := x.pois .w32 l a || x.pois .w32 l b || x.pois .w32 l c
    let i := (if x.val .w32 l a ≠ 0 then 4 else 0) + (if x.val .w32 l b ≠ 0 then 2 else 0) + (if x.val .w32 l c ≠ 0 then 1 else 0)
    let v := bitN lut.toNat i
    { out32 d v.toNat p with pr := [(pd, v, p)] })

/-- SEL (08 R190). -/
def execSel (g : Grd) (d : Dst) (a b c : Src) (s : State) : Out :=
  wordOp g 0x1e (fun a b c => if c ≠ 0 then a else b) d a b c s

/-- MOV (08 R190, base form R135). -/
def execMov (d : Dst) (a : Src) (s : State) : Out :=
  wordOp Grd.always 0x1f (fun a _ _ => a) d a .zero .zero s

/-- MOV (08 R190). -/
def execMovExt (g : Grd) (d : Dst) (a : Src) (s : State) : Out :=
  wordOp g 0x1f (fun a _ _ => a) d a .zero .zero s

/-- The checks of a run-time index (08 R191): a lease violation, then an index trap of a window (06 R451) or of the index (23 R396); none when the
index is good. Where a register that the instruction names is past the seat and the index is bad too, the record is that of the window, and the lease
test takes as index what the model holds under the name of such an A (DESIGN CHOICE, log 43). A lane that traps on a poisoned index leaves s.psum as
it is: R396 gives such an instruction no effect in any lane (DEDUCED, log 43). -/
def Iss.indexCheck (x : Iss) (u : Use) (wins : List (Nat × Nat)) (a : Src) (base w : Nat) : Option State :=
  let idx (l : Nat) : Nat := x.val .w32 l a
  let out (l : Nat) : Bool := w ≤ idx l || x.seat ≤ base + idx l || x.pois .w32 l a
  let bad := x.ex.filter out
  let leased := x.ex.filter (fun l => !out l && (x.lane l).leases? [base + idx l])
  match leased, x.winTrap u wins, bad with
  | l :: _, _, _ => some (x.trap u 2 0 leased (base + idx l) u.major)
  | [], some t, _ => some t
  | [], none, l :: _ => some (x.trap u 3 0 bad (idx l) (base * 2 ^ 32 + w))
  | [], none, [] => none

/-- Use of an instruction with a run-time index, whose windows are checked with the index. -/
def Use.indexed (u : Use) : Use := { u with wins := [] }

/-- MOVX: v(base + index) to D (08 R191). -/
def execMovx (g : Grd) (d : Dst) (a : Src) (base w : Nat) (s : State) : Out :=
  let u := useOf g 0x20 1 d [(1, a)]
  issue u.indexed s (fun x =>
    match x.indexCheck u u.wins a base w with
    | some t => t
    | none => (x.commit (fun l =>
        let r := x.reg l (base + x.val .w32 l a)
        out32 d r.1.toNat r.2)).advance x.r)

/-- MOVXW: B to v(base + index); the value enters l0 (08 R191). -/
def execMovxw (g : Grd) (base : Nat) (a b : Src) (w : Nat) (s : State) : Out :=
  let u := useOf g 0x20 1 .none [(1, a), (1, b)]
  issue u.indexed s (fun x =>
    match x.indexCheck u u.wins a base w with
    | some t => t
    | none => (x.commit (fun l => out32 (.v (base + x.val .w32 l a)) (x.val .w32 l b) (x.pois .w32 l b))).advance x.r)

/-- LEA (08 R187). -/
def execLea (g : Grd) (sgn : Bool) (sh : Nat) (d : Dst) (a b : Src) (s : State) : Out :=
  lanewise (useOf g 0x21 2 d [(2, a), (1, b)]) s (fun x l =>
    out64 d (wrapNat 64 ((x.val .w64 l a : Int) + ext 32 sgn (x.val .w32 l b) * (2 ^ sh : Nat))) (x.pois .w64 l a || x.pois .w32 l b))

/-- The 64-bit sum of IADD64 (08 R187). -/
def add64Op (g : Grd) (sgn sat : Bool) (d : Dst) (a b : Src) (s : State) : Out :=
  lanewise (useOf g 0x22 2 d [(2, a), (2, b)]) s (fun x l =>
    out64 d (wide sgn sat (ext 64 sgn (x.val .w64 l a) + ext 64 sgn (x.val .w64 l b))) (x.pois .w64 l a || x.pois .w64 l b))

/-- IADD64 (08 R187, base form R135). -/
def execIadd64 (d : Dst) (a b : Src) (s : State) : Out := add64Op Grd.always false false d a b s

/-- IADD64 (08 R187). -/
def execIadd64Ext (g : Grd) (sgn sat : Bool) (d : Dst) (a b : Src) (s : State) : Out := add64Op g sgn sat d a b s

end Sys2Proof.Machine
end

