-- ==== Sys2Proof/Machine/Float.lean ====
section
/-! DEFINITION. Sys2Proof/Machine/Float.lean: the floating-point and conversion instructions (09). -/

namespace Sys2Proof.Machine

/-! ## The environment (09 R196) -/

/-- The mode an instruction rounds in, and one random word for each of its n elements. -/
structure FpIn where
  rm : Rnd
  ws : List Nat
  g : W32
  daz : Bool
  ftz : Bool
  satf : Bool

def Iss.fp (x : Iss) (r : Rnd) (n l : Nat) : FpIn :=
  let m := rndIn x.mode r
  let (ws, g) := draws m n (x.lane l).rng
  { rm := m, ws := ws, g := g, daz := modeDaz x.mode, ftz := modeFtz x.mode, satf := modeSatf x.mode }

/-- Word j of the environment. -/
def FpIn.r (e : FpIn) (j : Nat) : Nat := e.ws.getD j 0

/-- The value of an operand code after DAZ. -/
def FpIn.arg (e : FpIn) (f : FFmt) (x : Nat) : FV := f.value (f.flush e.daz x)

/-- A value rounded with random word j, then FTZ. -/
def FpIn.res (e : FpIn) (f : FFmt) (j : Nat) (sat : Bool) (v : FV) : Nat := f.flush e.ftz (f.round e.rm (e.r j) sat v)

/-! ## Operations of R197 and R198 -/

def fAddV (rm : Rnd) (a b _c : FV) : FV := FV.add (rm = .rdn) a b
def fSubV (rm : Rnd) (a b _c : FV) : FV := FV.add (rm = .rdn) a b.negate
def fMulV (_rm : Rnd) (a b _c : FV) : FV := FV.mul a b
/-- ±(a × b) ± c, not rounded in between. -/
def fMacV (np nc : Bool) (rm : Rnd) (a b c : FV) : FV :=
  FV.add (rm = .rdn) (if np then (FV.mul a b).negate else FV.mul a b) (if nc then c.negate else c)

/-- An FP32 instruction that rounds once (R197). -/
def fpOp (g : Grd) (major : Nat) (r : Rnd) (f : Rnd → FV → FV → FV → FV) (d : Dst) (a b c : Src) (s : State) : Out :=
  lanewise (useOf g major 1 d [(1, a), (1, b), (1, c)]) s (fun x l =>
    let e := x.fp r 1 l
    let v := f e.rm (e.arg f32 (x.val .w32 l a)) (e.arg f32 (x.val .w32 l b)) (e.arg f32 (x.val .w32 l c))
    { out32 d (e.res f32 0 false v) (x.pois .w32 l a || x.pois .w32 l b || x.pois .w32 l c) with rng := some e.g })

/-- An instruction that takes an FP32 value of 09 R198 or R201 without rounding words; `ftz` says whether FTZ applies. -/
def fpFun (g : Grd) (major : Nat) (ftz : Bool) (f : Nat → Nat → Nat) (d : Dst) (a b : Src) (s : State) : Out :=
  lanewise (useOf g major 1 d [(1, a), (1, b)]) s (fun x l =>
    let dz := modeDaz x.mode
    let v := f (f32.flush dz (x.val .w32 l a)) (f32.flush dz (x.val .w32 l b))
    out32 d (f32.flush (ftz && modeFtz x.mode) v) (x.pois .w32 l a || x.pois .w32 l b))

/-- FSQRT: correctly rounded in its mode. -/
def fsqrtOp (g : Grd) (r : Rnd) (d : Dst) (a : Src) (s : State) : Out :=
  lanewise (useOf g 0x35 1 d [(1, a)]) s (fun x l =>
    let e := x.fp r 1 l
    let v := fsqrtOf e.rm (e.r 0) (f32.flush e.daz (x.val .w32 l a))
    { out32 d (f32.flush e.ftz v) (x.pois .w32 l a) with rng := some e.g })

/-- The 16-bit format of SUB. -/
def halfFmt (bf : Bool) : FFmt := if bf then bf16 else f16

/-- Element j of a packed pair. -/
def half (j x : Nat) : Nat := x / 2 ^ (16 * j) % 65536

/-- A packed instruction that rounds each element once (R203). -/
def pairOp (g : Grd) (bf : Bool) (r : Rnd) (sat : Bool) (f : Rnd → FV → FV → FV → FV) (d : Dst) (a b c : Src) (s : State) : Out :=
  let w := OW.half bf
  let t := halfFmt bf
  lanewise (useOf g 0x38 1 d [(1, a), (1, b), (1, c)]) s (fun x l =>
    let e := x.fp r 2 l
    let v (j : Nat) : Nat := e.res t j sat (f e.rm (e.arg t (half j (x.val w l a))) (e.arg t (half j (x.val w l b))) (e.arg t (half j (x.val w l c))))
    { out32 d (v 0 + v 1 * 65536) (x.pois w l a || x.pois w l b || x.pois w l c) with rng := some e.g })

/-- HMIN2 and HMAX2 (R203, R198). -/
def pairMinMax (g : Grd) (bf mx : Bool) (d : Dst) (a b : Src) (s : State) : Out :=
  let w := OW.half bf
  let t := halfFmt bf
  lanewise (useOf g 0x39 1 d [(1, a), (1, b)]) s (fun x l =>
    let v (j : Nat) : Nat := t.minMax mx (t.flush (modeDaz x.mode) (half j (x.val w l a))) (t.flush (modeDaz x.mode) (half j (x.val w l b)))
    out32 d (v 0 + v 1 * 65536) (x.pois w l a || x.pois w l b))

/-! ## Meanings -/

/-- FADD (09 R197, base form R135). -/
def execFadd (d : Dst) (a b : Src) (s : State) : Out :=
  fpOp Grd.always 0x30 .mode fAddV d a b .zero s

/-- FADD (09 R197). -/
def execFaddExt (g : Grd) (r : Rnd) (d : Dst) (a b : Src) (s : State) : Out :=
  fpOp g 0x30 r fAddV d a b .zero s

/-- FSUB (09 R197, base form R135). -/
def execFsub (d : Dst) (a b : Src) (s : State) : Out :=
  fpOp Grd.always 0x30 .mode fSubV d a b .zero s

/-- FSUB (09 R197). -/
def execFsubExt (g : Grd) (r : Rnd) (d : Dst) (a b : Src) (s : State) : Out :=
  fpOp g 0x30 r fSubV d a b .zero s

/-- FMUL (09 R197, base form R135). -/
def execFmul (d : Dst) (a b : Src) (s : State) : Out :=
  fpOp Grd.always 0x30 .mode fMulV d a b .zero s

/-- FMUL (09 R197). -/
def execFmulExt (g : Grd) (r : Rnd) (d : Dst) (a b : Src) (s : State) : Out :=
  fpOp g 0x30 r fMulV d a b .zero s

/-- FMAC (09 R197). -/
def execFmac (g : Grd) (r : Rnd) (np nc : Bool) (d : Dst) (a b c : Src) (s : State) : Out :=
  fpOp g 0x31 r (fMacV np nc) d a b c s

/-- FMIN (09 R198, base form R135). -/
def execFmin (d : Dst) (a b : Src) (s : State) : Out :=
  fpFun Grd.always 0x32 false (f32.minMax false) d a b s

/-- FMIN (09 R198). -/
def execFminExt (g : Grd) (d : Dst) (a b : Src) (s : State) : Out :=
  fpFun g 0x32 false (f32.minMax false) d a b s

/-- FMAX (09 R198, base form R135). -/
def execFmax (d : Dst) (a b : Src) (s : State) : Out :=
  fpFun Grd.always 0x32 false (f32.minMax true) d a b s

/-- FMAX (09 R198). -/
def execFmaxExt (g : Grd) (d : Dst) (a b : Src) (s : State) : Out :=
  fpFun g 0x32 false (f32.minMax true) d a b s

/-- FSET (09 R199). -/
def execFset (g : Grd) (cc : FCc) (pen : Bool) (pd : Nat) (d : Dst) (a b : Src) (s : State) : Out :=
  lanewise (useOf g 0x33 1 d [(1, a), (1, b)]) s (fun x l =>
    let p := x.pois .w32 l a || x.pois .w32 l b
    let dz := modeDaz x.mode
    let t := fcHolds cc (f32.value (f32.flush dz (x.val .w32 l a))) (f32.value (f32.flush dz (x.val .w32 l b)))
    { out32 d (if t then 2 ^ 32 - 1 else 0) p with pr := if pen then [(pd, t, p)] else [] })

/-- FCLASS: A is read raw (09 R200). -/
def execFclass (g : Grd) (pen : Bool) (pd : Nat) (d : Dst) (a b : Src) (s : State) : Out :=
  lanewise (useOf g 0x34 1 d [(1, a), (1, b)]) s (fun x l =>
    let p := x.pois .w32 l a || x.pois .w32 l b
    let c := fclassOf (x.val .w32 l a)
    { out32 d c p with pr := if pen then [(pd, Nat.land c (x.val .w32 l b) ≠ 0, p)] else [] })

/-- FRCP, within the bound of Table 9.5 (09 R201, R202, base form R135; log 4). -/
def execFrcp (d : Dst) (a : Src) (s : State) : Out :=
  fpFun Grd.always 0x35 true (fun a _ => frcpOf a) d a .zero s

/-- FRCP, within the bound of Table 9.5 (09 R201, R202; log 4). -/
def execFrcpExt (g : Grd) (d : Dst) (a : Src) (s : State) : Out :=
  fpFun g 0x35 true (fun a _ => frcpOf a) d a .zero s

/-- FRSQ, within the bound of Table 9.5 (09 R201, R202, base form R135; log 4). -/
def execFrsq (d : Dst) (a : Src) (s : State) : Out :=
  fpFun Grd.always 0x35 true (fun a _ => frsqOf a) d a .zero s

/-- FRSQ, within the bound of Table 9.5 (09 R201, R202; log 4). -/
def execFrsqExt (g : Grd) (d : Dst) (a : Src) (s : State) : Out :=
  fpFun g 0x35 true (fun a _ => frsqOf a) d a .zero s

/-- FEXP2, within the bound of Table 9.5 (09 R201, R202, base form R135; log 4). -/
def execFexp2 (d : Dst) (a : Src) (s : State) : Out :=
  fpFun Grd.always 0x36 true (fun a _ => fexp2Of a) d a .zero s

/-- FEXP2, within the bound of Table 9.5 (09 R201, R202; log 4). -/
def execFexp2Ext (g : Grd) (d : Dst) (a : Src) (s : State) : Out :=
  fpFun g 0x36 true (fun a _ => fexp2Of a) d a .zero s

/-- FLOG2, within the bound of Table 9.5 (09 R201, R202, base form R135; log 4). -/
def execFlog2 (d : Dst) (a : Src) (s : State) : Out :=
  fpFun Grd.always 0x36 true (fun a _ => flog2Of a) d a .zero s

/-- FLOG2, within the bound of Table 9.5 (09 R201, R202; log 4). -/
def execFlog2Ext (g : Grd) (d : Dst) (a : Src) (s : State) : Out :=
  fpFun g 0x36 true (fun a _ => flog2Of a) d a .zero s

/-- FTANH, within the bound of Table 9.5 (09 R201, R202, base form R135; log 4). -/
def execFtanh (d : Dst) (a : Src) (s : State) : Out :=
  fpFun Grd.always 0x36 true (fun a _ => ftanhOf a) d a .zero s

/-- FTANH, within the bound of Table 9.5 (09 R201, R202; log 4). -/
def execFtanhExt (g : Grd) (d : Dst) (a : Src) (s : State) : Out :=
  fpFun g 0x36 true (fun a _ => ftanhOf a) d a .zero s

/-- FSIN, within the bound of Table 9.5 (09 R201, R202, base form R135; log 4). -/
def execFsin (d : Dst) (a : Src) (s : State) : Out :=
  fpFun Grd.always 0x37 true (fun a _ => ftrigOf false a) d a .zero s

/-- FSIN, within the bound of Table 9.5 (09 R201, R202; log 4). -/
def execFsinExt (g : Grd) (d : Dst) (a : Src) (s : State) : Out :=
  fpFun g 0x37 true (fun a _ => ftrigOf false a) d a .zero s

/-- FCOS, within the bound of Table 9.5 (09 R201, R202, base form R135; log 4). -/
def execFcos (d : Dst) (a : Src) (s : State) : Out :=
  fpFun Grd.always 0x37 true (fun a _ => ftrigOf true a) d a .zero s

/-- FCOS, within the bound of Table 9.5 (09 R201, R202; log 4). -/
def execFcosExt (g : Grd) (d : Dst) (a : Src) (s : State) : Out :=
  fpFun g 0x37 true (fun a _ => ftrigOf true a) d a .zero s

/-- FSQRT (09 R201, R202, base form R135). -/
def execFsqrt (d : Dst) (a : Src) (s : State) : Out :=
  fsqrtOp Grd.always .mode d a s

/-- FSQRT (09 R201, R202). -/
def execFsqrtExt (g : Grd) (r : Rnd) (d : Dst) (a : Src) (s : State) : Out :=
  fsqrtOp g r d a s

/-- HADD2.f16 (09 R203, base form R135). -/
def execHadd2 (d : Dst) (a b : Src) (s : State) : Out :=
  pairOp Grd.always false .mode false fAddV d a b .zero s

/-- HADD2; NEGB subtracts (09 R203). -/
def execHadd2Ext (g : Grd) (bf : Bool) (r : Rnd) (sat : Bool) (nb : Bool) (d : Dst) (a b : Src) (s : State) : Out :=
  pairOp g bf r sat (if nb then fSubV else fAddV) d a b .zero s

/-- HMUL2.f16 (09 R203, base form R135). -/
def execHmul2 (d : Dst) (a b : Src) (s : State) : Out :=
  pairOp Grd.always false .mode false fMulV d a b .zero s

/-- HMUL2 (09 R203). -/
def execHmul2Ext (g : Grd) (bf : Bool) (r : Rnd) (sat : Bool) (d : Dst) (a b : Src) (s : State) : Out :=
  pairOp g bf r sat fMulV d a b .zero s

/-- HFMA2 (09 R203). -/
def execHfma2 (g : Grd) (bf : Bool) (r : Rnd) (sat np nc : Bool) (d : Dst) (a b c : Src) (s : State) : Out :=
  pairOp g bf r sat (fMacV np nc) d a b c s

/-- HMIN2.f16 (09 R203, base form R135). -/
def execHmin2 (d : Dst) (a b : Src) (s : State) : Out :=
  pairMinMax Grd.always false false d a b s

/-- HMIN2 (09 R203). -/
def execHmin2Ext (g : Grd) (bf : Bool) (d : Dst) (a b : Src) (s : State) : Out :=
  pairMinMax g bf false d a b s

/-- HMAX2.f16 (09 R203, base form R135). -/
def execHmax2 (d : Dst) (a b : Src) (s : State) : Out :=
  pairMinMax Grd.always false true d a b s

/-- HMAX2 (09 R203). -/
def execHmax2Ext (g : Grd) (bf : Bool) (d : Dst) (a b : Src) (s : State) : Out :=
  pairMinMax g bf true d a b s

/-! ## Conversions (09 R204 to R206) -/

def vfmt : VFmt → FFmt
  | .f32 => f32 | .f16 => f16 | .bf16 => bf16

/-- The width a conversion source is read with. -/
def vfmtOW : VFmt → OW
  | .f32 => .w32 | .f16 => .half false | .bf16 => .half true

/-- The source code of a conversion: the word, or element HALF of the pair. -/
def srcCode (f : VFmt) (hi : Bool) (x : Nat) : Nat := if f = .f32 then x else half hi.toNat x

/-- F2I (09 R204). -/
def execF2i (g : Grd) (src : VFmt) (sgn w64 half : Bool) (r : Rnd) (d : Dst) (a : Src) (s : State) : Out :=
  let w := if w64 then 64 else 32
  lanewise (useOf g 0x3a (if w64 then 2 else 1) d [(1, a)]) s (fun x l =>
    let e := x.fp r 1 l
    let lo : Int := if sgn then -((2 ^ (w - 1) : Nat) : Int) else 0
    let hi : Int := if sgn then ((2 ^ (w - 1) - 1 : Nat) : Int) else ((2 ^ w - 1 : Nat) : Int)
    let n := floatToInt e.rm (e.r 0) lo hi (e.arg (vfmt src) (srcCode src half (x.val (vfmtOW src) l a)))
    let p := x.pois (vfmtOW src) l a
    { (if w64 then out64 d (wrapNat 64 n) p else out32 d (wrapNat 32 n) p) with rng := some e.g })

/-- I2F (09 R205). -/
def execI2f (g : Grd) (dst : VFmt) (sgn w64 : Bool) (r : Rnd) (sat : Bool) (d : Dst) (a : Src) (s : State) : Out :=
  let ow := if w64 then OW.w64 else OW.w32
  lanewise (useOf g 0x3a 1 d [(if w64 then 2 else 1, a)]) s (fun x l =>
    let e := x.fp r 1 l
    let n := ext (if w64 then 64 else 32) sgn (x.val ow l a)
    let v := e.res (vfmt dst) 0 (dst ≠ .f32 && (sat || e.satf)) (FV.ofInt n)
    { out32 d v (x.pois ow l a) with rng := some e.g })

/-- FCVT: FP32 to a pair, a pair to FP32, or a pair to a pair (09 R206). -/
def execFcvt (g : Grd) (dst src : VFmt) (half : Bool) (r : Rnd) (sat : Bool) (d : Dst) (a b : Src) (s : State) : Out :=
  let ow := vfmtOW src
  let n := if dst = .f32 then 1 else 2
  lanewise (useOf g 0x3b 1 d [(1, a), (1, b)]) s (fun x l =>
    let e := x.fp r n l
    let t := vfmt dst
    let conv (j y : Nat) : Nat := e.res t j (dst ≠ .f32 && (sat || e.satf)) (e.arg (vfmt src) y)
    let xa := x.val ow l a
    let v := if dst = .f32 then conv 0 (srcCode src half xa)
      else if src = .f32 then conv 0 xa + conv 1 (x.val .w32 l b) * 65536
      else conv 0 (Sys2Proof.Machine.half 0 xa) + conv 1 (Sys2Proof.Machine.half 1 xa) * 65536
    { out32 d v (x.pois ow l a || x.pois .w32 l b) with rng := some e.g })

/-! ## Narrow formats (09 R207 to R211) -/

/-- The descriptor in fmtF of the issuing kernel. -/
def Iss.fmt (x : Iss) (f : Nat) : Nat := (kGet 0 f x.ks.fmts).toNat

/-- fmtF where an instruction stands to issue. -/
def State.fmtNow (s : State) (f : Nat) : Nat := match s.look with | some x => x.fmt f | none => 0

/-- QSCALE: the block scale of R125 for fmtF (09 R208). -/
def execQscale (g : Grd) (f : Nat) (d : Dst) (a : Nat) (s : State) : Out :=
  let fm := s.fmtNow f
  let n := if nScale fm = 0 then 0 else blockLen fm
  lanewise { g := g, major := 0x3c, wins := dstWin 1 d ++ rngWin a n, keys := dstKeys 1 d ++ rngKeys a n } s (fun x l =>
    let rs := x.regs l a n
    let vs := rs.map (fun r => f32.value (f32.flush (modeDaz x.mode) r.1.toNat))
    out32 d (if n = 0 then 0 else blockScale fm vs) (rs.any Prod.snd))

/-- QPACK: four FP32 values to codes in byte containers (09 R209). -/
def execQpack (g : Grd) (f : Nat) (r : Rnd) (sat : Bool) (d : Dst) (a : Nat) (b : Src) (s : State) : Out :=
  let fm := s.fmtNow f
  let bs : List (Nat × Src) := if nScale fm = 0 then [] else [(1, b)]
  lanewise { g := g, major := 0x3d, wins := dstWin 1 d ++ rngWin a 4 ++ srcWin 1 b
             keys := dstKeys 1 d ++ rngKeys a 4 ++ bs.flatMap (fun y => srcKeys y.1 y.2) } s (fun x l =>
    let e := x.fp r 4 l
    let rs := x.regs l a 4
    let sb := x.val .w32 l b % 256
    let code (j : Nat) : Nat :=
      let v := e.arg f32 (rs.getD j (0, false)).1.toNat
      if nScale fm = 0 then nConvert fm e.rm (e.r j) (sat || e.satf) v else scaledCode fm e.rm (e.r j) sb v
    let w := code 0 + code 1 * 2 ^ 8 + code 2 * 2 ^ 16 + code 3 * 2 ^ 24
    { out32 d w (rs.any Prod.snd || (nScale fm ≠ 0 && x.pois .w32 l b)) with rng := some e.g })

/-- QUNPK: four codes to FP32, exactly (09 R210). -/
def execQunpk (g : Grd) (f d : Nat) (a b : Src) (s : State) : Out :=
  let fm := s.fmtNow f
  lanewise { g := g, major := 0x3d, wins := rngWin d 4 ++ srcWin 1 a ++ srcWin 1 b
             keys := rngKeys d 4 ++ srcKeys 1 a ++ (if nScale fm = 0 then [] else srcKeys 1 b) } s (fun x l =>
    let p := x.pois .w32 l a || (nScale fm ≠ 0 && x.pois .w32 l b)
    let val (j : Nat) : W32 :=
      let c := nValue fm (x.val .w32 l a / 2 ^ (8 * j) % 2 ^ nWidth fm)
      let sc := scaleValue fm (x.val .w32 l b % 256)
      let v := if nScale fm = 0 then c else if sc.isZero then FV.zero else if sc.isNan then FV.nan else FV.mul c sc
      BitVec.ofNat 32 (f32.round .rne 0 false v)
    { ws := (List.range 4).map (fun j => (d + j, val j, p)), slot := some ((val 0).setWidth 64, p), eats := p })

/-- PSPLIT: one plane of 32/p containers (09 R211). -/
def execPsplit (g : Grd) (f : Nat) (pl : Plane) (d : Dst) (a : Nat) (s : State) : Out :=
  let p := planeWidth pl
  let n := 8 / p
  let fm := s.fmtNow f
  lanewise { g := g, major := 0x3e, wins := dstWin 1 d ++ rngWin a n, keys := dstKeys 1 d ++ rngKeys a n } s (fun x l =>
    let rs := x.regs l a n
    let v := match planeOff pl (nWidth fm) with
      | none => 0
      | some off => ((List.range (32 / p)).map (fun e =>
          let code := (rs.getD (e / 4) (0, false)).1.toNat / 2 ^ (8 * (e % 4)) % 256
          code / 2 ^ off % 2 ^ p * 2 ^ (p * e))).foldl (· + ·) 0
    out32 d v (rs.any Prod.snd))

/-- PJOIN: four elements of one plane into containers (09 R211). -/
def execPjoin (g : Grd) (f : Nat) (pl : Plane) (grp : Nat) (d : Dst) (a b : Src) (s : State) : Out :=
  let p := planeWidth pl
  let fm := s.fmtNow f
  wordOp g 0x3e (fun a b _ => match planeOff pl (nWidth fm) with
    | none => b
    | some off => (List.range 4).foldl (fun acc i =>
        let fieldMask := (2 ^ p - 1) * 2 ^ (8 * i + off)
        Nat.lor (Nat.land acc (Nat.xor fieldMask (2 ^ 32 - 1))) (a / 2 ^ (p * (4 * grp + i)) % 2 ^ p * 2 ^ (8 * i + off))) b) d a b .zero s

/-- SETFMT: the descriptor of the lowest executing lane to fmtF of the kernel in its hand; an illegal one is a
system-operand trap (09 R207, 23 R397). -/
def execSetfmt (g : Grd) (f : Nat) (b : Src) (s : State) : Out :=
  let u := useOf g 0x3f 1 .none [(1, b)]
  issue u s (fun x =>
    match x.ex with
    | [] => x.s.advance x.r
    | l :: _ =>
      let v := x.val .w32 l b
      x.control (if x.pois .w32 l b then [l] else [])
        (if nLegal v then
          (x.s.modHand x.h (fun d => { d with sets := kSet x.u.kern { x.ks with fmts := kPut 0 f (BitVec.ofNat 32 v) x.ks.fmts } d.sets })).advance x.r
        else x.trap u 7 0 [l] v f))

end Sys2Proof.Machine
end

