-- ==== Sys2Proof/Machine/Access.lean ====
section
/-! DEFINITION. Sys2Proof/Machine/Access.lean: lane accesses: how each is formed, checked and requested at issue, how it takes
its place at its home, and how it completes (04 R84 to R104, 11 R227 to R241, 16 R330 to R337, 24 R407 to R412, R422). -/

namespace Sys2Proof.Machine

/-! ## Continuations woken at a home (03 R78) -/

/-- Insertion into a core's continuation queue after every earlier one. -/
def State.queueCont (s : State) (c : CoreRef) (k : Cont) : State := s.modCore c (fun x => { x with contq := x.contq ++ [k] })

/-- Wait records of a list by rising kernel and item. -/
def insWait (w : WaitRec) : List WaitRec → List WaitRec
  | [] => [w]
  | v :: vs => if w.cont.kern < v.cont.kern ∨ (w.cont.kern = v.cont.kern ∧ w.cont.item ≤ v.cont.item) then w :: v :: vs else v :: insWait w vs

/-- Every wait record of an event word whose target is at or below its new value is freed and its continuation queued; the
event at time p precedes what they do. -/
def State.wakeWaits (s : State) (pa new p : Nat) : State :=
  let hit := fun (w : WaitRec) => w.pa = pa && decide (w.target ≤ new)
  let ws := (s.waitRecs.filter hit).foldr insWait []
  ws.foldl (fun a w => a.queueCont w.core { w.cont with pts := maxN w.cont.pts p }) { s with waitRecs := s.waitRecs.filter (fun w => !hit w) }

/-- An addition to an event word by a lane, an engine, a peer or the device. -/
def State.eventAdd (s : State) (pts pa : Nat) (add : Nat) (pois : Bool) (f : From) : State × Nat :=
  let new := (s.mem64 pa + add) % 2 ^ 64
  let (s1, p) := s.homeWrite pts pa (bytesOf 8 new) (pois || s.memPois pa 8) f
  (s1.wakeWaits pa new p, p)

/-! ## Atomic operations (11 Table 11.4) -/

/-- The new value of a location of w bits. -/
def atomNew (op : AtomOp) (w old b : Nat) (e : FEnv) : Nat :=
  let f (t : FFmt) (r x y : Nat) : Nat :=
    t.flush e.ftz (t.round e.rnd r false (FV.add (e.rnd = .rdn) (t.value (t.flush e.daz x)) (t.value (t.flush e.daz y))))
  match op with
  | .xchg => b
  | .add => (old + b) % 2 ^ w
  | .minz => if old ≤ b then old else b
  | .mins => if sext w old ≤ sext w b then old else b
  | .maxz => if old ≤ b then b else old
  | .maxs => if sext w old ≤ sext w b then b else old
  | .and => Nat.land old b
  | .or => Nat.lor old b
  | .xor => Nat.xor old b
  | .incw => if b ≤ old then 0 else old + 1
  | .fadd => f f32 e.r0.toNat old b
  | .fmin => f32.minMax false (f32.flush e.daz old) (f32.flush e.daz b)
  | .fmax => f32.minMax true (f32.flush e.daz old) (f32.flush e.daz b)
  | .bfadd2 => f bf16 e.r0.toNat (half 0 old) (half 0 b) + f bf16 e.r1.toNat (half 1 old) (half 1 b) * 65536

def AccKind.isAtomic : AccKind → Bool
  | .atomic _ _ _ | .cas _ _ | .evadd _ => true
  | _ => false
def AccKind.isStore : AccKind → Bool
  | .store => true
  | _ => false
/-- The kind writes, when its present stage is performed. -/
def AccKind.writes (k : AccKind) : Bool := k.isAtomic || k.isStore

/-- What an access needs of its page and segment. -/
def Access.need (a : Access) : Need :=
  match a.kind with
  | .load _ => { rd := true, wr := false, pl := a.pl }
  | .store => { rd := false, wr := true, pl := a.pl }
  | .movsIn _ => { rd := true, wr := false, pl := a.pl }
  | .movsOut _ => { rd := false, wr := true, pl := a.pl }
  | _ => { rd := true, wr := true, pl := a.pl }

/-- ACC of a fault record. -/
def Need.acc (n : Need) : Nat := if n.rd && n.wr then 2 else if n.wr then 1 else 0

/-- The policy in effect under a page's ceiling (04 R86). -/
def polIn (p : Pol) (ceil : Nat) : Pol :=
  if ceil = 2 then .stream else if ceil = 1 then (if p = .core then .shared else p) else p

/-! ## When a request may be performed -/

/-- The lines (64-byte units) an access of a request touches in its present stage, and whether they lie in the scratchpad. -/
def Req.place (r : Req) : Bool × Nat :=
  match r.acc.kind with
  | .movsOut sc => (true, sc)
  | _ => (r.acc.sc, r.pa)

/-- The bytes that a request writes, or will write in its second stage: whether they lie in the scratchpad, and where. -/
def Req.target (r : Req) : Option (Bool × Nat) :=
  match r.acc.kind with
  | .store => some (r.acc.sc, r.pa)
  | .movsIn sc => some (true, sc)
  | .movsOut _ => some (r.acc.sc, r.pa)
  | _ => none

/-- Whether a request of a lower lane of the same instruction, which writes some of the same bytes, is still on its way (04 R91). -/
def State.lowerFirst (s : State) (id : Nat) (r : Req) : Bool :=
  s.reqs.any (fun e => decide (e.1 < id) && e.2.op = r.op && (match e.2.target with
    | some t => t.1 = r.acc.sc && overlaps t.2 e.2.acc.len r.pa r.acc.len
    | none => false))

/-- Whether a load of a request would be served by a live copy. -/
def State.copied (s : State) (r : Req) : Bool :=
  !r.acc.sc && (s.copyFor r.h.cr (lineOf r.pa) r.pol r.repl (s.ptsOf r.h r.gen r.pts)).isSome

/-- A request may be performed: nothing of its item stands before it, no lower lane of its instruction that writes the same
bytes does, and no claim bars it; a load with a live copy returns the old value while a claim is held (04 R100). -/
def State.reqReady (s : State) (id : Nat) (r : Req) : Bool :=
  let (sc, a) := r.place
  let w := r.acc.kind.writes
  !r.parked && !s.itemBusy r.ctx r.kern r.item id && !(w && s.lowerFirst id r)
    && (!s.claimBars (if sc then .sc else .mem) r.h.cr (a / 64) w || (!w && !sc && s.copied r))

/-! ## Arrivals -/

def State.dropReq (s : State) (id : Nat) : State := { s with reqs := kErase id s.reqs }

/-- Register words of a value of n bytes. -/
def wordsOf (dst : List Nat) (bs : List Byte) (sx p : Bool) : List (Nat × W32 × Bool) :=
  let v := ofBytes bs
  let v1 := if sx then wrapNat 32 (sext (8 * bs.length) v) else v
  dst.mapIdx (fun i k => (k, BitVec.ofNat 32 (v1 / 2 ^ (32 * i)), p))

/-- The fault record fields of a request. -/
def State.reqRec (s : State) (r : Req) : FaultRec :=
  let su := match (s.lane r.h r.lane).st with | .active n => n | _ => 0
  { kind := 0, req := 0, acc := r.acc.need.acc, fdie := r.h.die, va := r.acc.addr, item := r.item
    who := whoWord r.kern r.gen (r.h.sr su) (s.kernD r.ctx r.kern).lrec.pl }

/-! ## Loads -/

/-- The load that a request makes. -/
def Req.ld (r : Req) : Ld := { h := r.h, gen := r.gen, late := r.pts, ctx := r.ctx, pol := r.pol, repl := r.repl }

/-- Who a request is at a home. -/
def Req.from_ (r : Req) : From := { ctx := r.ctx, die := r.h.die, repl := r.repl }

/-- A load's bytes with its poison, under the unpublished stores of its own core. Of the values that R104 permits a .c load, it returns the one
that a load of policy 0 would, with every unpublished store of its core over it, never an older one (DESIGN CHOICE, log 45). -/
def State.readMem (s : State) (r : Req) : List Byte × Bool × State :=
  let (bs, secs, s1) := s.loadLine r.ld r.pa r.acc.len
  let buf := (s.core r.h.cr).cbuf
  let c := decide (r.pol = .core)
  (overlay buf c r.pa bs, overlayPois buf c r.pa r.acc.len (!secs.isEmpty), s1.consumed r.ctx secs (s.reqRec r))

/-- A load, or the reading half of a MOVS, takes its place. -/
def State.performLoad (s : State) (id : Nat) (r : Req) : State :=
  let (sc, a) := r.place
  let (bs, p, s1) := if sc then (let x := (s.core r.h.cr).scRead a r.acc.len; (x.1, x.2, s)) else s.readMem r
  match r.acc.kind with
  | .movsIn sc => { s1 with reqs := kSet id { r with pa := sc, acc := { r.acc with kind := .store, sc := true, addr := sc, data := bs, pois := p } } s1.reqs }
  | .movsOut _ => { s1 with reqs := kSet id { r with acc := { r.acc with kind := .store, data := bs, pois := p } } s1.reqs }
  | .load sx => (s1.dropReq id).arrive r.op r.lane (wordsOf r.acc.dst bs sx p)
  | _ => s

/-! ## Writes at the home -/

/-- Whether a core has an unpublished store over some bytes. -/
def State.unpublished (s : State) (c : CoreRef) (pa n : Nat) : Bool :=
  (s.core c).cbuf.any (fun x => overlaps x.pa x.data.length pa n)

/-- The core's stores are published first when one of them lies under the bytes (04 R103). -/
def State.publishOver (s : State) (h : HandRef) (pa n : Nat) : State := if s.unpublished h.cr pa n then s.publish h else s

/-- A write of a core over bytes of its unpublished stores, under another policy (04 R104). -/
def Core.cover (c : Core) (pa n : Nat) : Core := { c with cbuf := c.cbuf.map (fun x => x.cover pa n) }

/-- Every hand of a core looks again. -/
def State.wakeCore (s : State) (c : CoreRef) : State := s.modCore c (fun x => { x with hands := x.hands.map (fun h => (h.1, h.2.wake)) })

/-- A .c store enters its core's L1, and is ordered in the core at once. An L1 full of .c data publishes it first (DESIGN CHOICE, log 62); a store that comes when its
item's table has ended is published with that end (04 R103). -/
def State.coreStore (s : State) (r : Req) : State :=
  let s0 := if (s.core r.h.cr).l1Full (lineOf r.pa) then s.publish r.h else s
  let s1 := (s0.modCore r.h.cr (fun c => { c.l1Room (lineOf r.pa) with cbuf := c.cbuf ++ [{ ctx := r.ctx, hand := r.h.hand, gen := r.gen, op := r.op, lane := r.lane, pa := r.pa,
                                                                                                   data := r.acc.data, pois := r.acc.pois, repl := r.repl }] })).wakeCore r.h.cr
  let k := s.kernD r.ctx r.kern
  if (kFind (r.item / k.lrec.fan1) k.tables).isSome then s1 else s1.publish r.h

/-- A store, or the writing half of a MOVS, takes its place. A .c store is ordered in its core at once, and completes when it is published
(11 Table 11.5). -/
def State.performStore (s : State) (id : Nat) (r : Req) : State :=
  let fin (t : State) : State := (t.dropReq id).arrive r.op r.lane []
  if r.acc.sc then fin (s.modCore r.h.cr (fun c => c.scWrite r.pa r.acc.data r.acc.pois))
  else if r.pol = .core then (s.coreStore r).dropReq id
  else
    let (s1, p) := s.homeWrite (s.ptsOf r.h r.gen r.pts) r.pa r.acc.data r.acc.pois r.from_
    fin (((s1.modCore r.h.cr (fun c => c.cover r.pa r.acc.data.length)).setPts r.h r.gen p).endAt r.ctx r.kern p)

/-- The new value of an atomic access over an old one. -/
def Access.newVal (a : Access) (old : Nat) : Nat :=
  match a.kind with
  | .atomic op b e => atomNew op (8 * a.len) old b.toNat e
  | .cas b c => if old = b.toNat then c.toNat else old
  | .evadd b => (old + b.toNat) % 2 ^ 64
  | _ => old

/-- One lane's atomic at its home: read, computed and written in one event. -/
def State.performAtomic1 (s : State) (id : Nat) (r : Req) : State :=
  let n := r.acc.len
  if r.acc.sc then
    let (bs, p) := (s.core r.h.cr).scRead r.pa n
    let s1 := s.modCore r.h.cr (fun c => c.scWrite r.pa (bytesOf n (r.acc.newVal (ofBytes bs))) (p || r.acc.pois))
    (s1.dropReq id).arrive r.op r.lane (wordsOf r.acc.dst bs false p)
  else
    let s0 := (s.publishOver r.h r.pa n).hold r.ctx (lineOf r.pa) (spanOf 16 r.pa n)
    let bs := s0.memRead r.pa n
    let secs := (spanOf 16 r.pa n).filter s0.secPois
    let p := !secs.isEmpty
    let new := r.acc.newVal (ofBytes bs)
    let (s1, t) := s0.homeWrite (s0.ptsOf r.h r.gen r.pts) r.pa (bytesOf n new) (p || r.acc.pois) r.from_
    let s2 := match r.acc.kind with | .evadd _ => s1.wakeWaits r.pa new t | _ => s1
    let s3 := ((s2.setPts r.h r.gen t).endAt r.ctx r.kern t).consumed r.ctx secs (s.reqRec r)
    (s3.dropReq id).arrive r.op r.lane (wordsOf r.acc.dst bs false p)

/-- The requests of one instruction's lanes that name the address of a request, rising. -/
def State.atomGroup (s : State) (r : Req) : List (Nat × Req) :=
  s.reqs.filter (fun e => e.2.op = r.op && e.2.acc.sc = r.acc.sc && e.2.pa = r.pa)

/-- The atomics of one instruction on one address stand consecutively in ascending lane order (04 R91). -/
def State.performAtomic (s : State) (r : Req) : State := (s.atomGroup r).foldl (fun a e => a.performAtomic1 e.1 e.2) s

/-- A publication of a core waits while an engine operation holds a line that it writes (04 R100). -/
def State.pubBars (s : State) (c : CoreRef) : Bool := (s.core c).cbuf.any (fun x => s.claimBars .mem c (lineOf x.pa) true)

/-- A group is ready when every member is, and what it publishes first can be. -/
def State.groupReady (s : State) (r : Req) : Bool :=
  (s.atomGroup r).all (fun e => !e.2.parked && !s.itemBusy e.2.ctx e.2.kern e.2.item e.1) &&
    !s.claimBars (if r.acc.sc then .sc else .mem) r.h.cr (r.pa / 64) true &&
    (r.acc.sc || !s.unpublished r.h.cr r.pa r.acc.len || !s.pubBars r.h.cr)

/-! ## Translations whose lease has ended (16 R327) -/

/-- The lines of the page-table entries of a request's page. -/
def State.entLines (s : State) (r : Req) : List Nat := (s.entsOf r.ctx r.acc.addr).map lineOf

/-- The logical time at which a request would stand. -/
def State.reqTime (s : State) (r : Req) : Nat :=
  let p := s.ptsOf r.h r.gen r.pts
  if r.acc.kind.writes && r.pol ≠ .core then s.writeTime p [lineOf r.pa]
  else if r.acc.kind.writes || s.copied r then p
  else maxN p (s.lineTs (lineOf r.pa)).wts

/-- Whether a request stands within the lease of its translation. A write of an entry of its own page's walk ends that lease, and follows the access. -/
def State.covered (s : State) (r : Req) : Bool :=
  r.place.1 || (decide (s.clk ≤ r.till) && (decide (s.reqTime r ≤ r.upTo) ||
    (decide (s.ptsOf r.h r.gen r.pts ≤ r.upTo) && (s.entLines r).contains (lineOf r.pa))))

/-- A replayable fault of a lane or of the retry of one: address, level, entry and record. -/
abbrev Park := Nat × Nat × Nat × FaultRec

/-- Replayable faults that arrive together, in ascending lane (25 R429): each granule's are counted together. -/
def State.parkAll (s : State) (ctx : Nat) : Nat → List Park → State
  | 0, _ => s
  | _ + 1, [] => s
  | n + 1, p :: ps =>
    let b := (granBits p.2.1).1
    let same (q : Park) : Bool := (granBits q.2.1).1 = b && q.1 % 2 ^ 57 / 2 ^ b = p.1 % 2 ^ 57 / 2 ^ b
    (s.replayables ctx p.1 p.2.1 p.2.2.1 (1 + (ps.filter same).length) p.2.2.2).parkAll ctx n (ps.filter (fun q => !same q))

/-- A request whose translation's lease has ended translates again, no earlier than the time at which it would stand; with the fault, when it faults
replayably. -/
def State.renew (s : State) (id : Nat) (r : Req) : State × List Park :=
  let s0 := s.setPts r.h r.gen (s.reqTime r)
  let put (t : State) (q : Req) : State := { t with reqs := kSet id { q with pts := maxN q.pts (s.reqTime r) } t.reqs }
  match s0.translate r.h r.gen r.ctx r.acc.need r.acc.addr (maxN r.pts (s.reqTime r)) with
  | (.hit pa c rp lo, t) =>
    let l := t.leaseAt r.h.cr r.ctx r.acc.addr
    (put (t.mark r.ctx pa lo) { r with pa := pa, pol := if r.acc.kind.isAtomic then .shared else polIn r.acc.pol c, repl := rp, upTo := l.1, till := l.2, parked := false }, [])
  | (.miss lv en, t) => (put t { r with parked := true }, [(r.acc.addr, lv, en, { s.reqRec r with kind := 1, va := 0 })])
  | (.fatal rs, t) =>
    ((t.dropReq id).halt r.ctx 0x22 { kind := 0x22, code := rs, cmask := [r.lane], item := r.item, who := (s.reqRec r).who, arg0 := r.acc.addr, die := r.h.die }, [])
  | (.busy, t) => (t, [])

/-- The same for one request alone. -/
def State.renew1 (s : State) (id : Nat) (r : Req) : State := let x := s.renew id r; x.1.parkAll r.ctx x.2.length x.2

/-- The generation that operations, requests and claims of a saved hand carry: no hand has it (15 R319, 24 R427). -/
def swappedGen : Nat := 256

/-- A group of atomics performed, once every member stands within the lease of its translation. -/
def State.goAtomic (s : State) (r : Req) : State :=
  match (s.atomGroup r).find? (fun e => !s.covered e.2) with
  | some e => s.renew1 e.1 e.2
  | none => s.performAtomic r

/-- A request performed, when it may be; those of a saved hand wait for its restore. One whose translation's lease has ended translates again first. -/
def State.perform (s : State) (id : Nat) (r : Req) : State :=
  if r.gen = swappedGen then s
  else State.wake (if r.acc.kind.isAtomic then (if s.groupReady r then s.goAtomic r else s)
    else if !s.reqReady id r then s
    else if !s.covered r then s.renew1 id r
    else if r.acc.kind.isStore then s.performStore id r else s.performLoad id r) r.h

/-- Whether a request is served inside its core, at its issue: a scratchpad access, a load with a live copy, a .c store. -/
def State.inCore (s : State) (r : Req) : Bool :=
  match r.acc.kind with
  | .load _ => r.acc.sc || s.copied r
  | .store => r.acc.sc || r.pol = .core
  | .movsIn _ | .movsOut _ => false
  | _ => r.acc.sc

/-! ## Issue of lane accesses (11 R227, R228) -/

/-- An access instruction: its checks, the segment and policy, the size, and the access of each lane. -/
structure MemI where
  u : Use
  ps : Bool
  m : MemOp
  n : Nat
  a : Src
  /-- segments it may name -/
  segOk : Seg → Bool := fun g => g ≠ .tl
  /-- kind, data, poison of the data, and the generator after -/
  lane : Iss → Nat → AccKind × List Byte × Bool × Option W32
  dst : List Nat := []
  /-- scratchpad operand of a MOVS -/
  sc : Option Src := none
  /-- the executing lanes become sealed (07 Table 7.3) -/
  seals : Bool := false

def Iss.off (x : Iss) (a : Src) (disp : BitVec 20) (l : Nat) : Nat :=
  wrapNat 64 ((x.val .w64 l a : Int) + sext 20 disp.toNat)

/-- Outcome of the checks of one lane. -/
inductive LaneGo where
  /-- physical address or scratchpad offset, policy, REPL, page size as a power of two -/
  | go (a : Access) (pa : Nat) (pol : Pol) (repl lo : Nat)
  | park (a : Access) (level entry : Nat)
  | stop (reason arg : Nat)

/-- Whether a range of a segment passes its LIMIT, whatever its rights (24 Table 24.1, CODE 1). -/
def Desc.over (d : Desc) (off len : Nat) : Bool := decide (d.limit < off + len) || decide (2 ^ 57 < d.base + off + len)

/-- The segment check and the translation of one access, with the state that the walk leaves. -/
def State.laneCheck (s : State) (x : Iss) (m : MemOp) (segOk : Seg → Bool) (a : Access) (off l : Nat) : LaneGo × State :=
  let nd := a.need
  let d := s.laneDesc x.h l x.u.kern m.seg
  match (if !segOk m.seg && !d.over off a.len then .error 2 else segCheck m.seg d nd off a.len : Except Nat Nat) with
  | .error r => (.stop r (d.base + off), s)
  | .ok va =>
    if m.seg = .sc then (.go { a with sc := true, addr := va } va .shared 0 0, s)
    else
      match s.translate x.h x.hd.gen x.ctx nd va with
      | (.hit pa c rp lo, t) => (.go { a with sc := false, addr := va } pa (if a.kind.isAtomic then .shared else polIn a.pol c) rp lo, t)
      | (.miss lv en, t) => (.park { a with sc := false, addr := va } lv en, t)
      | (.fatal r, t) => (.stop r va, t)
      | (.busy, t) => (.stop 0 va, t)

/-- The scratchpad offset of a MOVS in its core, checked. -/
def State.movsCheck (s : State) (x : Iss) (k : AccKind) (sc : Option Nat) (n l : Nat) : Except (Nat × Nat) AccKind :=
  match sc with
  | none => .ok k
  | some o =>
    let nd : Need := match k with
      | .movsIn _ => { rd := false, wr := true, pl := x.pl }
      | _ => { rd := true, wr := false, pl := x.pl }
    let d := s.laneDesc x.h l x.u.kern .sc
    match segCheck .sc d nd o n with
    | .error r => .error (r, d.base + o)
    | .ok va => .ok (match k with | .movsIn _ => .movsIn va | _ => .movsOut va)

/-- What the lanes of an instruction leave at issue. -/
structure Sent where
  s : State
  ops : List LaneOp := []
  ids : List Nat := []
  bad : List (Nat × Nat × Nat) := []
  parks : List Park := []

/-- The request with the lease of the translation that its core's buffer holds. -/
def Req.leased (r : Req) (s : State) : Req :=
  if r.acc.sc then r else let l := s.leaseAt r.h.cr r.ctx r.acc.addr; { r with upTo := l.1, till := l.2 }

/-- One lane of an access instruction sent. -/
def Iss.send (x : Iss) (i : MemI) (op : Nat) (t : Sent) (l : Nat) : Sent :=
  let (k, data, p, g) := i.lane x l
  let s0 := match g with | some w => t.s.modLane x.h l (fun ln => { ln with rng := w }) | none => t.s
  let s1 := if p then s0.consume x.h l else s0
  let off := x.off i.a i.m.disp l
  let it := x.item l
  match s1.movsCheck x k (i.sc.map (fun b => x.val .w32 l b)) i.n l with
  | .error (r, o) => { t with s := s1, ops := t.ops ++ [x.laneOp l 1 .pending], bad := t.bad ++ [(l, r, o)] }
  | .ok k1 =>
    let a : Access := { kind := k1, sc := false, addr := 0, len := i.n, pol := i.m.pol, dst := i.dst, data := data, pois := p, pl := x.pl }
    match s1.laneCheck x i.m i.segOk a off l with
    | (.stop r arg, s2) => { t with s := s2, ops := t.ops ++ [x.laneOp l 1 .pending], bad := t.bad ++ [(l, r, arg)] }
    | (.park b lv en, s2) =>
      { t with s := s2, ops := t.ops ++ [x.laneOp l 0 (.parked b)]
               parks := t.parks ++ [(b.addr, lv, en, { kind := 1, req := 0, acc := b.need.acc, fdie := x.r.die, item := it.item, who := s1.whoOf x.r x.u.kern })] }
    | (.go b pa pol repl lo, s3) =>
      let s2 := if b.sc then s3 else s3.mark x.ctx pa lo
      let id := s2.nextReq
      let r : Req := { op := op, lane := l, h := x.h, gen := x.hd.gen, ctx := x.ctx, kern := it.kern, item := it.item, acc := b, pa := pa, pol := pol, repl := repl }
      { t with s := { s2 with nextReq := id + 1, reqs := kSet id (r.leased s2) s2.reqs }, ops := t.ops ++ [x.laneOp l 1 .pending], ids := t.ids ++ [id] }

/-- Requests served inside the core are performed at once. -/
def State.serve (s : State) (ids : List Nat) : State :=
  ids.foldl (fun a id => match kFind id a.reqs with
    | some r => if a.inCore r then a.perform id r else a
    | none => a) s

/-- The halt of the lanes whose access is fatal (24 R407). -/
def State.haltLanes (s : State) (x : Iss) (bad : List (Nat × Nat × Nat)) : State :=
  match bad with
  | [] => s
  | (_, r, arg) :: _ => s.halt x.ctx 0x22 (x.s.trapRec x.r 0x22 r x.u.pos.pc (bad.map Prod.fst) [] arg 0)

/-- A misaligned lane: its place in the list, and whether the scratchpad offset is the one that fails. -/
def Iss.misaligned (x : Iss) (i : MemI) : List (Nat × Nat × Bool) :=
  (x.ex.map (fun l => (l, x.off i.a i.m.disp l, (i.sc.map (fun b => x.val .w32 l b)).getD 0))).filterMap (fun (l, o, c) =>
    if o % i.n ≠ 0 then some (l, o, false) else if c % i.n ≠ 0 then some (l, c, true) else none)

/-- An access instruction that no check has turned away. -/
def Iss.access (x : Iss) (i : MemI) : State :=
  x.control (x.ex.filter (fun l => x.pois .w64 l i.a || (match i.sc with | some b => x.pois .w32 l b | none => false)))
    (match x.misaligned i with
     | (l, o, sc) :: rest => x.trap i.u 4 i.n ((l, o, sc) :: rest |>.map Prod.fst) o (if sc then 1 else 0)
     | [] =>
       let op := x.s.nextOp
       let t := x.ex.foldl (x.send i op) { s := x.s }
       let s1 := (t.s.parkAll x.ctx t.parks.length t.parks).startOp x i.u.major i.ps t.ops .access x.ex.isEmpty
       let s2 := if x.ex.isEmpty then s1 else x.ex.foldl (fun a l => a.leaseRegs x.h l op i.dst) s1
       let s3 := if i.seals then s2.sealLanes x.h x.ex else s2
       (((s3.serve t.ids).advance x.r).haltLanes x t.bad))

def memIssue (i : MemI) (s : State) : Out := issue i.u s (fun x => x.access i)

/-! ## Rows of MDST (13 R278) -/

/-- What comes of a row of an access with more than one piece: sent, parked at a page, or fatal there. -/
inductive RowGo where
  | sent (s : State) (ids : List Nat)
  | park (s : State) (va level entry : Nat)
  | stop (s : State) (reason va : Nat)

/-- A run cut into pieces of 16 bytes: address and bytes. -/
def pieces16 (a : Nat) (bs : List Byte) : List (Nat × List Byte) :=
  (List.range (bs.length / 16)).map (fun i => (a + 16 * i, (bs.drop (16 * i)).take 16))

/-- The translation of every piece of a row, in order: physical address, policy, REPL and page size of each; or the first failure. -/
def State.rowXlate (s : State) (r : Req) : List (Nat × List Byte) → Except (Nat × Xl) (List (Nat × Pol × Nat × Nat)) × State
  | [] => (.ok [], s)
  | p :: ps =>
    match s.translate r.h r.gen r.ctx r.acc.need p.1 with
    | (.hit pa c rp lo, s1) =>
      let (e, s2) := s1.rowXlate r ps
      (e.map (fun l => (pa, polIn r.acc.pol c, rp, lo) :: l), s2)
    | (x, s1) => (.error (p.1, x), s1)

/-- A request put on its way. -/
def State.putReq (t : State × List Nat) (q : Req) : State × List Nat :=
  ({ t.1 with nextReq := t.1.nextReq + 1, reqs := kSet t.1.nextReq q t.1.reqs }, t.2 ++ [t.1.nextReq])

/-- A store row sent as one request for each 16-byte piece, in ascending address; element i of `pz` is the poison of piece i. The
pieces start once the whole row translates (log 31). -/
def State.sendRow (s : State) (r : Req) (pz : List Bool) : RowGo :=
  let ps := pieces16 r.acc.addr r.acc.data
  let piece (i : Nat) (p : Nat × List Byte) : Access := { r.acc with addr := p.1, len := 16, data := p.2, pois := pz.getD i false }
  if r.acc.sc then
    let t := (ps.mapIdx (fun i p => { r with acc := piece i p, pa := p.1, pol := .shared, repl := 0 })).foldl State.putReq (s, [])
    .sent t.1 t.2
  else
    match s.rowXlate r ps with
    | (.error (va, .miss lv en), s1) => .park s1 va lv en
    | (.error (va, .fatal rs), s1) => .stop s1 rs va
    | (.error (va, .hit _ _ _ _), s1) | (.error (va, .busy), s1) => .stop s1 4 va
    | (.ok xs, s1) =>
      let t := (ps.zip xs).mapIdx (fun i e => (i, e)) |>.foldl (fun (t : State × List Nat) e =>
        State.putReq (t.1.mark r.ctx e.2.2.1 e.2.2.2.2.2, t.2)
          (Req.leased { r with acc := piece e.1 e.2.1, pa := e.2.2.1, pol := e.2.2.2.1, repl := e.2.2.2.2.1 } t.1)) (s1, [])
      .sent t.1 t.2

/-! ## Parked accesses tried again (24 R412) -/

/-- The retry of a parked access of one lane of an operation, with the fault, when it faults anew. -/
def State.retryAccess (s : State) (id lane : Nat) : State × List Park :=
  match kFind id s.ops with
  | none => (s, [])
  | some o =>
    match o.lanes.find? (fun x => x.lane = lane) with
    | none => (s, [])
    | some lo =>
      match lo.st with
      | .parked a =>
        let rec_ : FaultRec := { kind := 1, req := 0, acc := a.need.acc, fdie := o.h.die, item := lo.item, who := whoWord lo.kern o.gen (o.h.sr 0) a.pl }
        let r : Req := { op := id, lane := lane, h := o.h, gen := o.gen, ctx := o.ctx, kern := lo.kern, item := lo.item, acc := a, pa := 0, pol := a.pol, repl := 0 }
        let sent (t : State) (n : Nat) : State :=
          { t with ops := kSet id { o with lanes := o.lanes.map (fun x => if x.lane = lane then { x with st := .pending, due := n } else x) } t.ops }
        let stop (t : State) (rs va : Nat) : State :=
          t.halt o.ctx 0x22 { kind := 0x22, code := rs, cmask := [lane], item := lo.item, who := rec_.who, arg0 := va, die := o.h.die }
        if 16 < a.len then
          match s.sendRow r a.rowPois with
          | .sent t ids => (sent t ids.length, [])
          | .park t va lv en => (t, [(va, lv, en, rec_)])
          | .stop t rs va => (stop t rs va, [])
        else
        match s.translate o.h o.gen o.ctx a.need a.addr with
        | (.hit pa c rp pb, t) =>
          let t1 := State.putReq (t.mark o.ctx pa pb, []) (Req.leased { r with pa := pa, pol := if a.kind.isAtomic then .shared else polIn a.pol c, repl := rp } t)
          (sent t1.1 1, [])
        | (.miss lv en, t) => (t, [(a.addr, lv, en, rec_)])
        | (.fatal rs, t) => (stop t rs a.addr, [])
        | (.busy, t) => (t, [])
      | _ => (s, [])

/-! ## Completion (06 R153, R156) -/

/-- Whether a lane still holds the item of an operation's lane. -/
def State.holds (s : State) (o : Op) (x : LaneOp) : Bool :=
  s.sameGen o.h o.gen && (match (s.lane o.h x.lane).item with | some it => it.item = x.item && it.kern = x.kern | none => false)

/-- A Held-fault lane whose accesses have all completed becomes Held-ready. -/
def State.unhold (s : State) (h : HandRef) (l : Nat) : State :=
  let ln := s.lane h l
  match ln.item with
  | none => s
  | some it =>
    let gen := (s.hand h).gen
    let out := s.ops.any (fun e => e.2.h = h && e.2.gen = gen && (match e.2.kind with | .access | .remote _ _ | .launch _ _ _ _ | .deal _ _ _ _ _ _ => true | _ => false) && e.2.lanes.any (fun o =>
      o.lane = l && o.item = it.item && o.kern = it.kern && o.st ≠ .done))
    if ln.st = .heldFault .access ∧ !out then s.modLane h l (fun a => { a with st := .heldReady }) else s

/-- Whether what returns to a lane of an operation is dropped: the hand's tag no longer matches, its item has been killed or its lane rewound
alone, or the item has exited and another holds the lane (06 R156). -/
def State.drops (s : State) (o : Op) (x : LaneOp) : Bool :=
  !s.sameGen o.h o.gen || x.void || ((s.lane o.h x.lane).item.isSome && !s.holds o x)

/-- One arrived lane completes: its registers are written and its leases end, or the return is dropped. -/
def State.completeLane (s : State) (id : Nat) (o : Op) (x : LaneOp) (ws : List (Nat × W32 × Bool)) : State :=
  if s.drops o x then s.bump o.ctx 0x010 1
  else if s.holds o x then
    s.modLane o.h x.lane (fun l => { ws.foldl (fun (a : Lane) w => a.put w.1 w.2.1 w.2.2) l with leases := l.leases.filter (fun e => e.2 ≠ id) })
  else s

/-- Every arrived lane of an operation completes; with the last lane the operation does. -/
def State.complete (s : State) (id : Nat) (o : Op) : State :=
  let s1 := o.lanes.foldl (fun a x => match x.st with | .arrived ws => a.completeLane id o x ws | _ => a) s
  let lanes := o.lanes.map (fun x => match x.st with | .arrived _ => { x with st := LaneOpSt.done } | _ => x)
  let s2 := if lanes.all (fun x => x.st = .done) then
      (let s2 := { s1 with ops := kErase id s1.ops }; if s2.sameGen o.h o.gen then s2.pegDone o.h o.peg id else s2)
    else { s1 with ops := kSet id { o with lanes := lanes } s1.ops }
  let s3 := o.lanes.foldl (fun a x => match x.st with | .arrived _ => if a.holds o x then a.unhold o.h x.lane else a | _ => a) s2
  if s3.sameGen o.h o.gen then s3.wake o.h else s3

/-- Whether an operation can complete now, in some lane. -/
def Op.arrived (o : Op) : Bool := o.lanes.any (fun x => match x.st with | .arrived _ => true | _ => false)

/-! ## Events of the memory system -/

/-- HOME_LOAD: a load request reaches the line's home (04 R94). -/
def execHomeLoad (req : Nat) (s : State) : Out :=
  match kFind req s.reqs with
  | some r => .next (if r.acc.kind.writes then s else s.perform req r)
  | none => .next s

/-- HOME_WRITE: a write is applied at the home (04 R94). -/
def execHomeWrite (req : Nat) (s : State) : Out :=
  match kFind req s.reqs with
  | some r => .next (if r.acc.kind.isStore then s.perform req r else s)
  | none => .next s

/-- HOME_ATOMIC: an atomic, CAS, RED or EVADD is applied at the home (11 R231). -/
def execHomeAtomic (req : Nat) (s : State) : Out :=
  match kFind req s.reqs with
  | some r => .next (if r.acc.kind.isAtomic then s.perform req r else s)
  | none => .next s

/-- Whether 64 clocks have passed since a hand's logical time last advanced. -/
def Hand.ptsDue (hd : Hand) (clk : Nat) : Bool := hd.st ≠ .unformed && hd.st ≠ .swapped && decide (hd.ptsClk + 64 ≤ clk)

/-- PTS_TICK: the logical time of a formed hand advances by one tick every 64 clocks (04 R94). -/
def execPtsTick (h : HandRef) (s : State) : Out :=
  let hd := s.hand h
  .next (if hd.ptsDue s.clk then s.modHand h (fun d => { d with pts := d.pts + 1, ptsClk := d.ptsClk + 64 }) else s)

/-! ## The instructions (11) -/

/-- Bytes of a size. -/
def asizeBytes : ASize → Nat
  | .b8 => 1 | .b16 => 2 | .b32 => 4 | .b64 => 8 | .b128 => 16

/-- Registers of an n-wide operand. -/
def asizeRegs : ASize → Nat
  | .b64 => 2 | .b128 => 4 | _ => 1

/-- The value of an n-wide operand and its poison. -/
def Iss.nwide (x : Iss) (sz : ASize) (l : Nat) (b : Src) : Nat × Bool :=
  match sz with
  | .b64 => (x.val .w64 l b, x.pois .w64 l b)
  | .b128 =>
    let ws := (srcKeys 4 b).map (x.reg l)
    (ofBytes (ws.flatMap (fun w => bytesOf 4 w.1.toNat)), ws.any Prod.snd)
  | _ => (x.val .w32 l b, x.pois .w32 l b)

/-- The data of a store. -/
def Iss.stData (x : Iss) (sz : ASize) (l : Nat) (b : Src) : List Byte × Bool :=
  let (v, p) := x.nwide sz l b
  (bytesOf (asizeBytes sz) v, p)

def memUse (g : Grd) (major : Nat) (ps : Bool) (dn : Nat) (d : Dst) (srcs : List (Nat × Src)) : Use :=
  { useOf g major dn d srcs with peg := some ps, event := true }

/-- The rounding environment of a floating atomic, with the generator after: FADD draws one word, BFADD2 two. -/
def Iss.fenv (x : Iss) (op : AtomOp) (r : Rnd) (l : Nat) : FEnv × Option W32 :=
  let n := match op with | .fadd => 1 | .bfadd2 => 2 | _ => 0
  if n = 0 then ({ daz := modeDaz x.mode }, none)
  else
    let e := x.fp r n l
    ({ rnd := e.rm, r0 := BitVec.ofNat 32 (e.r 0), r1 := BitVec.ofNat 32 (e.r 1), daz := e.daz, ftz := e.ftz }, some e.g)

/-- LD (11 R230). -/
def execLd (g : Grd) (ps : Bool) (m : MemOp) (sz : ASize) (sx : Bool) (d : Dst) (a : Src) (s : State) : Out :=
  memIssue { u := memUse g 0x58 ps (asizeRegs sz) d [(2, a)], ps := ps, m := m, n := asizeBytes sz, a := a
             lane := fun _ _ => (.load sx, [], false, none), dst := dstKeys (asizeRegs sz) d } s

/-- ST (11 R230). -/
def execSt (g : Grd) (ps : Bool) (m : MemOp) (sz : ASize) (a b : Src) (s : State) : Out :=
  memIssue { u := memUse g 0x59 ps 0 .none [(2, a), (asizeRegs sz, b)], ps := ps, m := m, n := asizeBytes sz, a := a
             lane := fun x l => (.store, (x.stData sz l b).1, (x.stData sz l b).2, none) } s

/-- An ATOM or RED. -/
def atomI (g : Grd) (major : Nat) (ps : Bool) (m : MemOp) (op : AtomOp) (sz : ASize) (r : Rnd) (d : Dst) (a b : Src) : MemI :=
  { u := memUse g major ps (asizeRegs sz) d [(2, a), (asizeRegs sz, b)], ps := ps, m := m, n := asizeBytes sz, a := a
    lane := fun x l =>
      let (v, p) := x.nwide sz l b
      let (e, g) := x.fenv op r l
      (.atomic op (BitVec.ofNat 64 v) e, [], p, g)
    dst := dstKeys (asizeRegs sz) d, seals := true }

/-- ATOM (11 R232). -/
def execAtom (g : Grd) (ps : Bool) (m : MemOp) (op : AtomOp) (sz : ASize) (r : Rnd) (d : Dst) (a b : Src) (s : State) : Out :=
  memIssue (atomI g 0x5a ps m op sz r d a b) s

/-- RED: an atomic that never returns a value (11 R232). -/
def execRed (g : Grd) (ps : Bool) (m : MemOp) (op : AtomOp) (sz : ASize) (r : Rnd) (a b : Src) (s : State) : Out :=
  memIssue (atomI g 0x5c ps m op sz r .none a b) s

/-- CAS (11 R233). -/
def execCas (g : Grd) (ps : Bool) (m : MemOp) (sz : ASize) (d : Dst) (a b c : Src) (s : State) : Out :=
  let n := asizeRegs sz
  memIssue { u := memUse g 0x5b ps n d [(2, a), (n, b), (n, c)], ps := ps, m := m, n := asizeBytes sz, a := a
             lane := fun x l =>
               let (v, p) := x.nwide sz l b
               let (w, q) := x.nwide sz l c
               (.cas (BitVec.ofNat 64 v) (BitVec.ofNat 64 w), [], p || q, none)
             dst := dstKeys n d, seals := true } s

/-- EVADD (11 R234). -/
def execEvadd (g : Grd) (ps : Bool) (m : MemOp) (d : Dst) (a b : Src) (s : State) : Out :=
  memIssue { u := memUse g 0x5d ps 2 d [(2, a), (2, b)], ps := ps, m := m, n := 8, a := a
             segOk := fun g => g = .gl || g = .ep
             lane := fun x l => (.evadd (BitVec.ofNat 64 (x.val .w64 l b)), [], x.pois .w64 l b, none)
             dst := dstKeys 2 d, seals := true } s

/-- MOVS: between a segment and the lane's table allocation (11 R235). -/
def execMovs (g : Grd) (ps : Bool) (m : MemOp) (fromSc : Bool) (sz : ASize) (a b : Src) (s : State) : Out :=
  memIssue { u := memUse g 0x60 ps 0 .none [(2, a), (1, b)], ps := ps, m := m, n := asizeBytes sz, a := a
             lane := fun _ _ => (if fromSc then .movsOut 0 else .movsIn 0, [], false, none), sc := some b } s

/-- One lane of a prefetch: the copy it may install, in the L1 when `l1`, and in a replica where the degree allows one (11 R236). It moves the
logical time of its hand as the load of R94 does, and its check covers one byte (DESIGN CHOICE, log 46). -/
def Iss.prefetch (x : Iss) (m : MemOp) (l1 : Bool) (a : Src) (s : State) (l : Nat) : State :=
  let acc : Access := { kind := .load false, sc := false, addr := 0, len := 1, pol := m.pol, dst := [], pl := x.pl }
  match s.laneCheck x m (fun g => g ≠ .tl && g ≠ .sc) acc (x.off a m.disp l) l with
  | (.go _ pa p rp lo, s1) =>
    if s1.claimBars .mem x.h.cr (lineOf pa) false then s1
    else ((s1.mark x.ctx pa lo).loadCopy { h := x.h, gen := x.hd.gen, ctx := x.ctx, pol := p, repl := rp, l1 := l1 && p ≠ .stream } (lineOf pa * 64) 64).2
  | (_, s1) => s1

/-- PREF: a lane that would fault is dropped; .l2, and .l1 under policy 2, leave the L1 alone (11 R236). -/
def execPref (g : Grd) (m : MemOp) (l2 : Bool) (a : Src) (s : State) : Out :=
  issue (useOf g 0x5e 0 .none [(2, a)]) s (fun x =>
    x.control (x.ex.filter (fun l => x.pois .w64 l a))
      ((x.ex.foldl (x.prefetch m (!l2) a) x.s).advance x.r))

/-- An instruction that publishes waits while an engine operation holds a line that it would write (04 R100). -/
def Iss.published (x : Iss) (k : State) : State := if x.s.pubBars x.h.cr then x.stall .issuePoint [] else k

/-- PUBL: a publication point of each executing item (11 R237). -/
def execPubl (g : Grd) (ps : Bool) (s : State) : Out :=
  issue { g := g, major := 0x5f, peg := some ps, event := true, now := true } s (fun x =>
    (if x.ex.isEmpty then fun k => k else x.published) <|
    let s1 := if x.ex.isEmpty then x.s else x.s.publish x.h
    (s1.startOp x 0x5f ps [] .access true).advance x.r)

/-- INVL: an acquire point; the core's L1 copies are not used again (11 R238). -/
def execInvl (g : Grd) (s : State) : Out :=
  issue { g := g, major := 0x5f } s (fun x =>
    (if x.ex.isEmpty then x.s else x.s.modCore x.h.cr (fun c => { c with l1 := [] })).advance x.r)

/-- Lanes of a hand that hold an item of a kernel. -/
def Hand.kernLanes (hd : Hand) (kern : Nat) : List Nat :=
  hd.lanesWith (fun l => match l.item with | some it => it.kern = kern | none => false)

/-- SETMODE: the MODE word of the kernel in its hand, from the lowest executing lane (11 R239). -/
def execSetmode (g : Grd) (b : Src) (s : State) : Out :=
  let u := useOf g 0x61 0 .none [(1, b)]
  issue u s (fun x =>
    match x.ex with
    | [] => x.s.advance x.r
    | l :: _ =>
      let v := x.val .w32 l b
      x.control (if x.pois .w32 l b then [l] else [])
        (if modeLegal v then
          let s1 := x.s.modHand x.h (fun d => { d with sets := kSet x.u.kern { x.ks with mode := BitVec.ofNat 32 v } d.sets })
          let s2 := if modeSsel v = modeSsel x.mode then s1 else (x.hd.kernLanes x.u.kern).foldl (fun a j => a.reseed x.h j) s1
          s2.advance x.r
        else x.trap u 7 0 [l] v 0))

end Sys2Proof.Machine
end

