-- ==== Sys2Proof/Decode.lean ====
section
/-! DEFINITION. Sys2Proof/Decode.lean: from words to instructions: the checks that make an encoding legal,
the decoder (06 R132 to R145, R149, R157, R159 to R162 and the
field tables of 07 to 14), the encoder written from the same tables, and the decoder on words numbered as the opcode
table numbers them. -/

namespace Sys2Proof

/-! ## Legality (06 R139 to R145, 07 R164, 08 R182, 09 R194, 10 R214, 11 R226, 12 R243, 13 R265, 14 R284). Each check
names the word of the instruction it concerns, so that an illegal encoding is reported at its lowest-addressed word
(23 R394). -/

/-- Why an encoding is illegal. -/
inductive Why where
  | opcode | baseForm | unusedField | operandCode | destination | pair | range | reserved | sub | rnd | sat | guard
  | value | literal | length | header | afterEnd | level
deriving DecidableEq, Repr

/-- One check: the word it concerns, what it checks, and whether it holds. -/
structure Chk where
  word : Nat
  why : Why
  ok : Bool
deriving DecidableEq, Repr

/-! ## Operands -/

/-- A code of an operand that reads at most 32 bits, in an extended form (06 R142). -/
def Src.ok : Src → Bool
  | .v n => n < 640
  | .o n => n < 16
  | .l n => n < 2
  | .zero => true
  | .k n => n < 64
  | .p n => n < 8
  | .spec _ => true
  | .imm i => -128 ≤ i && i ≤ 127
  | .fc _ => false
  | .lit _ => false

/-- A code of a 64-bit operand, in an extended form (06 R145). -/
def Src.ok64 : Src → Bool
  | .v n => n < 639
  | .o n => n < 15
  | .l n => n < 2
  | .zero => true
  | .k n => n < 63
  | .p _ => false
  | .spec x => x = .itemLo || x = .clkLo
  | .imm i => -128 ≤ i && i ≤ 127
  | .fc _ => false
  | .lit _ => false

/-- A source of .b128: four v registers, or zero (11 R226). -/
def Src.ok128 : Src → Bool
  | .v n => n < 637
  | .zero => true
  | _ => false

/-- A code of the base form (06 R136). -/
def Src.ok7 : Src → Bool
  | .v n => n < 96
  | .o n => n < 16
  | .l n => n < 2
  | .zero => true
  | .spec x => x = .lane
  | .imm i => i = 1 || i = 2 || i = 4 || i = -1
  | .fc _ => true
  | _ => false

/-- A code of a 64-bit operand of the base form. -/
def Src.ok7w : Src → Bool
  | .o n => n < 15
  | .spec _ => false
  | a => a.ok7

/-- A literal that a 32-bit or packed operand may read (06 R141). -/
def litOk32 (w : W64) : Bool := w.toNat / 2 ^ 32 = 0 || (w.toNat / 2 ^ 31 = 2 ^ 33 - 1)

def Dst.ok : Dst → Bool
  | .v n => n < 640
  | .o n => n < 16
  | .none => true

def Dst.ok64 : Dst → Bool
  | .v n => n < 639
  | .o n => n < 15
  | .none => true

/-- A destination of .b128 (11 R226). -/
def Dst.ok128 : Dst → Bool
  | .v n => n < 637
  | .o _ => false
  | .none => true

def Dst.ok7 : Dst → Bool
  | .v n => n < 96
  | .o n => n < 16
  | .none => true

def Dst.ok7w : Dst → Bool
  | .v n => n < 96
  | .o n => n < 15
  | .none => true

/-! ## Checks of one field -/

def cA (a : Src) : List Chk := [⟨0, .operandCode, a.ok⟩]
def cA64 (a : Src) : List Chk := [⟨0, .pair, a.ok64⟩]
def cC (c : Src) : List Chk := [⟨1, .operandCode, c.ok⟩]
def cC64 (c : Src) : List Chk := [⟨1, .pair, c.ok64⟩]
def cD (d : Dst) : List Chk := [⟨0, .destination, d.ok⟩]
def cD64 (d : Dst) : List Chk := [⟨0, .pair, d.ok64⟩]

/-- A 32-bit operand in field B, which may be a literal. -/
def cB : Src → List Chk
  | .lit w => [⟨4, .literal, litOk32 w⟩]
  | b => [⟨1, .operandCode, b.ok⟩]

/-- A 64-bit operand in field B. -/
def cB64 : Src → List Chk
  | .lit _ => []
  | b => [⟨1, .pair, b.ok64⟩]

/-- A guard other than p0 to p7 cannot be encoded. -/
def cG (g : Grd) : List Chk := [⟨1, .guard, decide (g.p < 8)⟩]

/-- A range of `n` v registers named in word `w` (06 R145, R451). -/
def cV (w r n : Nat) : List Chk := [⟨w, .range, decide (r + n ≤ 640)⟩]

/-- A value of the MOD word. -/
def cM (b : Bool) : List Chk := [⟨2, .value, b⟩]

/-- Fields D, A and B of a base form. -/
def cBase (d : Dst) (a : Src) : List Chk := [⟨0, .destination, d.ok7⟩, ⟨0, .operandCode, a.ok7⟩]

def cBaseB : Src → List Chk
  | .lit w => [⟨2, .literal, litOk32 w⟩]
  | b => [⟨0, .operandCode, b.ok7⟩]

/-- PEN and PD (08 R182): PD 7 is unassigned when PEN is 1. -/
def cP (pen : Bool) (pd : Nat) : List Chk := [⟨2, .value, decide (pd < 8) && !(pen && decide (pd = 7))⟩]

/-- The common fields of the lane class and the mask operand in C (10 R213, R214). -/
def cK (k : Coll) (c : Src) : List Chk :=
  cP k.pen k.pd ++ cC c ++ [⟨1, .unusedField, k.msk || decide (c = .zero)⟩]

/-- n-wide operands (11 R225). -/
def cDn (sz : ASize) (d : Dst) : List Chk :=
  match sz with
  | .b64 => cD64 d
  | .b128 => [⟨0, .range, d.ok128⟩]
  | _ => cD d

def cBn (sz : ASize) (b : Src) : List Chk :=
  match sz with
  | .b64 => cB64 b
  | .b128 =>
    match b with
    | .lit _ => [⟨0, .literal, false⟩]
    | _ => [⟨1, .range, b.ok128⟩]
  | _ => cB b

def cCn (sz : ASize) (c : Src) : List Chk :=
  match sz with
  | .b64 => cC64 c
  | _ => cC c

/-- Sizes of atomics: .b32 and .b64, and only .b32 for the floating operations (11 R226). -/
def AtomOp.sizeOk (op : AtomOp) (sz : ASize) : Bool :=
  match op with
  | .fadd | .fmin | .fmax | .bfadd2 => sz = .b32
  | _ => sz = .b32 || sz = .b64

/-- RND other than 000 is permitted for FADD and BFADD2 only (11 R225). -/
def AtomOp.rndOk (op : AtomOp) (r : Rnd) : Bool :=
  match op with
  | .fadd | .bfadd2 => true
  | _ => r = .mode

def RedOp.rndOk (op : RedOp) (r : Rnd) : Bool := op = .fadd || r = .mode

/-- Registers a CUT range names: none, or `len` registers from `start` (07 R170). -/
def cCut (w : Nat) (r : Rng) : List Chk :=
  [⟨w, .range, if r.len = 0 then decide (r.start = 0) else decide (r.start + r.len ≤ 640)⟩,
   ⟨2, .value, decide (r.len ≤ 32)⟩]

/-- Registers MDRAIN writes (13 Table 13.6). -/
def OFmt.regs : OFmt → Nat
  | .f32 => 64
  | .bf16 => 32
  | .f16 => 32
  | .nar => 17

/-- Bits of a plane, and container registers of PSPLIT (09 R193). -/
def Plane.bits : Plane → Nat
  | .p8 => 8
  | .p4 => 4
  | .p2 => 2
  | .p1 => 1

def Plane.conts : Plane → Nat
  | .p8 => 1
  | .p4 => 2
  | .p2 => 4
  | .p1 => 8

/-- Segments an engine may write (12 Table 12.3). -/
def Seg.engDst : Seg → Bool
  | .gl | .ep | .sc => true
  | _ => false

def Seg.engSrc : Seg → Bool
  | .gl | .kc | .ep | .sc => true
  | _ => false

/-- Segments of the base-die engines. -/
def Seg.baseDst : Seg → Bool
  | .gl | .ep => true
  | _ => false

def Seg.baseSrc : Seg → Bool
  | .gl | .kc | .ep => true
  | _ => false

/-- Privileged register numbers that a register table assigns (14 Table 14.6, 15.5, 16.1, 16.2, 16.4, 16.7, 17 R343 to
R349, R353, 22 Table 22.2, 24 Table 24.5). -/
def prnAssigned (n : Nat) : Bool :=
  n ≤ 8 || (0x10 ≤ n && n ≤ 0x12) || (0x20 ≤ n && n ≤ 0x22) || (0x100 ≤ n && n ≤ 0x127) || (0x130 ≤ n && n ≤ 0x135) ||
  (0x140 ≤ n && n ≤ 0x143) || n = 0x150 || n = 0x151 || n = 0x160 || n = 0x161 || (0x170 ≤ n && n ≤ 0x174) ||
  n = 0x180 || n = 0x181 || (0x190 ≤ n && n ≤ 0x19C)

/-- The operand fields of MMA and MMAG (13 Tables 13.3 and 13.4). -/
def cMma (m : MmaF) (a : Nat) (c : Option Nat) : List Chk :=
  [⟨0, .operandCode, decide (a < 640)⟩, ⟨1, .operandCode, decide (c.getD 0 < 640)⟩,
   ⟨2, .value, decide (m.tile < 8 ∧ m.fa < 16 ∧ m.fb < 16 ∧ m.km1 < 32)⟩]

/-! ## The checks of every instruction -/

/-- Every check of an instruction. An event has no encoding and no check. Where a value of MOD is at odds with a field of another word (ISET with PEN 1 and a
packed SUB, a window whose base + W passes 640), the word of that field is reported (DESIGN CHOICE, log 65). -/
def Instr.checks : Instr → List Chk
  | .clauseHeader sb sa w c =>
    [⟨0, .header, (decide (sb < 12) || decide (sb = 15)) && (decide (sa < 12) || decide (sa = 15)) &&
      decide (w < 4096) && decide (c < 4)⟩]
  | .nop => []
  | .bra g _ => cG g
  | .br g a _ => cG g ++ cA a
  | .brx g a => cG g ++ cA64 a
  | .call g d _ => cG g ++ cD64 d
  | .callx g d a => cG g ++ cD64 d ++ cA64 a
  | .ret g a => cG g ++ cA64 a
  | .meld win => cM (win < 4096)
  | .exit g => cG g
  | .draw d => cD d
  | .cut r1 r2 r3 => cCut 0 r1 ++ cCut 1 r2 ++ cCut 1 r3 ++ cM (r1.len + r2.len + r3.len ≤ 32)
  | .suspend g a b _ c n => cG g ++ cA64 a ++ cB64 b ++ cV 1 c (n + 1) ++ [⟨1, .sub, decide (n < 16)⟩]
  | .waitp g a peg => cG g ++ cA a ++ cM (peg < 12)
  | .bar k => cM (0 < k && k < 8)
  | .yield => []
  | .yieldSlot => []
  | .trap g code => cG g ++ cM (code < 65536)
  | .tret => []
  | .iadd d a b | .isub d a b | .imul d a b | .imulh d a b | .imin d a b | .imax d a b
  | .and d a b | .or d a b | .xor d a b | .andn d a b | .shl d a b | .shr d a b | .sar d a b | .rot d a b
  | .fadd d a b | .fsub d a b | .fmul d a b | .fmin d a b | .fmax d a b
  | .hadd2 d a b | .hmul2 d a b | .hmin2 d a b | .hmax2 d a b => cBase d a ++ cBaseB b
  | .iabs d a | .ineg d a | .not d a | .popc d a | .clz d a | .ctz d a | .brev d a | .mov d a
  | .frcp d a | .frsq d a | .fsqrt d a | .fexp2 d a | .flog2 d a | .ftanh d a | .fsin d a | .fcos d a => cBase d a
  | .iadd64 d a b =>
    [⟨0, .pair, d.ok7w⟩, ⟨0, .pair, a.ok7w⟩] ++ (match b with | .lit _ => [] | _ => [⟨0, .pair, b.ok7w⟩])
  | .iaddExt g _ _ d a b | .isubExt g _ _ d a b | .imulExt g _ _ d a b => cG g ++ cD d ++ cA a ++ cB b
  | .imulhExt g _ d a b | .iminExt g _ d a b | .imaxExt g _ d a b => cG g ++ cD d ++ cA a ++ cB b
  | .iaddc g pen pd d a b c => cG g ++ cD d ++ cA a ++ cB b ++ cC c ++ cP pen pd
  | .imad g _ _ d a b c => cG g ++ cD d ++ cA a ++ cB b ++ cC c
  | .imadw g _ _ d a b c => cG g ++ cD64 d ++ cA a ++ cB b ++ cC64 c
  | .iabsExt g ty _ d a => cG g ++ cD d ++ cA a ++ [⟨1, .sub, ty.sgn⟩]
  | .inegExt g _ _ d a => cG g ++ cD d ++ cA a
  | .andExt g d a b | .orExt g d a b | .xorExt g d a b | .andnExt g d a b => cG g ++ cD d ++ cA a ++ cB b
  | .notExt g d a => cG g ++ cD d ++ cA a
  | .shlExt g _ d a b | .shrExt g _ d a b | .sarExt g _ d a b => cG g ++ cD d ++ cA a ++ cB b
  | .shf g _ d a b c => cG g ++ cD d ++ cA a ++ cB b ++ cC c
  | .rotExt g _ _ d a b => cG g ++ cD d ++ cA a ++ cB b
  | .bfe g _ d a b => cG g ++ cD d ++ cA a ++ cB b
  | .bfi g d a b c => cG g ++ cD d ++ cA a ++ cB b ++ cC c
  | .popcExt g d a | .clzExt g d a | .ctzExt g d a | .brevExt g d a => cG g ++ cD d ++ cA a
  | .bsel g d a b c => cG g ++ cD d ++ cA a ++ cB b ++ cC c
  | .iset g ty _ pen pd d a b =>
    cG g ++ cD d ++ cA a ++ cB b ++ cP pen pd ++ [⟨1, .sub, !pen || decide (ty.size = .w32)⟩]
  | .pset g pd _ d a b c => cG g ++ cD d ++ cA a ++ cB b ++ cC c ++ cM (pd < 7)
  | .sel g d a b c => cG g ++ cD d ++ cA a ++ cB b ++ cC c
  | .movExt g d a => cG g ++ cD d ++ cA a
  | .movx g d a base w =>
    cG g ++ cD d ++ cA a ++ cV 1 base w ++ cV 1 base 1 ++ cM (0 < w && w < 1024)
  | .movxw g base a b w =>
    cG g ++ cA a ++ cB b ++ cV 0 base w ++ cV 0 base 1 ++ cM (0 < w && w < 1024)
  | .lea g _ sh d a b => cG g ++ cD64 d ++ cA64 a ++ cB b ++ cM (sh ≤ 4)
  | .iadd64Ext g _ _ d a b => cG g ++ cD64 d ++ cA64 a ++ cB64 b
  | .faddExt g _ d a b | .fsubExt g _ d a b | .fmulExt g _ d a b => cG g ++ cD d ++ cA a ++ cB b
  | .fmac g _ _ _ d a b c => cG g ++ cD d ++ cA a ++ cB b ++ cC c
  | .fminExt g d a b | .fmaxExt g d a b => cG g ++ cD d ++ cA a ++ cB b
  | .fset g _ pen pd d a b => cG g ++ cD d ++ cA a ++ cB b ++ cP pen pd
  | .fclass g pen pd d a b =>
    cG g ++ cD d ++ cA a ++ cB b ++ cP pen pd ++
    (match b with | .lit _ => [⟨0, .literal, pen⟩] | _ => [⟨1, .unusedField, pen || decide (b = .zero)⟩])
  | .frcpExt g d a | .frsqExt g d a | .fexp2Ext g d a | .flog2Ext g d a | .ftanhExt g d a
  | .fsinExt g d a | .fcosExt g d a => cG g ++ cD d ++ cA a
  | .fsqrtExt g _ d a => cG g ++ cD d ++ cA a
  | .hadd2Ext g _ _ _ _ d a b => cG g ++ cD d ++ cA a ++ cB b
  | .hmul2Ext g _ _ _ d a b => cG g ++ cD d ++ cA a ++ cB b
  | .hfma2 g _ _ _ _ _ d a b c => cG g ++ cD d ++ cA a ++ cB b ++ cC c
  | .hmin2Ext g _ d a b | .hmax2Ext g _ d a b => cG g ++ cD d ++ cA a ++ cB b
  | .f2i g src _ w64 half _ d a =>
    cG g ++ (if w64 then cD64 d else cD d) ++ cA a ++ cM (!half || decide (src ≠ .f32))
  | .i2f g dst _ w64 _ sat d a =>
    cG g ++ cD d ++ (if w64 then cA64 a else cA a) ++ [⟨1, .sat, !sat || decide (dst ≠ .f32)⟩]
  | .fcvt g dst src half _ sat d a b =>
    cG g ++ cD d ++ cA a ++ cB b ++ [⟨1, .sub, decide (dst ≠ src)⟩] ++
    cM (!half || (decide (src ≠ .f32) && decide (dst = .f32))) ++ [⟨1, .sat, !sat || decide (dst ≠ .f32)⟩] ++
    (match b with
      | .lit _ => [⟨0, .literal, decide (src = .f32)⟩]
      | _ => [⟨1, .unusedField, decide (src = .f32) || decide (b = .zero)⟩])
  | .qscale g f d a => cG g ++ cD d ++ cV 0 a 32 ++ cM (f < 16)
  | .qpack g f _ _ d a b => cG g ++ cD d ++ cV 0 a 4 ++ cB b ++ cM (f < 16)
  | .qunpk g f d a b => cG g ++ cV 0 d 4 ++ cA a ++ cB b ++ cM (f < 16)
  | .psplit g f pl d a => cG g ++ cD d ++ cV 0 a pl.conts ++ cM (f < 16)
  | .pjoin g f pl grp d a b => cG g ++ cD d ++ cA a ++ cB b ++ cM (f < 16) ++ cM (grp < pl.conts)
  | .setfmt g f b => cG g ++ cB b ++ cM (f < 16)
  | .shfl g k _ w64 d a b c =>
    cG g ++ (if w64 then cD64 d ++ cA64 a else cD d ++ cA a) ++ cB b ++ cK k c
  | .vote g k _ d a c => cG g ++ cD d ++ cA a ++ cK k c
  | .hred g k op r d a c =>
    cG g ++ (if op = .add64 then cD64 d ++ cA64 a else cD d ++ cA a) ++ cK k c ++ cM (!k.pen) ++
    [⟨1, .rnd, op.rndOk r⟩]
  | .hscan g k op _ r d a c =>
    cG g ++ (if op = .add64 then cD64 d ++ cA64 a else cD d ++ cA a) ++ cK k c ++ cM (!k.pen) ++
    [⟨1, .rnd, op.rndOk r⟩]
  | .lmatch g k w64 d a c => cG g ++ cD d ++ (if w64 then cA64 a else cA a) ++ cK k c
  | .tmask g k d c => cG g ++ cD d ++ cK k c ++ cM (!k.pen && decide (k.scope = .suit))
  | .elect g k d c => cG g ++ cD d ++ cK k c
  | .ld g _ _ sz sx d a =>
    cG g ++ cDn sz d ++ cA64 a ++ [⟨1, .sub, !sx || decide (sz = .b8) || decide (sz = .b16)⟩]
  | .st g _ _ sz a b => cG g ++ cA64 a ++ cBn sz b
  | .atom g _ _ op sz r d a b =>
    cG g ++ cDn sz d ++ cA64 a ++ cBn sz b ++ [⟨1, .sub, op.sizeOk sz⟩, ⟨1, .rnd, op.rndOk r⟩]
  | .cas g _ _ sz d a b c =>
    cG g ++ cDn sz d ++ cA64 a ++ cBn sz b ++ cCn sz c ++ [⟨1, .sub, decide (sz = .b32) || decide (sz = .b64)⟩]
  | .red g _ _ op sz r a b =>
    cG g ++ cA64 a ++ cBn sz b ++ [⟨1, .sub, op.sizeOk sz⟩, ⟨1, .rnd, op.rndOk r⟩]
  | .evadd g _ _ d a b => cG g ++ cD64 d ++ cA64 a ++ cB64 b
  | .pref g m _ a => cG g ++ cA64 a ++ cM (m.pol ≠ .core)
  | .publ g _ => cG g
  | .invl g => cG g
  | .movs g _ _ _ sz a b =>
    cG g ++ cA64 a ++ cB b ++ [⟨1, .sub, decide (sz ≠ .b8) && decide (sz ≠ .b16)⟩]
  | .setmode g b => cG g ++ cB b
  | .cpy g _ ds ss a b c => cG g ++ cA64 a ++ cB64 b ++ cC c ++ cM (ds.engDst && ss.engSrc)
  | .cpy2 g _ ds ss a b c => cG g ++ cA64 a ++ cB64 b ++ cV 1 c 4 ++ cM (ds.engDst && ss.engSrc)
  | .cpyw g _ ss a b c => cG g ++ cA64 a ++ cB64 b ++ cC c ++ cM ss.engSrc
  | .gath g _ ds ss a b c | .scat g _ ds ss a b c =>
    cG g ++ cA64 a ++ cB64 b ++ cV 1 c 4 ++ cM (ds.baseDst && ss.baseSrc)
  | .sred g _ ds ss _ mx r a b c =>
    cG g ++ cA64 a ++ cB64 b ++ cC c ++ cM (ds.baseDst && ss.baseSrc) ++ [⟨1, .rnd, !mx || decide (r = .mode)⟩]
  | .scvt g _ ds ss dst src f _ sat a b c =>
    cG g ++ cA64 a ++ cB64 b ++ cC c ++ cM (ds.baseDst && ss.baseSrc && decide (f < 16)) ++
    [⟨1, .sub, decide (dst ≠ src)⟩, ⟨1, .sat, !sat || decide (dst ≠ .f32)⟩]
  | .rput g _ ss peer a b c => cG g ++ cA64 a ++ cB64 b ++ cC c ++ cM (ss.engSrc && decide (peer < 4096))
  | .rget g _ ds peer a b c => cG g ++ cA64 a ++ cB64 b ++ cC c ++ cM (ds.engDst && decide (peer < 4096))
  | .rsig g _ peer a b => cG g ++ cA64 a ++ cB64 b ++ cM (peer < 4096)
  | .mzero tile => cM (tile < 8)
  | .mma _ m a b c => cMma m a c ++ cB b
  | .mmag _ gsrc m a b c =>
    cMma m a c ++
    (if gsrc then cB b
     else match b with
      | .k n => [⟨1, .operandCode, decide (n ≤ 54)⟩]
      | .lit _ => [⟨0, .literal, false⟩]
      | _ => [⟨1, .operandCode, false⟩])
  | .mdrain g _ tile of _ fo _ _ d b =>
    cG g ++ cV 0 d of.regs ++ cB b ++ cM (decide (tile < 8) && decide (fo < 16) && (decide (of = .nar) || decide (fo = 0)))
  | .mdst g _ tile of _ seg _ _ _ a b =>
    cG g ++ cA64 a ++ cB b ++ [⟨1, .sub, decide (of ≠ .nar)⟩] ++ cM (decide (tile < 8) && seg.engDst)
  | .mscale g tile a b => cG g ++ cA a ++ cB b ++ cM (tile < 8)
  | .mstat g _ tile _ d => cG g ++ cD d ++ cM (tile < 8)
  | .will a n b => cV 0 a (n + 1) ++ cB64 b ++ [⟨1, .sub, decide (n < 16)⟩]
  | .claim g _ d n a => cG g ++ cV 0 d (n + 1) ++ cA64 a ++ [⟨1, .sub, decide (n < 16)⟩]
  | .estat g _ d => cG g ++ cD d
  | .deal g _ seg d a b c => cG g ++ cD d ++ cA64 a ++ cB b ++ cC c ++ cM seg.engSrc
  | .launch g _ seg d a => cG g ++ cD d ++ cA64 a ++ cM seg.engSrc
  | .deckqPend g _ d a | .deckqClose g _ d a | .deckqState g _ d a | .deckqCancel g _ d a => cG g ++ cD d ++ cA a
  | .chke g d | .chkeTrap g d => cG g ++ cD d
  | .setseg g seg a => cG g ++ cV 0 a 4 ++ cM (seg ≠ .sc)
  | .movpRead g other ctx prn d =>
    cG g ++ cD64 d ++ cM (decide (ctx < 256) && (other || decide (ctx = 0)) && decide (prn < 4096) && prnAssigned prn)
  | .movpWrite g other ctx prn b =>
    cG g ++ cB64 b ++ cM (decide (ctx < 256) && (other || decide (ctx = 0)) && decide (prn < 4096) && prnAssigned prn)
  | .keyz g d a => cG g ++ cD d ++ cA a
  | .scrub g _ d a => cG g ++ cD d ++ cA a
  | .meldWindowExpiry _ | .waitpGiveUp _ | .pegThresholdReached _ _ | .barrierComplete _ _ _ _
  | .homeLoad _ | .homeWrite _ | .homeAtomic _ | .opCompletion _ | .ptsTick _
  | .claimGrant _ | .engineIssuePoint _ | .engineLineRelease _ | .peerMessageApply _ | .peerAck _ | .linkLoss _
  | .teamStart _ _ _ _ | .keyzDone _ | .keyzAckTimeout _ _ | .scrubUnit _ | .deferredDestroy _
  | .entryDraw _ | .heldReform _ | .continuationSeat _ | .blockDeal _ _ _ | .barrierTableGrant _ _ _ | .handForm _ _ _
  | .handRelease _ | .dealtReturn _ | .rotation _ | .claimResolve _ | .affinityWindowExpiry _ _ | .pileEvictRetry _ _
  | .kernelComplete _ _ | .launchRegisterWrite _ _ | .launchQueueEntry _ | .dealerPeriod _
  | .pctlSave _ | .saveComplete _ | .pctlRestore _ | .restoreProceed _ | .samplingWindowEnd | .bandwidthWindow
  | .hostWriteRequest _ | .hostReadRequest _ | .xdPieceSend _ | .hostPieceApply _ _ | .routeAck _ _
  | .create _ _ | .stop _ | .skidTimeout _ | .haltDone _ | .destroy _ | .replay _ | .shqLookup _ _
  | .registerWrite _ _ _ | .waitfullRetry _ _ | .registerError _ _ _ | .handStateError _ | .coreOffline _
  | .cacheError _ | .keyLoad _ | .attestationReport _ | .ethernetFrameDeliver _ _
  | .coldReset _ | .warmReset _ | .powerLoss | .firmwareUpdate _ | .recoveryRequest
  | .rgetDataReturn _ _ _ | .peerRefusal _ _ | .segmentRetransmission _ _ | .deviceFatalError _ => []


/-- Bits `hi` to `lo` of a number. -/
def bitsAt (w hi lo : Nat) : Nat := w / 2 ^ lo % 2 ^ (hi + 1 - lo)

/-! ## Operand codes (06 Tables 6.3, 6.5, 6.6) -/

def Special.all : List Special :=
  [.lane, .itemLo, .itemHi, .table, .tix, .hand, .core, .die, .kern, .age, .suit, .mask, .ctx, .gen, .clkLo, .clkHi, .psum]

/-- Position in Table 6.6; the code is 744 plus it. -/
def Special.idx : Special → Nat
  | .lane => 0 | .itemLo => 1 | .itemHi => 2 | .table => 3 | .tix => 4 | .hand => 5 | .core => 6 | .die => 7
  | .kern => 8 | .age => 9 | .suit => 10 | .mask => 11 | .ctx => 12 | .gen => 13 | .clkLo => 14 | .clkHi => 15
  | .psum => 16

def Special.ofIdx (n : Nat) : Special := (Special.all[n]?).getD .lane

def FConst.idx : FConst → Nat
  | .one => 0 | .two => 1 | .half => 2 | .negOne => 3

def FConst.ofIdx : Nat → FConst
  | 0 => .one | 1 => .two | 2 => .half | _ => .negOne

/-- Whether a 10-bit code names a source (06 Table 6.5). -/
def srcCodeOk (c : Nat) : Bool := c ≤ 658 || (672 ≤ c && c ≤ 760) || (768 ≤ c && c ≤ 1023)

/-- The source a 10-bit code names. -/
def Src.ofCode (c : Nat) : Src :=
  if c < 640 then .v c
  else if c < 656 then .o (c - 640)
  else if c < 658 then .l (c - 656)
  else if c < 672 then .zero
  else if c < 736 then .k (c - 672)
  else if c < 744 then .p (c - 736)
  else if c < 768 then .spec (Special.ofIdx (c - 744))
  else .imm ((c : Int) - 896)

/-- The 10-bit code of a source; a literal leaves the field zero (06 R141). -/
def Src.code : Src → Nat
  | .v n => n
  | .o n => 640 + n
  | .l n => 656 + n
  | .zero => 658
  | .k n => 672 + n
  | .p n => 736 + n
  | .spec x => 744 + x.idx
  | .imm i => (i + 896).toNat
  | .fc _ => 658
  | .lit _ => 0

/-- Whether a 10-bit code names a destination (06 R144). -/
def dstCodeOk (c : Nat) : Bool := c ≤ 655 || c = 658

def Dst.ofCode (c : Nat) : Dst := if c < 640 then .v c else if c < 656 then .o (c - 640) else .none

def Dst.code : Dst → Nat
  | .v n => n
  | .o n => 640 + n
  | .none => 658

/-- Whether a 7-bit code is assigned (06 Table 6.3). -/
def src7Ok (c : Nat) : Bool := c < 124

/-- The source a 7-bit code names. -/
def Src.ofCode7 (c : Nat) : Src :=
  if c < 96 then .v c
  else if c < 112 then .o (c - 96)
  else if c < 114 then .l (c - 112)
  else if c = 114 then .zero
  else if c = 115 then .spec .lane
  else if c = 116 then .imm 1
  else if c = 117 then .imm 2
  else if c = 118 then .imm 4
  else if c = 119 then .imm (-1)
  else .fc (FConst.ofIdx (c - 120))

/-- The 7-bit code of a source of a base form. -/
def Src.code7 : Src → Nat
  | .v n => n
  | .o n => 96 + n
  | .l n => 112 + n
  | .zero => 114
  | .spec _ => 115
  | .imm i => if i = 1 then 116 else if i = 2 then 117 else if i = 4 then 118 else 119
  | .fc c => 120 + c.idx
  | .lit _ => 0
  | .k _ => 114
  | .p _ => 114

def dst7Ok (c : Nat) : Bool := c < 112 || c = 114

def Dst.ofCode7 (c : Nat) : Dst := if c < 96 then .v c else if c < 112 then .o (c - 96) else .none

def Dst.code7 : Dst → Nat
  | .v n => n
  | .o n => 96 + n
  | .none => 114

/-! ## Modifier codes -/

def ISize.code : ISize → Nat
  | .w32 => 0 | .w16 => 1 | .w8 => 2

def ISize.ofCode : Nat → ISize
  | 0 => .w32 | 1 => .w16 | _ => .w8

/-- SUB of an integer type (06 Table 6.10). -/
def ITy.code (t : ITy) : Nat := 4 * t.size.code + 2 * t.sgn.toNat

def ITy.ofCode (s : Nat) : ITy := { size := ISize.ofCode (s / 4), sgn := decide (s / 2 % 2 = 1) }

def Rnd.code : Rnd → Nat
  | .mode => 0 | .rne => 1 | .rtz => 2 | .rup => 3 | .rdn => 4 | .rna => 5 | .rs => 6

def Rnd.ofCode : Nat → Rnd
  | 0 => .mode | 1 => .rne | 2 => .rtz | 3 => .rup | 4 => .rdn | 5 => .rna | _ => .rs

def ICc.code : ICc → Nat
  | .eq => 0 | .ne => 1 | .lt => 2 | .le => 3 | .gt => 4 | .ge => 5

def ICc.ofCode : Nat → ICc
  | 0 => .eq | 1 => .ne | 2 => .lt | 3 => .le | 4 => .gt | _ => .ge

def FCc.code : FCc → Nat
  | .eq => 0 | .ne => 1 | .lt => 2 | .le => 3 | .gt => 4 | .ge => 5 | .num => 6 | .nan => 7

def FCc.ofCode : Nat → FCc
  | 0 => .eq | 1 => .ne | 2 => .lt | 3 => .le | 4 => .gt | 5 => .ge | 6 => .num | _ => .nan

def VFmt.code : VFmt → Nat
  | .f32 => 0 | .f16 => 1 | .bf16 => 2

def VFmt.ofCode : Nat → VFmt
  | 0 => .f32 | 1 => .f16 | _ => .bf16

def Plane.code : Plane → Nat
  | .p8 => 0 | .p4 => 1 | .p2 => 2 | .p1 => 3

def Plane.ofCode : Nat → Plane
  | 0 => .p8 | 1 => .p4 | 2 => .p2 | _ => .p1

def Scope.code : Scope → Nat
  | .suit => 0 | .tbl => 1

def Scope.ofCode : Nat → Scope
  | 0 => .suit | _ => .tbl

def Coll.code (k : Coll) : Nat := 128 * k.pen.toNat + 16 * k.pd + 4 * k.msk.toNat + k.scope.code

def Coll.ofMod (m : Nat) : Coll :=
  { pen := decide (m / 128 % 2 = 1), pd := m / 16 % 8, msk := decide (m / 4 % 2 = 1), scope := Scope.ofCode (m % 4) }

def ShflMode.code : ShflMode → Nat
  | .idx => 0 | .up => 1 | .down => 2 | .xor => 3

def ShflMode.ofCode : Nat → ShflMode
  | 0 => .idx | 1 => .up | 2 => .down | _ => .xor

def VoteMode.code : VoteMode → Nat
  | .all => 0 | .any => 1 | .uni => 2 | .ballot => 3

def VoteMode.ofCode : Nat → VoteMode
  | 0 => .all | 1 => .any | 2 => .uni | _ => .ballot

def RedOp.code : RedOp → Nat
  | .add => 0 | .minz => 1 | .mins => 2 | .maxz => 3 | .maxs => 4 | .and => 5 | .or => 6 | .xor => 7 | .fadd => 8
  | .fmin => 9 | .fmax => 10 | .add64 => 11

def RedOp.ofCode : Nat → RedOp
  | 0 => .add | 1 => .minz | 2 => .mins | 3 => .maxz | 4 => .maxs | 5 => .and | 6 => .or | 7 => .xor | 8 => .fadd
  | 9 => .fmin | 10 => .fmax | _ => .add64

def Seg.code : Seg → Nat
  | .gl => 0 | .kc => 1 | .tl => 2 | .ep => 3 | .sc => 4

def Seg.ofCode : Nat → Seg
  | 0 => .gl | 1 => .kc | 2 => .tl | 3 => .ep | _ => .sc

def Pol.code : Pol → Nat
  | .shared => 0 | .core => 1 | .stream => 2

def Pol.ofCode : Nat → Pol
  | 0 => .shared | 1 => .core | _ => .stream

def ASize.code : ASize → Nat
  | .b8 => 0 | .b16 => 1 | .b32 => 2 | .b64 => 3 | .b128 => 4

def ASize.ofCode : Nat → ASize
  | 0 => .b8 | 1 => .b16 | 2 => .b32 | 3 => .b64 | _ => .b128

/-- SEG, POL and DISP of MOD (11 Table 11.2). -/
def MemOp.code (m : MemOp) : Nat := 2 ^ 28 * m.seg.code + 2 ^ 26 * m.pol.code + m.disp.toNat

def MemOp.ofMod (m : Nat) : MemOp :=
  { seg := Seg.ofCode (m / 2 ^ 28 % 8), pol := Pol.ofCode (m / 2 ^ 26 % 4), disp := BitVec.ofNat 20 m }

def AtomOp.code : AtomOp → Nat
  | .xchg => 0 | .add => 1 | .minz => 2 | .mins => 3 | .maxz => 4 | .maxs => 5 | .and => 6 | .or => 7 | .xor => 8
  | .incw => 9 | .fadd => 10 | .fmin => 11 | .fmax => 12 | .bfadd2 => 13

def AtomOp.ofCode : Nat → AtomOp
  | 0 => .xchg | 1 => .add | 2 => .minz | 3 => .mins | 4 => .maxz | 5 => .maxs | 6 => .and | 7 => .or | 8 => .xor
  | 9 => .incw | 10 => .fadd | 11 => .fmin | 12 => .fmax | _ => .bfadd2

def CvtFmt.code : CvtFmt → Nat
  | .f32 => 0 | .f16 => 1 | .bf16 => 2 | .nar => 3

def CvtFmt.ofCode : Nat → CvtFmt
  | 0 => .f32 | 1 => .f16 | 2 => .bf16 | _ => .nar

def OFmt.code : OFmt → Nat
  | .f32 => 0 | .bf16 => 1 | .f16 => 2 | .nar => 3

def OFmt.ofCode : Nat → OFmt
  | 0 => .f32 | 1 => .bf16 | 2 => .f16 | _ => .nar

/-- TEAM, TILE, FA, FB and KM1 of MOD (13 Table 13.4). -/
def MmaF.code (m : MmaF) : Nat :=
  2 ^ 28 * m.tile + 2 ^ 27 * m.team.toNat + 2 ^ 16 * m.fa + 2 ^ 12 * m.fb + m.km1

def MmaF.ofMod (m : Nat) : MmaF :=
  { team := decide (m / 2 ^ 27 % 2 = 1), tile := m / 2 ^ 28 % 8, fa := m / 2 ^ 16 % 16, fb := m / 2 ^ 12 % 16, km1 := m % 32 }

/-! ## Raw fields -/

/-- The fields of an extended instruction (06 Table 6.4), with its literal. -/
structure Raw where
  major : Nat
  minor : Nat
  d : Nat := 658
  a : Nat := 658
  b : Nat := 658
  c : Nat := 658
  sub : Nat := 0
  sat : Bool := false
  rnd : Nat := 0
  g : Grd := Grd.always
  mod : Nat := 0
  lit : Option W64 := none
deriving DecidableEq, Repr

/-- Operand B: the literal when there is one. -/
def Raw.srcB (r : Raw) : Src :=
  match r.lit with
  | some w => .lit w
  | none => .ofCode r.b

/-- Bit `n` of MOD. -/
def Raw.bit (r : Raw) (n : Nat) : Bool := decide (r.mod / 2 ^ n % 2 = 1)

/-- Bits of MOD. -/
def Raw.fld (r : Raw) (hi lo : Nat) : Nat := bitsAt r.mod hi lo

/-- PSLOT (06 R153). -/
def Raw.ps (r : Raw) : Bool := r.bit 31

/-- A first-register field that may hold code 658. -/
def optV (c : Nat) : Option Nat := if c = 658 then none else some c

def optVCode : Option Nat → Nat
  | none => 658
  | some n => n

/-- A CUT range from its field and length; a range of length 0 whose field is not 658 gets a start that no check passes. -/
def rngOf (code n : Nat) : Rng := { start := if n = 0 then (if code = 658 then 0 else code + 1) else code, len := n }

def rngCode (r : Rng) : Nat := if r.len = 0 then 658 else r.start

/-- What a field may hold. -/
inductive FieldUse where
  /-- unused: code 658 -/
  | no
  | src
  | dst
  /-- the first register of a v range -/
  | vreg
  /-- a v register or code 658 -/
  | vopt
deriving DecidableEq, Repr

def FieldUse.ok (u : FieldUse) (c : Nat) : Bool :=
  match u with
  | .no => c = 658
  | .src => srcCodeOk c
  | .dst => dstCodeOk c
  | .vreg => c < 640
  | .vopt => c < 640 || c = 658

/-- One row of the field tables: which fields the instruction uses, the SUB values it lists, whether RND and SAT may be
non-zero, the MOD bits it names, checks of MOD values, and the instruction the fields stand for. -/
structure Row where
  major : Nat
  minor : Nat
  d : FieldUse := .no
  a : FieldUse := .no
  b : FieldUse := .no
  c : FieldUse := .no
  subs : List Nat := [0]
  rnd : Bool := false
  sat : Bool := false
  p7 : Bool := false
  mask : Nat := 0
  more : Raw → List Chk := fun _ => []
  make : Raw → Instr

/-- The checks that the field tables make on every extended instruction (06 R139, R141). -/
def Row.checks (w : Row) (r : Raw) : List Chk :=
  [⟨0, .unusedField, w.d.ok r.d⟩, ⟨0, .unusedField, w.a.ok r.a⟩,
   ⟨0, .literal, r.lit.isNone || decide (w.b = .src)⟩,
   ⟨1, .unusedField, if r.lit.isSome then decide (r.b = 0) else w.b.ok r.b⟩, ⟨1, .unusedField, w.c.ok r.c⟩,
   ⟨1, .sub, w.subs.contains r.sub⟩, ⟨1, .rnd, if w.rnd then decide (r.rnd < 7) else decide (r.rnd = 0)⟩,
   ⟨1, .sat, w.sat || !r.sat⟩, ⟨1, .guard, !w.p7 || decide (r.g = Grd.always)⟩,
   ⟨2, .reserved, decide (r.mod &&& w.mask = r.mod)⟩] ++ w.more r

/-- A value of MOD bits that no entry lists. -/
def mIn (b : Bool) : List Chk := [⟨2, .value, b⟩]

def int6 : List Nat := [0, 2, 4, 6, 8, 10]
def sub16 : List Nat := List.range 16

/-- SEG and POL of a lane access (11 R226). -/
def memMore (r : Raw) : List Chk := mIn (r.fld 30 28 < 5 && r.fld 27 26 < 3)

/-- Scope of a collective (10 R214). -/
def laneMore (r : Raw) : List Chk := mIn (r.fld 1 0 < 2)

def engMask : Nat := 0xFE000000
def memMask : Nat := 0xFC0FFFFF


/-- DECKQ by its SUB (14 Table 14.4). -/
def mkDeckq (r : Raw) : Instr :=
  match r.sub with
  | 0 => .deckqPend r.g r.ps (.ofCode r.d) (.ofCode r.a)
  | 1 => .deckqClose r.g r.ps (.ofCode r.d) (.ofCode r.a)
  | 2 => .deckqState r.g r.ps (.ofCode r.d) (.ofCode r.a)
  | _ => .deckqCancel r.g r.ps (.ofCode r.d) (.ofCode r.a)

/-- MOVP by its DIR (14 R295). -/
def mkMovp (r : Raw) : Instr :=
  if r.bit 12 then .movpWrite r.g (r.bit 24) (r.fld 23 16) (r.fld 11 0) r.srcB
  else .movpRead r.g (r.bit 24) (r.fld 23 16) (r.fld 11 0) (.ofCode r.d)

/-- MOVP uses D when DIR is 0 and B when DIR is 1 (14 R284). -/
def movpMore (r : Raw) : List Chk :=
  if r.bit 12 then [⟨0, .unusedField, decide (r.d = 658)⟩]
  else [⟨0, .literal, r.lit.isNone⟩, ⟨1, .unusedField, decide (r.b = 658)⟩]

/-- Rows of MAJORs 0x1 to 0xf. -/
def rowsCtl : List Row := [
  { major := 0x1, minor := 0, mask := 0xffffffff, make := fun r => .bra r.g (BitVec.ofNat 32 r.mod) },
  { major := 0x2, minor := 0, a := .src, mask := 0xffffffff, make := fun r => .br r.g (.ofCode r.a) (BitVec.ofNat 32 r.mod) },
  { major := 0x3, minor := 0, a := .src, make := fun r => .brx r.g (.ofCode r.a) },
  { major := 0x4, minor := 0, d := .dst, mask := 0xffffffff, make := fun r => .call r.g (.ofCode r.d) (BitVec.ofNat 32 r.mod) },
  { major := 0x5, minor := 0, d := .dst, a := .src, make := fun r => .callx r.g (.ofCode r.d) (.ofCode r.a) },
  { major := 0x6, minor := 0, a := .src, make := fun r => .ret r.g (.ofCode r.a) },
  { major := 0x7, minor := 0, p7 := true, mask := 0xfff, make := fun r => .meld (r.fld 11 0) },
  { major := 0x8, minor := 0, make := fun r => .exit r.g },
  { major := 0x9, minor := 0, d := .dst, p7 := true, make := fun r => .draw (.ofCode r.d) },
  { major := 0xa, minor := 0, a := .vopt, b := .vopt, c := .vopt, p7 := true, mask := 0x3ffff, make := fun r => .cut (rngOf r.a (r.fld 5 0)) (rngOf r.b (r.fld 11 6)) (rngOf r.c (r.fld 17 12)) },
  { major := 0xb, minor := 0, a := .src, b := .src, c := .vreg, subs := sub16, mask := 0xffffffff, make := fun r => .suspend r.g (.ofCode r.a) r.srcB (BitVec.ofNat 32 r.mod) r.c r.sub },
  { major := 0xc, minor := 0, a := .src, mask := 0xf, make := fun r => .waitp r.g (.ofCode r.a) (r.fld 3 0) },
  { major := 0xd, minor := 0, p7 := true, mask := 0x7, make := fun r => .bar (r.fld 2 0) },
  { major := 0xe, minor := 0, p7 := true, mask := 0x1, make := fun r => if r.bit 0 then .yieldSlot else .yield },
  { major := 0xf, minor := 0, mask := 0xffff, make := fun r => .trap r.g (r.fld 15 0) },
  { major := 0xf, minor := 1, p7 := true, make := fun _ => .tret }]

/-- Rows of MAJORs 0x10 to 0x22. -/
def rowsInt : List Row := [
  { major := 0x10, minor := 0, d := .dst, a := .src, b := .src, subs := int6, sat := true, make := fun r => .iaddExt r.g (.ofCode r.sub) r.sat (.ofCode r.d) (.ofCode r.a) r.srcB },
  { major := 0x10, minor := 1, d := .dst, a := .src, b := .src, subs := int6, sat := true, make := fun r => .isubExt r.g (.ofCode r.sub) r.sat (.ofCode r.d) (.ofCode r.a) r.srcB },
  { major := 0x10, minor := 2, d := .dst, a := .src, b := .src, c := .src, mask := 0xf, make := fun r => .iaddc r.g (r.bit 3) (r.fld 2 0) (.ofCode r.d) (.ofCode r.a) r.srcB (.ofCode r.c) },
  { major := 0x11, minor := 0, d := .dst, a := .src, b := .src, subs := int6, sat := true, make := fun r => .imulExt r.g (.ofCode r.sub) r.sat (.ofCode r.d) (.ofCode r.a) r.srcB },
  { major := 0x11, minor := 1, d := .dst, a := .src, b := .src, subs := int6, make := fun r => .imulhExt r.g (.ofCode r.sub) (.ofCode r.d) (.ofCode r.a) r.srcB },
  { major := 0x12, minor := 0, d := .dst, a := .src, b := .src, c := .src, subs := int6, sat := true, make := fun r => .imad r.g (.ofCode r.sub) r.sat (.ofCode r.d) (.ofCode r.a) r.srcB (.ofCode r.c) },
  { major := 0x12, minor := 1, d := .dst, a := .src, b := .src, c := .src, subs := [0, 2], sat := true, make := fun r => .imadw r.g (decide (r.sub / 2 % 2 = 1)) r.sat (.ofCode r.d) (.ofCode r.a) r.srcB (.ofCode r.c) },
  { major := 0x13, minor := 0, d := .dst, a := .src, b := .src, subs := int6, make := fun r => .iminExt r.g (.ofCode r.sub) (.ofCode r.d) (.ofCode r.a) r.srcB },
  { major := 0x13, minor := 1, d := .dst, a := .src, b := .src, subs := int6, make := fun r => .imaxExt r.g (.ofCode r.sub) (.ofCode r.d) (.ofCode r.a) r.srcB },
  { major := 0x14, minor := 0, d := .dst, a := .src, subs := [2, 6, 10], sat := true, make := fun r => .iabsExt r.g (.ofCode r.sub) r.sat (.ofCode r.d) (.ofCode r.a) },
  { major := 0x14, minor := 1, d := .dst, a := .src, subs := int6, sat := true, make := fun r => .inegExt r.g (.ofCode r.sub) r.sat (.ofCode r.d) (.ofCode r.a) },
  { major := 0x15, minor := 0, d := .dst, a := .src, b := .src, make := fun r => .andExt r.g (.ofCode r.d) (.ofCode r.a) r.srcB },
  { major := 0x15, minor := 1, d := .dst, a := .src, b := .src, make := fun r => .orExt r.g (.ofCode r.d) (.ofCode r.a) r.srcB },
  { major := 0x15, minor := 2, d := .dst, a := .src, b := .src, make := fun r => .xorExt r.g (.ofCode r.d) (.ofCode r.a) r.srcB },
  { major := 0x15, minor := 3, d := .dst, a := .src, b := .src, make := fun r => .andnExt r.g (.ofCode r.d) (.ofCode r.a) r.srcB },
  { major := 0x16, minor := 0, d := .dst, a := .src, make := fun r => .notExt r.g (.ofCode r.d) (.ofCode r.a) },
  { major := 0x17, minor := 0, d := .dst, a := .src, b := .src, subs := [0, 4, 8], make := fun r => .shlExt r.g (.ofCode (r.sub / 4)) (.ofCode r.d) (.ofCode r.a) r.srcB },
  { major := 0x17, minor := 1, d := .dst, a := .src, b := .src, subs := [0, 4, 8], make := fun r => .shrExt r.g (.ofCode (r.sub / 4)) (.ofCode r.d) (.ofCode r.a) r.srcB },
  { major := 0x17, minor := 2, d := .dst, a := .src, b := .src, subs := [0, 4, 8], make := fun r => .sarExt r.g (.ofCode (r.sub / 4)) (.ofCode r.d) (.ofCode r.a) r.srcB },
  { major := 0x18, minor := 0, d := .dst, a := .src, b := .src, c := .src, mask := 0x1, make := fun r => .shf r.g (r.bit 0) (.ofCode r.d) (.ofCode r.a) r.srcB (.ofCode r.c) },
  { major := 0x18, minor := 1, d := .dst, a := .src, b := .src, subs := [0, 4, 8], mask := 0x1, make := fun r => .rotExt r.g (.ofCode (r.sub / 4)) (r.bit 0) (.ofCode r.d) (.ofCode r.a) r.srcB },
  { major := 0x19, minor := 0, d := .dst, a := .src, b := .src, subs := [0, 2], make := fun r => .bfe r.g (decide (r.sub / 2 % 2 = 1)) (.ofCode r.d) (.ofCode r.a) r.srcB },
  { major := 0x19, minor := 1, d := .dst, a := .src, b := .src, c := .src, make := fun r => .bfi r.g (.ofCode r.d) (.ofCode r.a) r.srcB (.ofCode r.c) },
  { major := 0x1a, minor := 0, d := .dst, a := .src, make := fun r => .popcExt r.g (.ofCode r.d) (.ofCode r.a) },
  { major := 0x1a, minor := 1, d := .dst, a := .src, make := fun r => .clzExt r.g (.ofCode r.d) (.ofCode r.a) },
  { major := 0x1a, minor := 2, d := .dst, a := .src, make := fun r => .ctzExt r.g (.ofCode r.d) (.ofCode r.a) },
  { major := 0x1a, minor := 3, d := .dst, a := .src, make := fun r => .brevExt r.g (.ofCode r.d) (.ofCode r.a) },
  { major := 0x1b, minor := 0, d := .dst, a := .src, b := .src, c := .src, make := fun r => .bsel r.g (.ofCode r.d) (.ofCode r.a) r.srcB (.ofCode r.c) },
  { major := 0x1c, minor := 0, d := .dst, a := .src, b := .src, subs := int6, mask := 0xf7, more := fun r => mIn (r.fld 2 0 < 6), make := fun r => .iset r.g (.ofCode r.sub) (.ofCode (r.fld 2 0)) (r.bit 7) (r.fld 6 4) (.ofCode r.d) (.ofCode r.a) r.srcB },
  { major := 0x1d, minor := 0, d := .dst, a := .src, b := .src, c := .src, mask := 0x7ff, make := fun r => .pset r.g (r.fld 10 8) (BitVec.ofNat 8 r.mod) (.ofCode r.d) (.ofCode r.a) r.srcB (.ofCode r.c) },
  { major := 0x1e, minor := 0, d := .dst, a := .src, b := .src, c := .src, make := fun r => .sel r.g (.ofCode r.d) (.ofCode r.a) r.srcB (.ofCode r.c) },
  { major := 0x1f, minor := 0, d := .dst, a := .src, make := fun r => .movExt r.g (.ofCode r.d) (.ofCode r.a) },
  { major := 0x20, minor := 0, d := .dst, a := .src, b := .vreg, mask := 0x3ff, make := fun r => .movx r.g (.ofCode r.d) (.ofCode r.a) r.b (r.fld 9 0) },
  { major := 0x20, minor := 1, d := .vreg, a := .src, b := .src, mask := 0x3ff, make := fun r => .movxw r.g r.d (.ofCode r.a) r.srcB (r.fld 9 0) },
  { major := 0x21, minor := 0, d := .dst, a := .src, b := .src, subs := [0, 2], mask := 0x7, make := fun r => .lea r.g (decide (r.sub / 2 % 2 = 1)) (r.fld 2 0) (.ofCode r.d) (.ofCode r.a) r.srcB },
  { major := 0x22, minor := 0, d := .dst, a := .src, b := .src, subs := [0, 2], sat := true, make := fun r => .iadd64Ext r.g (decide (r.sub / 2 % 2 = 1)) r.sat (.ofCode r.d) (.ofCode r.a) r.srcB }]

/-- Rows of MAJORs 0x30 to 0x3f. -/
def rowsFloat : List Row := [
  { major := 0x30, minor := 0, d := .dst, a := .src, b := .src, rnd := true, make := fun r => .faddExt r.g (.ofCode r.rnd) (.ofCode r.d) (.ofCode r.a) r.srcB },
  { major := 0x30, minor := 1, d := .dst, a := .src, b := .src, rnd := true, make := fun r => .fsubExt r.g (.ofCode r.rnd) (.ofCode r.d) (.ofCode r.a) r.srcB },
  { major := 0x30, minor := 2, d := .dst, a := .src, b := .src, rnd := true, make := fun r => .fmulExt r.g (.ofCode r.rnd) (.ofCode r.d) (.ofCode r.a) r.srcB },
  { major := 0x31, minor := 0, d := .dst, a := .src, b := .src, c := .src, rnd := true, mask := 0x3, make := fun r => .fmac r.g (.ofCode r.rnd) (r.bit 1) (r.bit 0) (.ofCode r.d) (.ofCode r.a) r.srcB (.ofCode r.c) },
  { major := 0x32, minor := 0, d := .dst, a := .src, b := .src, make := fun r => .fminExt r.g (.ofCode r.d) (.ofCode r.a) r.srcB },
  { major := 0x32, minor := 1, d := .dst, a := .src, b := .src, make := fun r => .fmaxExt r.g (.ofCode r.d) (.ofCode r.a) r.srcB },
  { major := 0x33, minor := 0, d := .dst, a := .src, b := .src, mask := 0xf7, make := fun r => .fset r.g (.ofCode (r.fld 2 0)) (r.bit 7) (r.fld 6 4) (.ofCode r.d) (.ofCode r.a) r.srcB },
  { major := 0x34, minor := 0, d := .dst, a := .src, b := .src, mask := 0xf0, make := fun r => .fclass r.g (r.bit 7) (r.fld 6 4) (.ofCode r.d) (.ofCode r.a) r.srcB },
  { major := 0x35, minor := 0, d := .dst, a := .src, make := fun r => .frcpExt r.g (.ofCode r.d) (.ofCode r.a) },
  { major := 0x35, minor := 1, d := .dst, a := .src, make := fun r => .frsqExt r.g (.ofCode r.d) (.ofCode r.a) },
  { major := 0x35, minor := 2, d := .dst, a := .src, rnd := true, make := fun r => .fsqrtExt r.g (.ofCode r.rnd) (.ofCode r.d) (.ofCode r.a) },
  { major := 0x36, minor := 0, d := .dst, a := .src, make := fun r => .fexp2Ext r.g (.ofCode r.d) (.ofCode r.a) },
  { major := 0x36, minor := 1, d := .dst, a := .src, make := fun r => .flog2Ext r.g (.ofCode r.d) (.ofCode r.a) },
  { major := 0x36, minor := 2, d := .dst, a := .src, make := fun r => .ftanhExt r.g (.ofCode r.d) (.ofCode r.a) },
  { major := 0x37, minor := 0, d := .dst, a := .src, make := fun r => .fsinExt r.g (.ofCode r.d) (.ofCode r.a) },
  { major := 0x37, minor := 1, d := .dst, a := .src, make := fun r => .fcosExt r.g (.ofCode r.d) (.ofCode r.a) },
  { major := 0x38, minor := 0, d := .dst, a := .src, b := .src, subs := [0, 1], rnd := true, sat := true, mask := 0x1, make := fun r => .hadd2Ext r.g (decide (r.sub = 1)) (.ofCode r.rnd) r.sat (r.bit 0) (.ofCode r.d) (.ofCode r.a) r.srcB },
  { major := 0x38, minor := 1, d := .dst, a := .src, b := .src, subs := [0, 1], rnd := true, sat := true, make := fun r => .hmul2Ext r.g (decide (r.sub = 1)) (.ofCode r.rnd) r.sat (.ofCode r.d) (.ofCode r.a) r.srcB },
  { major := 0x38, minor := 2, d := .dst, a := .src, b := .src, c := .src, subs := [0, 1], rnd := true, sat := true, mask := 0x3, make := fun r => .hfma2 r.g (decide (r.sub = 1)) (.ofCode r.rnd) r.sat (r.bit 1) (r.bit 0) (.ofCode r.d) (.ofCode r.a) r.srcB (.ofCode r.c) },
  { major := 0x39, minor := 0, d := .dst, a := .src, b := .src, subs := [0, 1], make := fun r => .hmin2Ext r.g (decide (r.sub = 1)) (.ofCode r.d) (.ofCode r.a) r.srcB },
  { major := 0x39, minor := 1, d := .dst, a := .src, b := .src, subs := [0, 1], make := fun r => .hmax2Ext r.g (decide (r.sub = 1)) (.ofCode r.d) (.ofCode r.a) r.srcB },
  { major := 0x3a, minor := 0, d := .dst, a := .src, subs := (List.range 12), rnd := true, mask := 0x1, make := fun r => .f2i r.g (.ofCode (r.sub / 4)) (decide (r.sub / 2 % 2 = 1)) (decide (r.sub % 2 = 1)) (r.bit 0) (.ofCode r.rnd) (.ofCode r.d) (.ofCode r.a) },
  { major := 0x3a, minor := 1, d := .dst, a := .src, subs := (List.range 12), rnd := true, sat := true, make := fun r => .i2f r.g (.ofCode (r.sub / 4)) (decide (r.sub / 2 % 2 = 1)) (decide (r.sub % 2 = 1)) (.ofCode r.rnd) r.sat (.ofCode r.d) (.ofCode r.a) },
  { major := 0x3b, minor := 0, d := .dst, a := .src, b := .src, subs := [1, 2, 4, 6, 8, 9], rnd := true, sat := true, mask := 0x1, make := fun r => .fcvt r.g (.ofCode (r.sub % 4)) (.ofCode (r.sub / 4)) (r.bit 0) (.ofCode r.rnd) r.sat (.ofCode r.d) (.ofCode r.a) r.srcB },
  { major := 0x3c, minor := 0, d := .dst, a := .vreg, mask := 0xf, make := fun r => .qscale r.g (r.fld 3 0) (.ofCode r.d) r.a },
  { major := 0x3d, minor := 0, d := .dst, a := .vreg, b := .src, rnd := true, sat := true, mask := 0xf, make := fun r => .qpack r.g (r.fld 3 0) (.ofCode r.rnd) r.sat (.ofCode r.d) r.a r.srcB },
  { major := 0x3d, minor := 1, d := .vreg, a := .src, b := .src, mask := 0xf, make := fun r => .qunpk r.g (r.fld 3 0) r.d (.ofCode r.a) r.srcB },
  { major := 0x3e, minor := 0, d := .dst, a := .vreg, mask := 0x3f, make := fun r => .psplit r.g (r.fld 3 0) (.ofCode (r.fld 5 4)) (.ofCode r.d) r.a },
  { major := 0x3e, minor := 1, d := .dst, a := .src, b := .src, mask := 0x1ff, make := fun r => .pjoin r.g (r.fld 3 0) (.ofCode (r.fld 5 4)) (r.fld 8 6) (.ofCode r.d) (.ofCode r.a) r.srcB },
  { major := 0x3f, minor := 0, b := .src, mask := 0xf, make := fun r => .setfmt r.g (r.fld 3 0) r.srcB }]

/-- Rows of MAJORs 0x50 to 0x61. -/
def rowsLane : List Row := [
  { major := 0x50, minor := 0, d := .dst, a := .src, b := .src, c := .src, subs := [0, 1], mask := 0x3f7, more := laneMore, make := fun r => .shfl r.g (Coll.ofMod r.mod) (.ofCode (r.fld 9 8)) (decide (r.sub = 1)) (.ofCode r.d) (.ofCode r.a) r.srcB (.ofCode r.c) },
  { major := 0x51, minor := 0, d := .dst, a := .src, c := .src, mask := 0x3f7, more := laneMore, make := fun r => .vote r.g (Coll.ofMod r.mod) (.ofCode (r.fld 9 8)) (.ofCode r.d) (.ofCode r.a) (.ofCode r.c) },
  { major := 0x52, minor := 0, d := .dst, a := .src, c := .src, subs := (List.range 12), rnd := true, mask := 0xf7, more := laneMore, make := fun r => .hred r.g (Coll.ofMod r.mod) (.ofCode r.sub) (.ofCode r.rnd) (.ofCode r.d) (.ofCode r.a) (.ofCode r.c) },
  { major := 0x53, minor := 0, d := .dst, a := .src, c := .src, subs := (List.range 12), rnd := true, mask := 0x1f7, more := laneMore, make := fun r => .hscan r.g (Coll.ofMod r.mod) (.ofCode r.sub) (r.bit 8) (.ofCode r.rnd) (.ofCode r.d) (.ofCode r.a) (.ofCode r.c) },
  { major := 0x54, minor := 0, d := .dst, a := .src, c := .src, subs := [0, 1], mask := 0xf7, more := laneMore, make := fun r => .lmatch r.g (Coll.ofMod r.mod) (decide (r.sub = 1)) (.ofCode r.d) (.ofCode r.a) (.ofCode r.c) },
  { major := 0x55, minor := 0, d := .dst, c := .src, mask := 0xf7, more := laneMore, make := fun r => .tmask r.g (Coll.ofMod r.mod) (.ofCode r.d) (.ofCode r.c) },
  { major := 0x55, minor := 1, d := .dst, c := .src, mask := 0xf7, more := laneMore, make := fun r => .elect r.g (Coll.ofMod r.mod) (.ofCode r.d) (.ofCode r.c) },
  { major := 0x58, minor := 0, d := .dst, a := .src, subs := [0, 1, 2, 3, 4, 8, 9], mask := memMask, more := memMore, make := fun r => .ld r.g r.ps (MemOp.ofMod r.mod) (.ofCode (r.sub % 8)) (decide (r.sub / 8 = 1)) (.ofCode r.d) (.ofCode r.a) },
  { major := 0x59, minor := 0, a := .src, b := .src, subs := [0, 1, 2, 3, 4], mask := memMask, more := memMore, make := fun r => .st r.g r.ps (MemOp.ofMod r.mod) (.ofCode r.sub) (.ofCode r.a) r.srcB },
  { major := 0x5a, minor := 0, d := .dst, a := .src, b := .src, subs := [2, 3], rnd := true, mask := 0xFCFFFFFF, more := (fun r => memMore r ++ mIn (r.fld 23 20 < 14)), make := fun r => .atom r.g r.ps (MemOp.ofMod r.mod) (.ofCode (r.fld 23 20)) (.ofCode r.sub) (.ofCode r.rnd) (.ofCode r.d) (.ofCode r.a) r.srcB },
  { major := 0x5b, minor := 0, d := .dst, a := .src, b := .src, c := .src, subs := [2, 3], mask := memMask, more := memMore, make := fun r => .cas r.g r.ps (MemOp.ofMod r.mod) (.ofCode r.sub) (.ofCode r.d) (.ofCode r.a) r.srcB (.ofCode r.c) },
  { major := 0x5c, minor := 0, a := .src, b := .src, subs := [2, 3], rnd := true, mask := 0xFCFFFFFF, more := (fun r => memMore r ++ mIn (r.fld 23 20 < 14)), make := fun r => .red r.g r.ps (MemOp.ofMod r.mod) (.ofCode (r.fld 23 20)) (.ofCode r.sub) (.ofCode r.rnd) (.ofCode r.a) r.srcB },
  { major := 0x5d, minor := 0, d := .dst, a := .src, b := .src, subs := [3], mask := memMask, more := memMore, make := fun r => .evadd r.g r.ps (MemOp.ofMod r.mod) (.ofCode r.d) (.ofCode r.a) r.srcB },
  { major := 0x5e, minor := 0, a := .src, subs := [0, 1], mask := 0x7c0fffff, more := memMore, make := fun r => .pref r.g (MemOp.ofMod r.mod) (decide (r.sub = 1)) (.ofCode r.a) },
  { major := 0x5f, minor := 0, mask := 0x80000000, make := fun r => .publ r.g r.ps },
  { major := 0x5f, minor := 1, make := fun r => .invl r.g },
  { major := 0x60, minor := 0, a := .src, b := .src, subs := [2, 3, 4], mask := 0xfd0fffff, more := memMore, make := fun r => .movs r.g r.ps (MemOp.ofMod r.mod) (r.bit 24) (.ofCode r.sub) (.ofCode r.a) r.srcB },
  { major := 0x61, minor := 0, b := .src, make := fun r => .setmode r.g r.srcB }]

/-- Rows of MAJORs 0x64 to 0x6d. -/
def rowsEng : List Row := [
  { major := 0x64, minor := 0, a := .src, b := .src, c := .src, mask := engMask, more := (fun r => mIn (r.fld 30 28 < 5 && r.fld 27 25 < 5)), make := fun r => .cpy r.g r.ps (.ofCode (r.fld 30 28)) (.ofCode (r.fld 27 25)) (.ofCode r.a) r.srcB (.ofCode r.c) },
  { major := 0x65, minor := 0, a := .src, b := .src, c := .vreg, mask := engMask, more := (fun r => mIn (r.fld 30 28 < 5 && r.fld 27 25 < 5)), make := fun r => .cpy2 r.g r.ps (.ofCode (r.fld 30 28)) (.ofCode (r.fld 27 25)) (.ofCode r.a) r.srcB r.c },
  { major := 0x66, minor := 0, a := .src, b := .src, c := .src, mask := engMask, more := (fun r => mIn (r.fld 30 28 = 2 && r.fld 27 25 < 5)), make := fun r => .cpyw r.g r.ps (.ofCode (r.fld 27 25)) (.ofCode r.a) r.srcB (.ofCode r.c) },
  { major := 0x67, minor := 0, a := .src, b := .src, c := .vreg, mask := engMask, more := (fun r => mIn (r.fld 30 28 < 5 && r.fld 27 25 < 5)), make := fun r => .gath r.g r.ps (.ofCode (r.fld 30 28)) (.ofCode (r.fld 27 25)) (.ofCode r.a) r.srcB r.c },
  { major := 0x68, minor := 0, a := .src, b := .src, c := .vreg, mask := engMask, more := (fun r => mIn (r.fld 30 28 < 5 && r.fld 27 25 < 5)), make := fun r => .scat r.g r.ps (.ofCode (r.fld 30 28)) (.ofCode (r.fld 27 25)) (.ofCode r.a) r.srcB r.c },
  { major := 0x69, minor := 0, a := .src, b := .src, c := .src, subs := [0, 1, 2, 3], rnd := true, mask := engMask, more := (fun r => mIn (r.fld 30 28 < 5 && r.fld 27 25 < 5)), make := fun r => .sred r.g r.ps (.ofCode (r.fld 30 28)) (.ofCode (r.fld 27 25)) (decide (r.sub / 2 % 2 = 1)) (decide (r.sub % 2 = 1)) (.ofCode r.rnd) (.ofCode r.a) r.srcB (.ofCode r.c) },
  { major := 0x6a, minor := 0, a := .src, b := .src, c := .src, subs := sub16, rnd := true, sat := true, mask := 0xfef00000, more := (fun r => mIn (r.fld 30 28 < 5 && r.fld 27 25 < 5)), make := fun r => .scvt r.g r.ps (.ofCode (r.fld 30 28)) (.ofCode (r.fld 27 25)) (.ofCode (r.sub % 4)) (.ofCode (r.sub / 4)) (r.fld 23 20) (.ofCode r.rnd) r.sat (.ofCode r.a) r.srcB (.ofCode r.c) },
  { major := 0x6b, minor := 0, a := .src, b := .src, c := .src, mask := 0x8e000fff, more := (fun r => mIn (r.fld 27 25 < 5)), make := fun r => .rput r.g r.ps (.ofCode (r.fld 27 25)) (r.fld 11 0) (.ofCode r.a) r.srcB (.ofCode r.c) },
  { major := 0x6c, minor := 0, a := .src, b := .src, c := .src, mask := 0xf0000fff, more := (fun r => mIn (r.fld 30 28 < 5)), make := fun r => .rget r.g r.ps (.ofCode (r.fld 30 28)) (r.fld 11 0) (.ofCode r.a) r.srcB (.ofCode r.c) },
  { major := 0x6d, minor := 0, a := .src, b := .src, mask := 0x80000fff, make := fun r => .rsig r.g r.ps (r.fld 11 0) (.ofCode r.a) r.srcB }]

/-- Rows of MAJORs 0x6e to 0x74. -/
def rowsMat : List Row := [
  { major := 0x6e, minor := 0, p7 := true, mask := 0x70000000, make := fun r => .mzero (r.fld 30 28) },
  { major := 0x6f, minor := 0, a := .vreg, b := .src, c := .vopt, p7 := true, mask := 0xf80ff01f, make := fun r => .mma r.ps (MmaF.ofMod r.mod) r.a r.srcB (optV r.c) },
  { major := 0x70, minor := 0, a := .vreg, b := .src, c := .vopt, p7 := true, mask := 0xfc0ff01f, make := fun r => .mmag r.ps (r.bit 26) (MmaF.ofMod r.mod) r.a r.srcB (optV r.c) },
  { major := 0x71, minor := 0, d := .vreg, b := .src, subs := [0, 1, 2, 3], rnd := true, sat := true, mask := 0xf010f000, make := fun r => .mdrain r.g r.ps (r.fld 30 28) (.ofCode r.sub) (r.bit 20) (r.fld 15 12) (.ofCode r.rnd) r.sat r.d r.srcB },
  { major := 0x72, minor := 0, a := .src, b := .src, subs := [0, 1, 2], rnd := true, sat := true, mask := 0xf3f00000, more := (fun r => mIn (r.fld 25 23 < 5 && r.fld 22 21 < 3)), make := fun r => .mdst r.g r.ps (r.fld 30 28) (.ofCode r.sub) (r.bit 20) (.ofCode (r.fld 25 23)) (.ofCode (r.fld 22 21)) (.ofCode r.rnd) r.sat (.ofCode r.a) r.srcB },
  { major := 0x73, minor := 0, a := .src, b := .src, mask := 0x70000000, make := fun r => .mscale r.g (r.fld 30 28) (.ofCode r.a) r.srcB },
  { major := 0x74, minor := 0, d := .dst, mask := 0xf0000800, make := fun r => .mstat r.g r.ps (r.fld 30 28) (r.bit 11) (.ofCode r.d) }]

/-- Rows of MAJORs 0x76 to 0x7e. -/
def rowsSys : List Row := [
  { major := 0x76, minor := 0, a := .vreg, b := .src, subs := sub16, p7 := true, make := fun r => .will r.a r.sub r.srcB },
  { major := 0x77, minor := 0, d := .vreg, a := .src, subs := sub16, mask := 0x80000000, make := fun r => .claim r.g r.ps r.d r.sub (.ofCode r.a) },
  { major := 0x77, minor := 1, d := .dst, mask := 0x80000000, make := fun r => .estat r.g r.ps (.ofCode r.d) },
  { major := 0x78, minor := 0, d := .dst, a := .src, b := .src, c := .src, mask := 0xf0000000, more := (fun r => mIn (r.fld 30 28 < 5)), make := fun r => .deal r.g r.ps (.ofCode (r.fld 30 28)) (.ofCode r.d) (.ofCode r.a) r.srcB (.ofCode r.c) },
  { major := 0x79, minor := 0, d := .dst, a := .src, mask := 0xf0000000, more := (fun r => mIn (r.fld 30 28 < 5)), make := fun r => .launch r.g r.ps (.ofCode (r.fld 30 28)) (.ofCode r.d) (.ofCode r.a) },
  { major := 0x7a, minor := 0, d := .dst, a := .src, subs := [0, 1, 2, 3], mask := 0x80000000, make := mkDeckq },
  { major := 0x7b, minor := 0, d := .dst, mask := 0x1, make := fun r => if r.bit 0 then .chkeTrap r.g (.ofCode r.d) else .chke r.g (.ofCode r.d) },
  { major := 0x7c, minor := 0, a := .vreg, mask := 0x70000000, more := (fun r => mIn (r.fld 30 28 < 5)), make := fun r => .setseg r.g (.ofCode (r.fld 30 28)) r.a },
  { major := 0x7c, minor := 1, d := .dst, b := .src, mask := 0x1ff1fff, more := movpMore, make := mkMovp },
  { major := 0x7d, minor := 0, d := .dst, a := .src, make := fun r => .keyz r.g (.ofCode r.d) (.ofCode r.a) },
  { major := 0x7e, minor := 0, d := .dst, a := .src, mask := 0x80000000, make := fun r => .scrub r.g r.ps (.ofCode r.d) (.ofCode r.a) }]

/-- The opcode map of the extended forms (06 Tables 6.9 and 6.11 to 6.13). -/
def rows : List Row := rowsCtl ++ rowsInt ++ rowsFloat ++ rowsLane ++ rowsEng ++ rowsMat ++ rowsSys

/-- The row of a MAJOR and MINOR. -/
def rowOf (major minor : Nat) : List Row → Option Row
  | [] => none
  | w :: ws => if w.major = major ∧ w.minor = minor then some w else rowOf major minor ws

/-- A row of the base forms: two sources, or one (06 R135). -/
inductive BaseMk where
  | two (f : Dst → Src → Src → Instr)
  | one (f : Dst → Src → Instr)

/-- The mnemonics marked b in the opcode map (06 Tables 6.9 and 6.11). -/
def baseRows : List (Nat × Nat × BaseMk) := [
  (0x10, 0, .two .iadd),
  (0x10, 1, .two .isub),
  (0x11, 0, .two .imul),
  (0x11, 1, .two .imulh),
  (0x13, 0, .two .imin),
  (0x13, 1, .two .imax),
  (0x14, 0, .one .iabs),
  (0x14, 1, .one .ineg),
  (0x15, 0, .two .and),
  (0x15, 1, .two .or),
  (0x15, 2, .two .xor),
  (0x15, 3, .two .andn),
  (0x16, 0, .one .not),
  (0x17, 0, .two .shl),
  (0x17, 1, .two .shr),
  (0x17, 2, .two .sar),
  (0x18, 1, .two .rot),
  (0x1a, 0, .one .popc),
  (0x1a, 1, .one .clz),
  (0x1a, 2, .one .ctz),
  (0x1a, 3, .one .brev),
  (0x1f, 0, .one .mov),
  (0x22, 0, .two .iadd64),
  (0x30, 0, .two .fadd),
  (0x30, 1, .two .fsub),
  (0x30, 2, .two .fmul),
  (0x32, 0, .two .fmin),
  (0x32, 1, .two .fmax),
  (0x35, 0, .one .frcp),
  (0x35, 1, .one .frsq),
  (0x35, 2, .one .fsqrt),
  (0x36, 0, .one .fexp2),
  (0x36, 1, .one .flog2),
  (0x36, 2, .one .ftanh),
  (0x37, 0, .one .fsin),
  (0x37, 1, .one .fcos),
  (0x38, 0, .two .hadd2),
  (0x38, 1, .two .hmul2),
  (0x39, 0, .two .hmin2),
  (0x39, 1, .two .hmax2)]

def baseRowOf (major minor : Nat) : List (Nat × Nat × BaseMk) → Option BaseMk
  | [] => none
  | (a, b, m) :: ws => if a = major ∧ b = minor then some m else baseRowOf major minor ws

/-! ## Decoding words -/

/-- An illegal encoding: the word within the instruction at which it is found, and why. -/
structure Illegal where
  word : Nat
  why : Why
deriving DecidableEq, Repr

/-- The failing check of the lowest word. -/
def firstBad : List Chk → Option Chk
  | [] => none
  | c :: cs =>
    match firstBad cs with
    | none => if c.ok then none else some c
    | some e => if c.ok then some e else if c.word ≤ e.word then some c else some e

/-- The result of decoding with its checks. -/
def checked (cs : List Chk) (i : Instr) : Except Illegal Instr :=
  match firstBad cs with
  | none => .ok i
  | some c => .error ⟨c.word, c.why⟩

/-- Words an instruction takes, from the length code (06 Table 6.1). -/
def lenWords (w0 : Nat) : Nat :=
  match w0 % 4 with
  | 0 => 1
  | 1 => 3
  | 2 => 3
  | _ => 5

/-- The fields of an extended instruction. -/
def rawOf (w0 w1 w2 : Nat) (lit : Option W64) : Raw :=
  { major := bitsAt w0 8 2, minor := bitsAt w0 10 9, d := bitsAt w0 20 11, a := bitsAt w0 30 21,
    b := bitsAt w1 9 0, c := bitsAt w1 19 10, sub := bitsAt w1 31 28, sat := decide (bitsAt w1 27 27 = 1),
    rnd := bitsAt w1 26 24, g := { p := bitsAt w1 22 20, neg := decide (bitsAt w1 23 23 = 1) }, mod := w2, lit := lit }

/-- Decoding of an extended instruction from its fields; `w31` is bit 31 of word 0. -/
def decodeRaw (w31 : Nat) (r : Raw) : Except Illegal Instr :=
  match rowOf r.major r.minor rows with
  | none => .error ⟨0, .opcode⟩
  | some w => checked (⟨0, .reserved, decide (w31 = 0)⟩ :: (w.checks r ++ (w.make r).checks)) (w.make r)

/-- Decoding of a base instruction from its fields (06 R135). -/
def decodeBase (major minor d a b : Nat) (lit : Option W64) : Except Illegal Instr :=
  match baseRowOf major minor baseRows with
  | none => .error ⟨0, .baseForm⟩
  | some (.one f) =>
    let i := f (.ofCode7 d) (.ofCode7 a)
    checked ([⟨0, .literal, lit.isNone⟩, ⟨0, .destination, dst7Ok d⟩, ⟨0, .operandCode, src7Ok a⟩,
      ⟨0, .unusedField, decide (b = 114)⟩] ++ i.checks) i
  | some (.two f) =>
    let i := f (.ofCode7 d) (.ofCode7 a) (match lit with | some w => .lit w | none => .ofCode7 b)
    checked ([⟨0, .destination, dst7Ok d⟩, ⟨0, .operandCode, src7Ok a⟩,
      ⟨0, .operandCode, if lit.isSome then decide (b = 0) else src7Ok b⟩] ++ i.checks) i

/-- A literal from its two words, low word first (06 R133). -/
def litOf (lo hi : W32) : W64 := hi ++ lo

/-- Decoding of an instruction at the head of a list of words: the instruction, or why its words are illegal. The words
after it are not looked at. A clause header is not an instruction of a clause (06 R149). -/
def decodeWords : List W32 → Except Illegal Instr
  | [] => .error ⟨0, .length⟩
  | w0 :: ws =>
    let n := w0.toNat
    if n = 0 then .ok .nop
    else if n % 4 = 0 then
      decodeBase (bitsAt n 8 2) (bitsAt n 10 9) (bitsAt n 17 11) (bitsAt n 24 18) (bitsAt n 31 25) none
    else if n % 4 = 2 then
      match ws with
      | lo :: hi :: _ =>
        decodeBase (bitsAt n 8 2) (bitsAt n 10 9) (bitsAt n 17 11) (bitsAt n 24 18) (bitsAt n 31 25) (some (litOf lo hi))
      | _ => .error ⟨0, .length⟩
    else if n % 4 = 1 then
      match ws with
      | w1 :: w2 :: _ => decodeRaw (bitsAt n 31 31) (rawOf n w1.toNat w2.toNat none)
      | _ => .error ⟨0, .length⟩
    else
      match ws with
      | w1 :: w2 :: lo :: hi :: _ => decodeRaw (bitsAt n 31 31) (rawOf n w1.toNat w2.toNat (some (litOf lo hi)))
      | _ => .error ⟨0, .length⟩

/-- Decoding of the first word of a clause (06 Table 6.7). -/
def decodeHeader (w : W32) : Except Illegal Instr :=
  let n := w.toNat
  if n % 512 = 0x1FC ∧ n / 2 ^ 31 = 0 then
    let i := Instr.clauseHeader (bitsAt n 30 27) (bitsAt n 26 23) (bitsAt n 22 11) (bitsAt n 10 9)
    checked i.checks i
  else .error ⟨0, .header⟩

/-- One instruction of a clause: its offset in words from the header, and the instruction. -/
abbrev Placed := Nat × Instr

/-- Whether an instruction ends its clause (06 R151). -/
def Instr.endsClause : Instr → Bool
  | .bra _ _ | .br _ _ _ | .brx _ _ | .call _ _ _ | .callx _ _ _ | .ret _ _ | .exit _ | .suspend _ _ _ _ _ _
  | .trap _ _ | .tret => true
  | _ => false

/-- The instructions of a clause body from word `at` on, or the first word that makes it illegal (06 R157, 23 R394,
R395). `ended` is true after an instruction that ends the clause; `bar` says which barrier levels are legal. -/
def decodeBody (bar : Nat → Bool) : Nat → Nat → Bool → List W32 → Except (Nat × Why) (List Placed)
  | 0, _, _, _ => .ok []
  | _ + 1, _, _, [] => .ok []
  | fuel + 1, i, ended, w :: ws =>
    if w = 0 then decodeBody bar fuel (i + 1) ended ws
    else if ended then .error (i, .afterEnd)
    else if w.toNat / 4 % 128 = 0x7F then .error (i, .header)
    else
      match decodeWords (w :: ws) with
      | .error e => .error (i + e.word, e.why)
      | .ok x =>
        let bad := match x with | .bar k => !bar k | _ => false
        if bad then .error (i + 2, .level)
        else
          match decodeBody bar fuel (i + lenWords w.toNat) x.endsClause (ws.drop (lenWords w.toNat - 1)) with
          | .error e => .error e
          | .ok xs => .ok ((i, x) :: xs)

/-! ## Encoding -/

/-- Words of an extended instruction from its fields (06 Table 6.4). -/
def Raw.words (r : Raw) : List W32 :=
  let w1 := BitVec.ofNat 32 (r.sub * 2 ^ 28 + r.sat.toNat * 2 ^ 27 + r.rnd * 2 ^ 24 + r.g.neg.toNat * 2 ^ 23 +
    r.g.p * 2 ^ 20 + r.c * 2 ^ 10 + r.b)
  let w0 (len : Nat) := BitVec.ofNat 32 (r.a * 2 ^ 21 + r.d * 2 ^ 11 + r.minor * 2 ^ 9 + r.major * 4 + len)
  match r.lit with
  | none => [w0 1, w1, BitVec.ofNat 32 r.mod]
  | some v => [w0 3, w1, BitVec.ofNat 32 r.mod, v.setWidth 32, (v >>> 32).setWidth 32]

/-- Field B and literal of a source operand. -/
def Src.fieldB (b : Src) : Nat × Option W64 :=
  match b with
  | .lit w => (0, some w)
  | b => (b.code, none)

/-- Words of a base instruction (06 Table 6.2). -/
def baseWords (major minor : Nat) (d : Dst) (a b : Src) : List W32 :=
  let w0 (len : Nat) := BitVec.ofNat 32 (b.code7 * 2 ^ 25 + a.code7 * 2 ^ 18 + d.code7 * 2 ^ 11 + minor * 2 ^ 9 +
    major * 4 + len)
  match b with
  | .lit v => [w0 2, v.setWidth 32, (v >>> 32).setWidth 32]
  | _ => [w0 0]

/-- An extended instruction with operand B. -/
def Raw.withB (r : Raw) (b : Src) : Raw := { r with b := b.fieldB.1, lit := b.fieldB.2 }

/-- The fields of an extended instruction; none for the header, NOP, the base forms and the events. -/
def Instr.raw : Instr → Option Raw
  | .bra g off => some { major := 0x1, minor := 0, g := g, mod := off.toNat }
  | .br g a off => some { major := 0x2, minor := 0, g := g, a := a.code, mod := off.toNat }
  | .brx g a => some { major := 0x3, minor := 0, g := g, a := a.code }
  | .call g d off => some { major := 0x4, minor := 0, g := g, d := d.code, mod := off.toNat }
  | .callx g d a => some { major := 0x5, minor := 0, g := g, d := d.code, a := a.code }
  | .ret g a => some { major := 0x6, minor := 0, g := g, a := a.code }
  | .meld win => some { major := 0x7, minor := 0, mod := win }
  | .exit g => some { major := 0x8, minor := 0, g := g }
  | .draw d => some { major := 0x9, minor := 0, d := d.code }
  | .cut r1 r2 r3 => some { major := 0xa, minor := 0, a := rngCode r1, b := rngCode r2, c := rngCode r3, mod := r3.len * 2 ^ 12 + r2.len * 2 ^ 6 + r1.len }
  | .suspend g a b off c n => some (Raw.withB { major := 0xb, minor := 0, g := g, a := a.code, c := c, sub := n, mod := off.toNat } b)
  | .waitp g a peg => some { major := 0xc, minor := 0, g := g, a := a.code, mod := peg }
  | .bar k => some { major := 0xd, minor := 0, mod := k }
  | .yield => some { major := 0xe, minor := 0 }
  | .yieldSlot => some { major := 0xe, minor := 0, mod := 1 }
  | .trap g code => some { major := 0xf, minor := 0, g := g, mod := code }
  | .tret => some { major := 0xf, minor := 1 }
  | .iaddExt g ty sat d a b => some (Raw.withB { major := 0x10, minor := 0, g := g, d := d.code, a := a.code, sub := ty.code, sat := sat } b)
  | .isubExt g ty sat d a b => some (Raw.withB { major := 0x10, minor := 1, g := g, d := d.code, a := a.code, sub := ty.code, sat := sat } b)
  | .iaddc g pen pd d a b c => some (Raw.withB { major := 0x10, minor := 2, g := g, d := d.code, a := a.code, c := c.code, mod := 8 * pen.toNat + pd } b)
  | .imulExt g ty sat d a b => some (Raw.withB { major := 0x11, minor := 0, g := g, d := d.code, a := a.code, sub := ty.code, sat := sat } b)
  | .imulhExt g ty d a b => some (Raw.withB { major := 0x11, minor := 1, g := g, d := d.code, a := a.code, sub := ty.code } b)
  | .imad g ty sat d a b c => some (Raw.withB { major := 0x12, minor := 0, g := g, d := d.code, a := a.code, c := c.code, sub := ty.code, sat := sat } b)
  | .imadw g sgn sat d a b c => some (Raw.withB { major := 0x12, minor := 1, g := g, d := d.code, a := a.code, c := c.code, sub := 2 * sgn.toNat, sat := sat } b)
  | .iminExt g ty d a b => some (Raw.withB { major := 0x13, minor := 0, g := g, d := d.code, a := a.code, sub := ty.code } b)
  | .imaxExt g ty d a b => some (Raw.withB { major := 0x13, minor := 1, g := g, d := d.code, a := a.code, sub := ty.code } b)
  | .iabsExt g ty sat d a => some { major := 0x14, minor := 0, g := g, d := d.code, a := a.code, sub := ty.code, sat := sat }
  | .inegExt g ty sat d a => some { major := 0x14, minor := 1, g := g, d := d.code, a := a.code, sub := ty.code, sat := sat }
  | .andExt g d a b => some (Raw.withB { major := 0x15, minor := 0, g := g, d := d.code, a := a.code } b)
  | .orExt g d a b => some (Raw.withB { major := 0x15, minor := 1, g := g, d := d.code, a := a.code } b)
  | .xorExt g d a b => some (Raw.withB { major := 0x15, minor := 2, g := g, d := d.code, a := a.code } b)
  | .andnExt g d a b => some (Raw.withB { major := 0x15, minor := 3, g := g, d := d.code, a := a.code } b)
  | .notExt g d a => some { major := 0x16, minor := 0, g := g, d := d.code, a := a.code }
  | .shlExt g sz d a b => some (Raw.withB { major := 0x17, minor := 0, g := g, d := d.code, a := a.code, sub := 4 * sz.code } b)
  | .shrExt g sz d a b => some (Raw.withB { major := 0x17, minor := 1, g := g, d := d.code, a := a.code, sub := 4 * sz.code } b)
  | .sarExt g sz d a b => some (Raw.withB { major := 0x17, minor := 2, g := g, d := d.code, a := a.code, sub := 4 * sz.code } b)
  | .shf g r d a b c => some (Raw.withB { major := 0x18, minor := 0, g := g, d := d.code, a := a.code, c := c.code, mod := r.toNat } b)
  | .rotExt g sz r d a b => some (Raw.withB { major := 0x18, minor := 1, g := g, d := d.code, a := a.code, sub := 4 * sz.code, mod := r.toNat } b)
  | .bfe g sgn d a b => some (Raw.withB { major := 0x19, minor := 0, g := g, d := d.code, a := a.code, sub := 2 * sgn.toNat } b)
  | .bfi g d a b c => some (Raw.withB { major := 0x19, minor := 1, g := g, d := d.code, a := a.code, c := c.code } b)
  | .popcExt g d a => some { major := 0x1a, minor := 0, g := g, d := d.code, a := a.code }
  | .clzExt g d a => some { major := 0x1a, minor := 1, g := g, d := d.code, a := a.code }
  | .ctzExt g d a => some { major := 0x1a, minor := 2, g := g, d := d.code, a := a.code }
  | .brevExt g d a => some { major := 0x1a, minor := 3, g := g, d := d.code, a := a.code }
  | .bsel g d a b c => some (Raw.withB { major := 0x1b, minor := 0, g := g, d := d.code, a := a.code, c := c.code } b)
  | .iset g ty cc pen pd d a b => some (Raw.withB { major := 0x1c, minor := 0, g := g, d := d.code, a := a.code, sub := ty.code, mod := 128 * pen.toNat + 16 * pd + cc.code } b)
  | .pset g pd lut d a b c => some (Raw.withB { major := 0x1d, minor := 0, g := g, d := d.code, a := a.code, c := c.code, mod := 256 * pd + lut.toNat } b)
  | .sel g d a b c => some (Raw.withB { major := 0x1e, minor := 0, g := g, d := d.code, a := a.code, c := c.code } b)
  | .movExt g d a => some { major := 0x1f, minor := 0, g := g, d := d.code, a := a.code }
  | .movx g d a base w => some { major := 0x20, minor := 0, g := g, d := d.code, a := a.code, b := base, mod := w }
  | .movxw g base a b w => some (Raw.withB { major := 0x20, minor := 1, g := g, d := base, a := a.code, mod := w } b)
  | .lea g sgn sh d a b => some (Raw.withB { major := 0x21, minor := 0, g := g, d := d.code, a := a.code, sub := 2 * sgn.toNat, mod := sh } b)
  | .iadd64Ext g sgn sat d a b => some (Raw.withB { major := 0x22, minor := 0, g := g, d := d.code, a := a.code, sub := 2 * sgn.toNat, sat := sat } b)
  | .faddExt g r d a b => some (Raw.withB { major := 0x30, minor := 0, g := g, d := d.code, a := a.code, rnd := r.code } b)
  | .fsubExt g r d a b => some (Raw.withB { major := 0x30, minor := 1, g := g, d := d.code, a := a.code, rnd := r.code } b)
  | .fmulExt g r d a b => some (Raw.withB { major := 0x30, minor := 2, g := g, d := d.code, a := a.code, rnd := r.code } b)
  | .fmac g r np nc d a b c => some (Raw.withB { major := 0x31, minor := 0, g := g, d := d.code, a := a.code, c := c.code, rnd := r.code, mod := 2 * np.toNat + nc.toNat } b)
  | .fminExt g d a b => some (Raw.withB { major := 0x32, minor := 0, g := g, d := d.code, a := a.code } b)
  | .fmaxExt g d a b => some (Raw.withB { major := 0x32, minor := 1, g := g, d := d.code, a := a.code } b)
  | .fset g cc pen pd d a b => some (Raw.withB { major := 0x33, minor := 0, g := g, d := d.code, a := a.code, mod := 128 * pen.toNat + 16 * pd + cc.code } b)
  | .fclass g pen pd d a b => some (Raw.withB { major := 0x34, minor := 0, g := g, d := d.code, a := a.code, mod := 128 * pen.toNat + 16 * pd } b)
  | .frcpExt g d a => some { major := 0x35, minor := 0, g := g, d := d.code, a := a.code }
  | .frsqExt g d a => some { major := 0x35, minor := 1, g := g, d := d.code, a := a.code }
  | .fsqrtExt g r d a => some { major := 0x35, minor := 2, g := g, d := d.code, a := a.code, rnd := r.code }
  | .fexp2Ext g d a => some { major := 0x36, minor := 0, g := g, d := d.code, a := a.code }
  | .flog2Ext g d a => some { major := 0x36, minor := 1, g := g, d := d.code, a := a.code }
  | .ftanhExt g d a => some { major := 0x36, minor := 2, g := g, d := d.code, a := a.code }
  | .fsinExt g d a => some { major := 0x37, minor := 0, g := g, d := d.code, a := a.code }
  | .fcosExt g d a => some { major := 0x37, minor := 1, g := g, d := d.code, a := a.code }
  | .hadd2Ext g bf r sat nb d a b => some (Raw.withB { major := 0x38, minor := 0, g := g, d := d.code, a := a.code, sub := bf.toNat, rnd := r.code, sat := sat, mod := nb.toNat } b)
  | .hmul2Ext g bf r sat d a b => some (Raw.withB { major := 0x38, minor := 1, g := g, d := d.code, a := a.code, sub := bf.toNat, rnd := r.code, sat := sat } b)
  | .hfma2 g bf r sat np nc d a b c => some (Raw.withB { major := 0x38, minor := 2, g := g, d := d.code, a := a.code, c := c.code, sub := bf.toNat, rnd := r.code, sat := sat, mod := 2 * np.toNat + nc.toNat } b)
  | .hmin2Ext g bf d a b => some (Raw.withB { major := 0x39, minor := 0, g := g, d := d.code, a := a.code, sub := bf.toNat } b)
  | .hmax2Ext g bf d a b => some (Raw.withB { major := 0x39, minor := 1, g := g, d := d.code, a := a.code, sub := bf.toNat } b)
  | .f2i g src sgn w64 half r d a => some { major := 0x3a, minor := 0, g := g, d := d.code, a := a.code, sub := 4 * src.code + 2 * sgn.toNat + w64.toNat, rnd := r.code, mod := half.toNat }
  | .i2f g dst sgn w64 r sat d a => some { major := 0x3a, minor := 1, g := g, d := d.code, a := a.code, sub := 4 * dst.code + 2 * sgn.toNat + w64.toNat, rnd := r.code, sat := sat }
  | .fcvt g dst src half r sat d a b => some (Raw.withB { major := 0x3b, minor := 0, g := g, d := d.code, a := a.code, sub := 4 * src.code + dst.code, rnd := r.code, sat := sat, mod := half.toNat } b)
  | .qscale g f d a => some { major := 0x3c, minor := 0, g := g, d := d.code, a := a, mod := f }
  | .qpack g f r sat d a b => some (Raw.withB { major := 0x3d, minor := 0, g := g, d := d.code, a := a, rnd := r.code, sat := sat, mod := f } b)
  | .qunpk g f d a b => some (Raw.withB { major := 0x3d, minor := 1, g := g, d := d, a := a.code, mod := f } b)
  | .psplit g f pl d a => some { major := 0x3e, minor := 0, g := g, d := d.code, a := a, mod := 16 * pl.code + f }
  | .pjoin g f pl grp d a b => some (Raw.withB { major := 0x3e, minor := 1, g := g, d := d.code, a := a.code, mod := 64 * grp + 16 * pl.code + f } b)
  | .setfmt g f b => some (Raw.withB { major := 0x3f, minor := 0, g := g, mod := f } b)
  | .shfl g k m w64 d a b c => some (Raw.withB { major := 0x50, minor := 0, g := g, d := d.code, a := a.code, c := c.code, sub := w64.toNat, mod := 256 * m.code + k.code } b)
  | .vote g k m d a c => some { major := 0x51, minor := 0, g := g, d := d.code, a := a.code, c := c.code, mod := 256 * m.code + k.code }
  | .hred g k op r d a c => some { major := 0x52, minor := 0, g := g, d := d.code, a := a.code, c := c.code, sub := op.code, rnd := r.code, mod := k.code }
  | .hscan g k op ex r d a c => some { major := 0x53, minor := 0, g := g, d := d.code, a := a.code, c := c.code, sub := op.code, rnd := r.code, mod := 256 * ex.toNat + k.code }
  | .lmatch g k w64 d a c => some { major := 0x54, minor := 0, g := g, d := d.code, a := a.code, c := c.code, sub := w64.toNat, mod := k.code }
  | .tmask g k d c => some { major := 0x55, minor := 0, g := g, d := d.code, c := c.code, mod := k.code }
  | .elect g k d c => some { major := 0x55, minor := 1, g := g, d := d.code, c := c.code, mod := k.code }
  | .ld g ps m sz sx d a => some { major := 0x58, minor := 0, g := g, d := d.code, a := a.code, sub := 8 * sx.toNat + sz.code, mod := 2 ^ 31 * ps.toNat + m.code }
  | .st g ps m sz a b => some (Raw.withB { major := 0x59, minor := 0, g := g, a := a.code, sub := sz.code, mod := 2 ^ 31 * ps.toNat + m.code } b)
  | .atom g ps m op sz r d a b => some (Raw.withB { major := 0x5a, minor := 0, g := g, d := d.code, a := a.code, sub := sz.code, rnd := r.code, mod := 2 ^ 31 * ps.toNat + 2 ^ 20 * op.code + m.code } b)
  | .cas g ps m sz d a b c => some (Raw.withB { major := 0x5b, minor := 0, g := g, d := d.code, a := a.code, c := c.code, sub := sz.code, mod := 2 ^ 31 * ps.toNat + m.code } b)
  | .red g ps m op sz r a b => some (Raw.withB { major := 0x5c, minor := 0, g := g, a := a.code, sub := sz.code, rnd := r.code, mod := 2 ^ 31 * ps.toNat + 2 ^ 20 * op.code + m.code } b)
  | .evadd g ps m d a b => some (Raw.withB { major := 0x5d, minor := 0, g := g, d := d.code, a := a.code, sub := 3, mod := 2 ^ 31 * ps.toNat + m.code } b)
  | .pref g m l2 a => some { major := 0x5e, minor := 0, g := g, a := a.code, sub := l2.toNat, mod := m.code }
  | .publ g ps => some { major := 0x5f, minor := 0, g := g, mod := 2 ^ 31 * ps.toNat }
  | .invl g => some { major := 0x5f, minor := 1, g := g }
  | .movs g ps m fs sz a b => some (Raw.withB { major := 0x60, minor := 0, g := g, a := a.code, sub := sz.code, mod := 2 ^ 31 * ps.toNat + 2 ^ 24 * fs.toNat + m.code } b)
  | .setmode g b => some (Raw.withB { major := 0x61, minor := 0, g := g } b)
  | .cpy g ps ds ss a b c => some (Raw.withB { major := 0x64, minor := 0, g := g, a := a.code, c := c.code, mod := 2 ^ 31 * ps.toNat + 2 ^ 28 * ds.code + 2 ^ 25 * ss.code } b)
  | .cpy2 g ps ds ss a b c => some (Raw.withB { major := 0x65, minor := 0, g := g, a := a.code, c := c, mod := 2 ^ 31 * ps.toNat + 2 ^ 28 * ds.code + 2 ^ 25 * ss.code } b)
  | .cpyw g ps ss a b c => some (Raw.withB { major := 0x66, minor := 0, g := g, a := a.code, c := c.code, mod := 2 ^ 31 * ps.toNat + 2 ^ 28 * 2 + 2 ^ 25 * ss.code } b)
  | .gath g ps ds ss a b c => some (Raw.withB { major := 0x67, minor := 0, g := g, a := a.code, c := c, mod := 2 ^ 31 * ps.toNat + 2 ^ 28 * ds.code + 2 ^ 25 * ss.code } b)
  | .scat g ps ds ss a b c => some (Raw.withB { major := 0x68, minor := 0, g := g, a := a.code, c := c, mod := 2 ^ 31 * ps.toNat + 2 ^ 28 * ds.code + 2 ^ 25 * ss.code } b)
  | .sred g ps ds ss bf mx r a b c => some (Raw.withB { major := 0x69, minor := 0, g := g, a := a.code, c := c.code, sub := 2 * bf.toNat + mx.toNat, rnd := r.code, mod := 2 ^ 31 * ps.toNat + 2 ^ 28 * ds.code + 2 ^ 25 * ss.code } b)
  | .scvt g ps ds ss dst src f r sat a b c => some (Raw.withB { major := 0x6a, minor := 0, g := g, a := a.code, c := c.code, sub := 4 * src.code + dst.code, rnd := r.code, sat := sat, mod := 2 ^ 31 * ps.toNat + 2 ^ 28 * ds.code + 2 ^ 25 * ss.code + 2 ^ 20 * f } b)
  | .rput g ps ss peer a b c => some (Raw.withB { major := 0x6b, minor := 0, g := g, a := a.code, c := c.code, mod := 2 ^ 31 * ps.toNat + 2 ^ 25 * ss.code + peer } b)
  | .rget g ps ds peer a b c => some (Raw.withB { major := 0x6c, minor := 0, g := g, a := a.code, c := c.code, mod := 2 ^ 31 * ps.toNat + 2 ^ 28 * ds.code + peer } b)
  | .rsig g ps peer a b => some (Raw.withB { major := 0x6d, minor := 0, g := g, a := a.code, mod := 2 ^ 31 * ps.toNat + peer } b)
  | .mzero tile => some { major := 0x6e, minor := 0, mod := 2 ^ 28 * tile }
  | .mma ps m a b c => some (Raw.withB { major := 0x6f, minor := 0, a := a, c := optVCode c, mod := 2 ^ 31 * ps.toNat + m.code } b)
  | .mmag ps gs m a b c => some (Raw.withB { major := 0x70, minor := 0, a := a, c := optVCode c, mod := 2 ^ 31 * ps.toNat + 2 ^ 26 * gs.toNat + m.code } b)
  | .mdrain g ps tile of_ sm fo r sat d b => some (Raw.withB { major := 0x71, minor := 0, g := g, d := d, sub := of_.code, rnd := r.code, sat := sat, mod := 2 ^ 31 * ps.toNat + 2 ^ 28 * tile + 2 ^ 20 * sm.toNat + 2 ^ 12 * fo } b)
  | .mdst g ps tile of_ sm seg pol r sat a b => some (Raw.withB { major := 0x72, minor := 0, g := g, a := a.code, sub := of_.code, rnd := r.code, sat := sat, mod := 2 ^ 31 * ps.toNat + 2 ^ 28 * tile + 2 ^ 23 * seg.code + 2 ^ 21 * pol.code + 2 ^ 20 * sm.toNat } b)
  | .mscale g tile a b => some (Raw.withB { major := 0x73, minor := 0, g := g, a := a.code, mod := 2 ^ 28 * tile } b)
  | .mstat g ps tile chk d => some { major := 0x74, minor := 0, g := g, d := d.code, mod := 2 ^ 31 * ps.toNat + 2 ^ 28 * tile + 2 ^ 11 * chk.toNat }
  | .will a n b => some (Raw.withB { major := 0x76, minor := 0, a := a, sub := n } b)
  | .claim g ps d n a => some { major := 0x77, minor := 0, g := g, d := d, a := a.code, sub := n, mod := 2 ^ 31 * ps.toNat }
  | .estat g ps d => some { major := 0x77, minor := 1, g := g, d := d.code, mod := 2 ^ 31 * ps.toNat }
  | .deal g ps seg d a b c => some (Raw.withB { major := 0x78, minor := 0, g := g, d := d.code, a := a.code, c := c.code, mod := 2 ^ 31 * ps.toNat + 2 ^ 28 * seg.code } b)
  | .launch g ps seg d a => some { major := 0x79, minor := 0, g := g, d := d.code, a := a.code, mod := 2 ^ 31 * ps.toNat + 2 ^ 28 * seg.code }
  | .deckqPend g ps d a => some { major := 0x7a, minor := 0, g := g, d := d.code, a := a.code, sub := 0, mod := 2 ^ 31 * ps.toNat }
  | .deckqClose g ps d a => some { major := 0x7a, minor := 0, g := g, d := d.code, a := a.code, sub := 1, mod := 2 ^ 31 * ps.toNat }
  | .deckqState g ps d a => some { major := 0x7a, minor := 0, g := g, d := d.code, a := a.code, sub := 2, mod := 2 ^ 31 * ps.toNat }
  | .deckqCancel g ps d a => some { major := 0x7a, minor := 0, g := g, d := d.code, a := a.code, sub := 3, mod := 2 ^ 31 * ps.toNat }
  | .chke g d => some { major := 0x7b, minor := 0, g := g, d := d.code }
  | .chkeTrap g d => some { major := 0x7b, minor := 0, g := g, d := d.code, mod := 1 }
  | .setseg g seg a => some { major := 0x7c, minor := 0, g := g, a := a, mod := 2 ^ 28 * seg.code }
  | .movpRead g other ctx prn d => some { major := 0x7c, minor := 1, g := g, d := d.code, mod := 2 ^ 24 * other.toNat + 2 ^ 16 * ctx + prn }
  | .movpWrite g other ctx prn b => some (Raw.withB { major := 0x7c, minor := 1, g := g, mod := 2 ^ 24 * other.toNat + 2 ^ 16 * ctx + 2 ^ 12 + prn } b)
  | .keyz g d a => some { major := 0x7d, minor := 0, g := g, d := d.code, a := a.code }
  | .scrub g ps d a => some { major := 0x7e, minor := 0, g := g, d := d.code, a := a.code, mod := 2 ^ 31 * ps.toNat }
  | _ => none

/-- The words of a base form; none for any other instruction. -/
def Instr.baseEnc : Instr → Option (List W32)
  | .iadd d a b => some (baseWords 0x10 0 d a b)
  | .isub d a b => some (baseWords 0x10 1 d a b)
  | .imul d a b => some (baseWords 0x11 0 d a b)
  | .imulh d a b => some (baseWords 0x11 1 d a b)
  | .imin d a b => some (baseWords 0x13 0 d a b)
  | .imax d a b => some (baseWords 0x13 1 d a b)
  | .iabs d a => some (baseWords 0x14 0 d a .zero)
  | .ineg d a => some (baseWords 0x14 1 d a .zero)
  | .and d a b => some (baseWords 0x15 0 d a b)
  | .or d a b => some (baseWords 0x15 1 d a b)
  | .xor d a b => some (baseWords 0x15 2 d a b)
  | .andn d a b => some (baseWords 0x15 3 d a b)
  | .not d a => some (baseWords 0x16 0 d a .zero)
  | .shl d a b => some (baseWords 0x17 0 d a b)
  | .shr d a b => some (baseWords 0x17 1 d a b)
  | .sar d a b => some (baseWords 0x17 2 d a b)
  | .rot d a b => some (baseWords 0x18 1 d a b)
  | .popc d a => some (baseWords 0x1a 0 d a .zero)
  | .clz d a => some (baseWords 0x1a 1 d a .zero)
  | .ctz d a => some (baseWords 0x1a 2 d a .zero)
  | .brev d a => some (baseWords 0x1a 3 d a .zero)
  | .mov d a => some (baseWords 0x1f 0 d a .zero)
  | .iadd64 d a b => some (baseWords 0x22 0 d a b)
  | .fadd d a b => some (baseWords 0x30 0 d a b)
  | .fsub d a b => some (baseWords 0x30 1 d a b)
  | .fmul d a b => some (baseWords 0x30 2 d a b)
  | .fmin d a b => some (baseWords 0x32 0 d a b)
  | .fmax d a b => some (baseWords 0x32 1 d a b)
  | .frcp d a => some (baseWords 0x35 0 d a .zero)
  | .frsq d a => some (baseWords 0x35 1 d a .zero)
  | .fsqrt d a => some (baseWords 0x35 2 d a .zero)
  | .fexp2 d a => some (baseWords 0x36 0 d a .zero)
  | .flog2 d a => some (baseWords 0x36 1 d a .zero)
  | .ftanh d a => some (baseWords 0x36 2 d a .zero)
  | .fsin d a => some (baseWords 0x37 0 d a .zero)
  | .fcos d a => some (baseWords 0x37 1 d a .zero)
  | .hadd2 d a b => some (baseWords 0x38 0 d a b)
  | .hmul2 d a b => some (baseWords 0x38 1 d a b)
  | .hmin2 d a b => some (baseWords 0x39 0 d a b)
  | .hmax2 d a b => some (baseWords 0x39 1 d a b)
  | _ => none

/-- The words of an instruction, as the hardware stores them from the lowest address; none for an event. -/
def encode (i : Instr) : Option (List W32) :=
  match i with
  | .clauseHeader sb sa w c =>
    some [BitVec.ofNat 32 (sb * 2 ^ 27 + sa * 2 ^ 23 + w * 2 ^ 11 + c * 2 ^ 9 + 0x1FC)]
  | .nop => some [0]
  | i =>
    match i.baseEnc with
    | some ws => some ws
    | none => i.raw.map Raw.words

/-- Decoding of one word of code where a clause may begin: the header, or an instruction. -/
def decodeAny (ws : List W32) : Except Illegal Instr :=
  match ws with
  | w :: _ => if w.toNat % 512 = 0x1FC then decodeHeader w else decodeWords ws
  | [] => decodeWords ws

/-- Word `j` of an instruction numbered as the opcode table numbers it. -/
def tableWord (w j : Nat) : W32 := BitVec.ofNat 32 (w / 2 ^ (32 * j))

/-- The words of an instruction of `nbits` bits numbered as the opcode table numbers them, the bits above zero. -/
def tableWords (nbits w : Nat) : List W32 :=
  let v := w % 2 ^ nbits
  [tableWord v 0, tableWord v 1, tableWord v 2, tableWord v 3, tableWord v 4]

/-- The instruction the decoder reads from those words. -/
def decodeTableWord (nbits w : Nat) : Option Instr :=
  match decodeAny (tableWords nbits w) with
  | .ok i => some i
  | .error _ => none

end Sys2Proof
end

