-- ==== Sys2Proof/WellFormed.lean ====
section
/-! DEFINITION. Sys2Proof/WellFormed.lean: which instructions are well formed, and which rows of the table are events. -/

namespace Sys2Proof

/-- Whether an instruction is legal: every check of it holds (Sys2Proof/Decode.lean). -/
def Instr.wf (i : Instr) : Bool := i.checks.all Chk.ok

/-- Whether a step of the table is an event, which no instruction word names. -/
def Instr.isEvent : Instr → Bool
  | .meldWindowExpiry _ | .waitpGiveUp _ | .pegThresholdReached _ _ | .barrierComplete _ _ _ _
  | .homeLoad _ | .homeWrite _ | .homeAtomic _ | .opCompletion _ | .ptsTick _
  | .claimGrant _ | .engineIssuePoint _ | .engineLineRelease _ | .peerMessageApply _ | .peerAck _ | .linkLoss _
  | .teamStart _ _ _ _ | .keyzDone _ | .keyzAckTimeout _ _ | .scrubUnit _ | .deferredDestroy _
  | .entryDraw _ | .heldReform _ | .continuationSeat _ | .blockDeal _ _ _ | .barrierTableGrant _ _ _ | .handForm _ _ _
  | .handRelease _ | .dealtReturn _ | .rotation _ | .claimResolve _ | .affinityWindowExpiry _ _ | .pileEvictRetry _ _
  | .kernelComplete _ _ | .launchRegisterWrite _ _ | .launchQueueEntry _ | .dealerPeriod _
  | .pctlSave _ | .saveComplete _ | .pctlRestore _ | .restoreProceed _ | .samplingWindowEnd | .bandwidthWindow
  | .hostWriteRequest _ | .hostReadRequest _ | .xdPieceSend _ | .hostPieceApply _ _ | .routeAck _ _
  | .create _ _ | .stop _ | .skidTimeout _ | .haltDone _ | .destroy _ | .replay _ | .shqLookup _ _
  | .registerWrite _ _ _ | .waitfullRetry _ _ | .registerError _ _ _ | .handStateError _ | .coreOffline _
  | .cacheError _ | .keyLoad _ | .attestationReport _ | .ethernetFrameDeliver _ _
  | .coldReset _ | .warmReset _ | .powerLoss | .firmwareUpdate _ | .recoveryRequest
  | .rgetDataReturn _ _ _ | .peerRefusal _ _ | .segmentRetransmission _ _ | .deviceFatalError _ => true
  | _ => false

end Sys2Proof
end

