-- ==== Sys2Proof/Machine/Fetch.lean ====
section
/-! DEFINITION. Sys2Proof/Machine/Fetch.lean: fetching code, the first word of a clause, illegal encodings, and the choice of
the suit that issues (06 R149, R150, R157, 15 R315, 23 R394). -/

namespace Sys2Proof.Machine

/-- How a fetch went: the words, a failure with its address, or a line that an engine operation is writing. -/
inductive Fetched where
  | words (ws : List W32) (s : State)
  | fail (va : Nat) (x : Xl) (s : State)
  | wait

/-- Code words from a virtual address on, fetched by a hand as translated loads that keep no place in T (06 R158): each waits while an
engine operation that has claimed its line has not written it (04 R100). -/
def State.fetchWords (s : State) (h : HandRef) (gen ctx pl va : Nat) : Nat → (first : Bool := true) → Fetched
  | 0, _ => .words [] s
  | n + 1, first =>
    match s.translate h gen ctx { rd := true, wr := false, pl := pl } va with
    | (.hit pa _ repl lo, s1) =>
      if s.claimBars .mem h.cr (lineOf pa) false then .wait
      else
        let s2 := s1.mark ctx pa lo
        let s3 := if first || va % 64 = 0 then (s2.charge ctx (lineOf pa) [0, 1, 2, 3]).countReq (s2.home pa).die pa { ctx := ctx, die := h.die, repl := repl } false else s2
        match s3.fetchWords h gen ctx pl (va + 4) n false with
        | .words ws t => .words (BitVec.ofNat 32 (ofBytes (s.memRead pa 4)) :: ws) t
        | r => r
    | (x, s1) => .fail va x s1

/-- A fetch that faults: the lanes are Held-fault at the PC, or the context halts (24 R407, R409). -/
def State.fetchFault (s : State) (r : SuitRef) (va : Nat) (e : Xl) : State :=
  let hd := s.hand r.hr
  match hd.suit r.suit with
  | none => s
  | some u =>
    match e with
    | .miss level entry =>
      let s1 := s.replayable hd.ctx va level entry { kind := 1, req := 1, fdie := r.die, item := hd.itemOf (hd.active r.suit), who := s.whoOf r u.kern }
      if u.trap.isSome then s1.modSuit r (fun v => { v with stall := .fault va })
      else s1.modHand r.hr (fun d => Hand.sweep (d.modLanes (d.active r.suit) (fun _ l => { l with st := .heldFault (.fetch va), pos := u.pos })))
    | .fatal rs => s.halt hd.ctx 0x22 (s.trapRec r 0x22 rs u.pos.pc (hd.active r.suit) [] va 0)
    | .hit _ _ _ _ | .busy => s

/-- The halt of an illegal clause: PC the first illegal word, ARG0 the header, ARG1 the word (23 R394). -/
def State.haltIllegal (s : State) (r : SuitRef) (pc hdr word : Nat) : State :=
  let hd := s.hand r.hr
  s.halt hd.ctx 0x20 (s.trapRec r 0x20 0 pc (hd.active r.suit) [] hdr word)

/-- Barrier levels that are legal for a kernel (07 R176). -/
def barLegal (k : LaunchRec) (n : Nat) : Bool := decide (n < k.levels) && lvBar (k.level n)

/-- The header word of its fields. -/
def headerWord (setb seta wait chunks : Nat) : Nat := setb * 2 ^ 27 + seta * 2 ^ 23 + wait * 2 ^ 11 + chunks * 2 ^ 9 + 0x1FC

/-- CLAUSE_HEADER: the clause is decoded in full; the suit waits until every peg named by WAIT is zero, once (06 R149, R150,
R157). -/
def execClauseHeader (setb seta wait chunks : Nat) (s : State) : Out :=
  issue {} s (fun x =>
    let hdr := x.u.pos.pc
    match s.fetchWords x.h x.hd.gen x.ctx x.pl (hdr + 4) (4 * (chunks + 1) - 1) with
    | .fail va e s1 => s1.fetchFault x.r va e
    | .wait => s.modSuit x.r (fun u => { u with stall := .filled, wait := 0 })
    | .words ws s1 =>
      match decodeBody (barLegal x.kern.lrec) 16 1 false ws with
      | .error (i, _) => s1.haltIllegal x.r (hdr + 4 * i) hdr (ws.getD (i - 1) 0).toNat
      | .ok _ =>
        let busy := (bitList 12 wait).filter (fun p => x.hd.peg p ≠ 0)
        if busy.isEmpty then
          s1.modSuit x.r (fun u => { u with
            pos := { pc := hdr + 4, hdr := hdr, hw := headerWord setb seta wait chunks }, stall := .ready, clause := some (hdr, ws) })
        else { x with s := s1 }.stall .clause (busy.flatMap (fun p => (kGet [] p x.hd.pegs).map PegEnt.op)))

/-- NOP issues nothing: the suit stands at the next word (06 R135). -/
def execNop (s : State) : Out :=
  match s.look with
  | none => .fault .noSuit
  | some x => .next (s.modSuit x.r (fun u => { u with pos := u.pos.after s.npc }))

/-! ## Which suit issues (15 R315) -/

/-- Whether a context's hands may issue and draw: Open and not saved (22 R385, 15 R318). -/
def State.runs (s : State) (ctx : Nat) : Bool :=
  match s.ctx ctx with
  | some x => x.state = 1 && x.pstat = .running
  | none => false

/-- Whether the halt line of a context is on its way to a hand, which issues until it arrives (22 R385, R393). -/
def State.ahead (s : State) (ctx : Nat) (h : HandRef) : Bool :=
  match (s.ctxD ctx).halt with
  | some k => k.ahead.contains h
  | none => false

/-- Ready suits of a quarter. -/
def State.readySuits (s : State) (c : CoreRef) (q : Nat) : List SuitRef :=
  ((s.core c).hands.filter (fun e => e.1 / 24 = q && (s.runs e.2.ctx || s.ahead e.2.ctx (c.hr e.1)))).flatMap (fun e =>
    (e.2.suits.filter (fun u => u.2.stall = .ready)).map (fun u => (c.hr e.1).sr u.1))

/-- Class and waiting time of a suit, larger first. -/
def State.rank (s : State) (r : SuitRef) : Nat × Nat :=
  let hd := s.hand r.hr
  match hd.suit r.suit with
  | some u => (if 4096 < u.wait then 4 else (s.kernD hd.ctx u.kern).lrec.prio, u.wait)
  | none => (0, 0)

/-- The best of a list, the earlier among equals. -/
def State.best (s : State) : List SuitRef → Option SuitRef
  | [] => none
  | r :: rs =>
    match s.best rs with
    | none => some r
    | some t =>
      let a := s.rank r
      let b := s.rank t
      if b.1 < a.1 ∨ (b.1 = a.1 ∧ b.2 ≤ a.2) then some r else some t

/-- Whether a suit is the one its quarter issues now: the quarter has not issued on this clock and the suit is its choice. -/
def State.chosen (s : State) (r : SuitRef) : Bool :=
  !s.issued.any (fun t => t.die = r.die && t.core = r.core && t.hand / 24 = r.hand / 24) &&
    s.best (s.readySuits r.hr.cr (r.hand / 24)) = some r

/-- Number of words of a clause after its header. -/
def Pos.body (p : Pos) : Nat := (p.nextHdr - p.hdr) / 4 - 1

/-- The words of a clause from a place within it on. -/
def Pos.rest (p : Pos) (ws : List W32) : List W32 := ws.drop ((p.pc - p.hdr) / 4 - 1)

end Sys2Proof.Machine
end

