-- ==== Sys2Proof/Machine/Estate.lean ====
section
/-! DEFINITION. Sys2Proof/Machine/Estate.lean: estates: sealing, the log, eviction, claims, probate, and the self-estates of
suspended items (03). -/

namespace Sys2Proof.Machine

/-! ## Places (03 R57, R74, R77) -/

/-- Virtual address of the record of an identity in a deck's estate area. -/
def Kernel.recVa (k : Kernel) (ident : Nat) : Nat := k.ep.base + k.lrec.earea + 96 * (ident - k.lrec.cbase)

/-- Virtual address of the pile record of an item. -/
def Kernel.pileVa (k : Kernel) (item : Nat) : Nat := k.epseg.base + k.lrec.pile + 96 * (item % maxN 1 k.lrec.pcap)

/-- Whether an identity is one of the deck's. -/
def Kernel.inDeck (k : Kernel) (ident : Nat) : Bool :=
  k.lrec.kf ≠ 0 && decide (k.lrec.cbase ≤ ident) && decide (ident < k.lrec.cbase + k.lrec.ecap)

/-- Poison bits of an estate's registers, as a number. -/
def poisBits (d : List (W32 × Bool)) : Nat := maskOf ((List.range d.length).filter (fun j => (d.getD j (0, false)).2))

/-- Header word 1 of an estate whose lane is given. -/
def Estate.w1 (e : Estate) (h : HandRef) (lane gen : Nat) : Nat := estW1 (poisBits e.data) e.kern h lane gen

/-! ## Lanes that hold estates -/

/-- A lane becomes Idle, and what a kernel kept in the hand goes with its last lane. -/
def State.freeLane (s : State) (h : HandRef) (l : Nat) : State := s.modHand h (fun d => Hand.sweepSets (d.modLane l Lane.idle))

/-- An estate goes from its lane: a Pinned lane becomes Idle (02 R30); one in which an heir has been seated goes on without it. -/
def State.dropEstate (s : State) (h : HandRef) (l : Nat) : State :=
  if (s.lane h l).st = .pinned then s.freeLane h l else s.modLane h l (fun a => { a with estate := none })

/-- Whether the probate of a deck has begun and waits for a replay-all: no other event may act on its records meanwhile (20 R365). -/
def State.inProbate (s : State) (ctx kn : Nat) : Bool := (s.kernD ctx kn).probate.isSome

/-- An action of the device goes on: it no longer waits for a replay-all or a claim. -/
def State.unwait (s : State) (ctx : Nat) (w : DevWait) : State := s.modCtx ctx (fun x => { x with waits := x.waits.filter (fun v => v ≠ w), busy := x.busy.filter (fun v => v ≠ w) })

def State.waiting (s : State) (ctx : Nat) (w : DevWait) : Bool := (s.ctxD ctx).pending.contains w

/-! ## The unclaimed-estate log (03 R74, 20 R366) -/

/-- One log record written no earlier than a logical time, or counted as lost; CX.EUNCL advances. The time after. -/
def State.logEstate (s : State) (ctx die pts reason heirk : Nat) (e : Estate) (w1 : Nat) : Except DevErr (State × Nat) :=
  let x := s.ctxD ctx
  let seq := s.reg ctx 0
  let done (t : State) : State :=
    let t1 := t.bump ctx 0 1
    if seq = s.reg ctx 1 then t1.source ctx 8 else t1
  if (seq + 2 ^ 64 - s.reg ctx 1) % 2 ^ 64 < 2 ^ (x.lq + 4) then
    (s.devWrite ctx die pts (x.ulog + 96 * (seq % 2 ^ (x.lq + 4)))
      (estateBytes (estW0 2 e.data.length e.ident) w1 e.item (estW3 reason heirk seq) (e.data.map Prod.fst))).map (fun r => (done r.1, r.2))
  else .ok (done ((s.bump ctx 3 1).setReg ctx 2 1), pts)

/-- HEIRK of a log record: 0xFFFF when no heir was launched onto the deck; `had` tells it of a deck whose number has been used again. -/
def heirNo (deck : Option Kernel) (had : Bool) (n : Nat) : Nat :=
  match deck with
  | some k => if k.deckOnly then 0xFFFF else n
  | none => if had then n else 0xFFFF

/-! ## Sealing (03 R55, R73) -/

/-- The lane, pinned with the estate it captured, is registered in the record of its identity; or the seal is logged and the
lane freed; or the action waits for a replay-all. -/
def State.seal (s : State) (ctx : Nat) (h : HandRef) (l : Nat) : State :=
  let hd := s.hand h
  match (hd.lane l).estate with
  | none => s
  | some e =>
    let deck := match s.kern ctx e.deck with
      | some k => if k.born = (s.kernD ctx e.kern).heirBorn then some k else none
      | none => none
    let w1 := e.w1 h l hd.gen
    let timed (r : State × Nat) : State := r.1.modHand h (fun d => { d with pts := maxN d.pts r.2 })
    let reject (t : State) (p reason : Nat) : State :=
      match t.logEstate ctx h.die p reason (heirNo deck (s.kernD ctx e.kern).heirHad e.deck) e w1 with
      | .ok r => (timed r).freeLane h l
      | .error x => t.devFault ctx 4 h.die x (.seal_ h l)
    match deck with
    | none => reject s hd.pts 4
    | some k =>
      if k.probated || k.probate.isSome then reject s (maxN hd.pts k.endPts) 4
      else if !k.inDeck e.ident then reject s hd.pts 5
      else
        match s.devRead 3 ctx h.die hd.pts (k.recVa e.ident) 8 with
        | .error x => s.devFault ctx 3 h.die x (.seal_ h l)
        | .ok g =>
          if ofBytes g.bytes / 2 ^ 62 ≠ 0 then reject g.s g.at_ 6
          else
            let hdr := bytesOf 8 (estW0 1 e.data.length e.ident) ++ bytesOf 8 w1 ++ bytesOf 8 e.item ++ bytesOf 8 0
            match g.s.devWrite ctx h.die g.at_ (k.recVa e.ident) hdr with
            | .error x => s.devFault ctx 3 h.die x (.seal_ h l)
            | .ok r => timed r

/-- A sealed range as an estate of the lane: what the registers hold now, with their poison. -/
def Lane.capture (l : Lane) (r : Rng) : List (W32 × Bool) := (rngKeys r.start r.len).map (reg32 l)

/-- A lane that leaves its item behind is Pinned with its estate. -/
def Lane.pin (l : Lane) (e : Estate) : Lane := { l.idle with st := .pinned, estate := some e }

/-- An item exits after WILL: its lane is pinned and its estate sealed. -/
def State.sealWill (s : State) (h : HandRef) (l : Nat) (it : Item) (w : Will) : State :=
  let hd := s.hand h
  let k := s.kernD hd.ctx it.kern
  let e : Estate := { self := false, ident := w.ident, deck := k.lrec.heirk, start := w.range.start, data := (hd.lane l).capture w.range
                      kern := it.kern, item := it.item, sealClk := s.clk }
  ((s.modLane h l (fun ln => ln.pin e)).seal hd.ctx h l)

/-! ## Eviction (03 R67, R77) -/

/-- Whether an estate's record names this lane as its place; reserved bits of the record are ignored (00 R7). -/
def pinnedHere (w0 w1 ident : Nat) (h : HandRef) (l gen : Nat) : Bool :=
  w0 / 2 ^ 62 = 1 && w0 % 2 ^ 48 = ident && fld w1 29 2 = fld (estW1 0 0 h l gen) 29 2

/-- The generation tag that a record compares, 8 bits. -/
def Hand.tag (d : Hand) : Nat := d.gen % 256

/-- A pinned estate goes to its record and leaves its lane. A self-estate whose pile record is in use stays pinned. -/
def State.evictTry (s : State) (h : HandRef) (l : Nat) : Except DevErr State :=
  let hd := s.hand h
  let ctx := hd.ctx
  match (hd.lane l).estate with
  | none => .ok s
  | some e =>
    let full (w1 : Nat) : List Byte := estateBytes (estW0 2 e.data.length e.ident) w1 e.item 0 (e.data.map Prod.fst)
    if e.self then
      let k := s.kernD ctx e.kern
      if k.lrec.barTables then .ok s
      else
        (s.devRead 3 ctx h.die hd.pts (k.pileVa e.item) 8).bind (fun g =>
          let st := ofBytes g.bytes / 2 ^ 62
          if st = 1 ∨ st = 2 then .ok g.s
          else (g.s.devWrite ctx h.die g.at_ (k.pileVa e.item) (full (e.w1 h l hd.tag))).map (fun r => r.1.dropEstate h l))
    else
      match s.kern ctx e.deck with
      | none => .ok (s.dropEstate h l)
      | some k =>
        (s.devRead 3 ctx h.die hd.pts (k.recVa e.ident) 16).bind (fun g =>
          if !pinnedHere (ofBytes (g.bytes.take 8)) (ofBytes (g.bytes.drop 8)) e.ident h l hd.tag then .ok (g.s.dropEstate h l)
          else (g.s.devWrite ctx h.die g.at_ (k.recVa e.ident) (full (e.w1 h l hd.tag))).map (fun r => (r.1.bump ctx 7 1).dropEstate h l))

/-- An eviction, which waits for a replay-all when its access faults (24 R452). -/
def State.evict (s : State) (h : HandRef) (l : Nat) : State :=
  match s.evictTry h l with
  | .ok t => t
  | .error x => s.devFault (s.hand h).ctx 3 h.die x (.evict h l)

/-! ## Claims (03 R59 to R63) -/

/-- What a claim finds. -/
inductive Found where
  | missing
  /-- place code SRC, the registers with their poison -/
  | got (src : Nat) (data : List (W32 × Bool))
deriving DecidableEq, Repr

/-- Status of a claim (03 Table 3.2). -/
def claimStatus (n : Nat) : Found → Nat
  | .missing => 12
  | .got src d => 4 * src + (if d.length = n then 1 else if d.length < n then 2 else 3)

/-- Data registers of a record in memory, with POIS and the poison of their own bytes. -/
def State.recData (s : State) (ctx die pts va len pois : Nat) : Except DevErr (List (W32 × Bool) × DevGot) :=
  (s.devRead 3 ctx die pts (va + 32) (4 * len)).map (fun g =>
    ((List.range len).map (fun j => (BitVec.ofNat 32 (ofBytes ((g.bytes.drop (4 * j)).take 4)), bitN pois j || (List.range 4).any (fun i => g.bad (4 * j + i)))), g))

/-- The estate of an identity fetched at its record's home for the hand of the claiming item, and the record marked claimed: what is found, the
logical time, and the state after; an error when an access faults. -/
def State.fetchEstate (s : State) (ctx kn : Nat) (k : Kernel) (ident : Nat) (h : HandRef) (l n : Nat) : Except DevErr (Found × Nat × State) :=
  let va := k.recVa ident
  (s.devRead 3 ctx h.die (s.hand h).pts va 32).bind (fun g =>
    let w0 := ofBytes (g.bytes.take 8)
    let w1 := ofBytes ((g.bytes.drop 8).take 8)
    let mark (f : Found) (t : State) (p : Nat) (after : State → State) : Except DevErr (Found × Nat × State) :=
      (t.devWrite ctx h.die p va (bytesOf 8 (w0 % 2 ^ 62 + 3 * 2 ^ 62))).map (fun r => (f, r.2, after r.1))
    let fromMem (t : State) (p len pois : Nat) (all : Bool) : Except DevErr (Found × Nat × State) :=
      (t.recData ctx h.die p va len pois).bind (fun d =>
        mark (.got 2 (if all then d.1.map (fun w => (w.1, true)) else d.1)) d.2.s d.2.at_ (fun u => u.bump ctx 8 1))
    if g.pois then fromMem g.s g.at_ n 0 true
    else if w0 / 2 ^ 62 = 2 then fromMem g.s g.at_ (minN 16 (fld w0 61 57)) (fld w1 63 48) false
    else if w0 / 2 ^ 62 = 1 then
      let p : HandRef := { die := fld w1 29 28, core := fld w1 27 22, hand := fld w1 21 15 }
      let pl := fld w1 14 10
      let pd := s.hand p
      match (pd.lane pl).estate with
      | none => mark .missing g.s g.at_ id
      | some e =>
        if e.self ∨ e.ident ≠ ident ∨ pd.ctx ≠ ctx ∨ pd.st = .unformed ∨ pd.tag ≠ fld w1 9 2 ∨ w0 % 2 ^ 48 ≠ ident then mark .missing g.s g.at_ id
        else if p = h ∧ pl = l then mark (.got 0 e.data) g.s g.at_ (fun t => (t.bump ctx 5 1).dropEstate p pl)
        else if p.die = h.die then mark (.got 1 e.data) g.s g.at_ (fun t => (t.bump ctx 6 1).dropEstate p pl)
        else (g.s.evictTry p pl).bind (fun t => fromMem t g.at_ e.data.length (poisBits e.data) false)
    else mark .missing g.s g.at_ (fun u => if w0 / 2 ^ 62 = 0 then u.modKern ctx kn (fun q => { q with early := insN ident q.early }) else u))

/-- Registers of a claim of width n (03 R60, R61). -/
def landed (n : Nat) : Found → List (W32 × Bool)
  | .missing => (List.range n).map (fun _ => (0, false))
  | .got _ d => (List.range n).map (fun j => d.getD j (0, false))

/-- The status word of ESTAT (03 R62, 14 R289). -/
def Lane.estat (l : Lane) : Nat :=
  let cs := match l.late with | some v => kSet 0 v l.claims | none => l.claims
  cs.foldl (fun a e => a + e.2 * 2 ^ (4 * e.1)) 0

/-- A claim of a lane has resolved: ESTATs that waited for it alone have their result (claims of an item resolve in order). -/
def State.estatDone (s : State) (h : HandRef) (l : Nat) : State :=
  let ln := s.lane h l
  { s with ops := s.ops.map (fun e => (e.1, match e.2.kind with
    | .estat d =>
      if e.2.h = h ∧ e.2.gen = (s.hand h).gen then
        { e.2 with lanes := e.2.lanes.map (fun x =>
            if x.lane = l && x.st = .pending then
              (if x.due ≤ 1 then x.arrive (match d with | some k => [(k, BitVec.ofNat 32 ln.estat, false)] | none => [])
               else { x with due := x.due - 1 })
            else x) }
      else e.2
    | _ => e.2)) }

/-- A claim's registers land, its status is kept, and its lease ends; what is due to another item is dropped, which a CLAIM's operation counts when it
completes. -/
def State.landClaim (s : State) (c : ClaimReq) (f : Found) (p : Nat) : State :=
  let ours := !c.void && s.sameGen c.h c.gen && (match (s.lane c.h c.lane).item with | some it => it.item = c.item && it.kern = c.kern | none => false)
  let ws := landed c.n f
  let s0 := match f with
    | .got _ d => if c.n < d.length then s.bump c.ctx 4 (d.length - c.n) else s
    | .missing => s
  let s1 :=
    if !ours then (if c.op.isSome && c.j.isNone then s0 else s0.bump c.ctx 0x010 1)
    else
      let st := claimStatus c.n f
      ((s0.modLane c.h c.lane (fun l =>
          { l.puts c.dst ws with
            leases := l.leases.filter (fun e => some e.2 ≠ c.op)
            epois := l.epois || ws.any Prod.snd
            claimsDue := l.claimsDue - 1
            claims := match c.j with | some j => kSet j st l.claims | none => l.claims
            late := match c.j with | some _ => l.late | none => some st })).setPts c.h c.gen p).estatDone c.h c.lane
  let s2 := match c.j, c.op with
    | none, some op => s1.arrive op c.lane []
    | _, _ => s1
  if s2.sameGen c.h c.gen then s2.wake c.h else s2

/-- Whether a claim reaches its home next: nothing of its item, and no lower lane's claim of the identity, stands before it. -/
def State.claimReady (s : State) (id : Nat) (c : ClaimReq) : Bool :=
  !s.waiting c.ctx (.claim id) && !s.inProbate c.ctx c.kern && !s.itemWaits c.ctx c.kern c.item &&
    !s.claims.any (fun e => decide (e.1 < id) && e.2.ctx = c.ctx && ((e.2.kern = c.kern && e.2.item = c.item) || (e.2.kern = c.kern && e.2.ident = c.ident)))

/-- A claim resolves at the home slice of its record. -/
def State.resolveClaim (s : State) (id : Nat) (c : ClaimReq) : State :=
  let s0 := { s with claims := kErase id s.claims }
  match c.outside, s.kern c.ctx c.kern with
  | true, _ => s0.landClaim c .missing 0
  | false, none => s0.landClaim c .missing 0
  | false, some k =>
    match s0.fetchEstate c.ctx c.kern k c.ident c.h c.lane c.n with
    | .ok (f, p, s1) => s1.landClaim c f p
    | .error x => s.devFault c.ctx 3 c.h.die x (.claim id)

/-- CLAIM_RESOLVE: a seating or late claim resolves at the record's home slice (03 R60). -/
def execClaimResolve (id : Nat) (s : State) : Out :=
  match kFind id s.claims with
  | some c => .next (if s.claimReady id c then s.resolveClaim id c else s)
  | none => .next s

/-! ## The affinity window and the pile (03 R64, R67, R77) -/

/-- Whether the affinity window of a lane's estate has ended. -/
def State.windowOver (s : State) (e : Estate) : Bool := decide (e.sealClk + 8192 < s.clk)

/-- Whether a pinned lane may be evicted on demand: its estate is registered and no probate of its deck waits. -/
def State.mayEvict (s : State) (h : HandRef) (l : Nat) : Bool :=
  let ctx := (s.hand h).ctx
  match (s.lane h l).st, (s.lane h l).estate with
  | .pinned, some e =>
    !s.waiting ctx (.evict h l) && !s.waiting ctx (.seal_ h l) && !(e.self && (s.kernD ctx e.kern).lrec.barTables) && !(!e.self && s.inProbate ctx e.deck)
  | _, _ => false

/-- Whether the heir of an estate has been seated: its claim of the estate is on its way (03 R67). -/
def State.heirSeated (s : State) (ctx : Nat) (e : Estate) : Bool :=
  !e.self && s.claims.any (fun c => c.2.ctx = ctx && c.2.kern = e.deck && c.2.ident = e.ident && c.2.j.isSome && !c.2.outside)

/-- Whether a lane's estate is to be evicted: it may be, and its window has ended before its heir is seated. -/
def State.evictable (s : State) (h : HandRef) (l : Nat) : Bool :=
  (s.hand h).st ≠ .unformed && s.mayEvict h l && (match (s.lane h l).estate with | some e => s.windowOver e && !s.heirSeated (s.hand h).ctx e | none => false)

/-- AFFINITY_WINDOW_EXPIRY: 8,192 clocks after sealing an unclaimed estate goes to its record (03 R67). -/
def execAffinityWindowExpiry (h : HandRef) (lane : Nat) (s : State) : Out :=
  .next (if s.evictable h lane then s.evict h lane else s)

/-- PILE_EVICT_RETRY: a self-estate that waited for its pile record is evicted once the record is free (03 R77). -/
def execPileEvictRetry (h : HandRef) (lane : Nat) (s : State) : Out :=
  let self := match (s.lane h lane).estate with | some e => e.self | none => false
  .next (if self && s.evictable h lane then s.evict h lane else s)

/-! ## Probate (03 R72) -/

/-- One record visited at a logical time: logged when it holds an estate, whose lane becomes Idle if it is Pinned; left at STATE 0. The time
after; a failure with the kind of the access (24 R452). -/
def State.probateOne (s : State) (ctx kn ident reason pts : Nat) : Except (Nat × DevErr) (State × Nat) :=
  match s.kern ctx kn with
  | none => .ok (s, pts)
  | some k =>
    let va := k.recVa ident
    match s.devRead 3 ctx 4 pts va 32 with
    | .error e => .error (3, e)
    | .ok g =>
      let w0 := ofBytes (g.bytes.take 8)
      let w1 := ofBytes ((g.bytes.drop 8).take 8)
      let st := w0 / 2 ^ 62
      let zero (t : State) (p : Nat) : Except (Nat × DevErr) (State × Nat) := (t.devWrite ctx 4 p va (bytesOf 8 (w0 % 2 ^ 62))).mapError (fun e => (3, e))
      let log (t : State) (p : Nat) (e : Estate) (v1 : Nat) (after : State → State) : Except (Nat × DevErr) (State × Nat) :=
        ((t.logEstate ctx 4 p reason (heirNo (some k) false kn) e v1).mapError (fun e => (4, e))).bind (fun r => zero (after r.1) r.2)
      let pl := fld w1 14 10
      let p : HandRef := { die := fld w1 29 28, core := fld w1 27 22, hand := fld w1 21 15 }
      let pd := s.hand p
      let held := match (pd.lane pl).estate with
        | some e => if !e.self ∧ e.ident = ident ∧ pd.ctx = ctx ∧ pd.tag = fld w1 9 2 then some e else none
        | none => none
      if st = 1 then
        match held with
        | some e => log g.s g.at_ e w1 (fun t => t.dropEstate p pl)
        | none => zero g.s g.at_
      else if st = 2 then
        match s.recData ctx 4 g.at_ va (minN 16 (fld w0 61 57)) (fld w1 63 48) with
        | .error e => .error (3, e)
        | .ok (d, g2) =>
          let e : Estate := { self := false, ident := w0 % 2 ^ 48, deck := kn, start := 0, data := d, kern := fld w1 47 32
                              item := ofBytes ((g.bytes.drop 16).take 8), sealClk := 0 }
          log g2.s g2.at_ e (w1 % 2 ^ 48 + poisBits d * 2 ^ 48) id
      else if st = 3 then zero g.s g.at_
      else .ok (g.s, g.at_)

/-- Records from an identity on are visited in ascending order, until the end or a fault; the kernel's end follows them (15 R311). -/
def State.probateFrom (s : State) (ctx kn reason pts : Nat) : Nat → Nat → State
  | 0, _ => (s.modKern ctx kn (fun k => { k with probated := true, probate := none, early := [], endPts := maxN k.endPts pts })).unwait ctx (.probate kn)
  | n + 1, ident =>
    match s.probateOne ctx kn ident reason pts with
    | .ok (t, p) => t.probateFrom ctx kn reason p n (ident + 1)
    | .error (kind, e) =>
      (s.modKern ctx kn (fun k => { k with probate := some (ident, reason), endPts := maxN k.endPts pts })).devFault ctx kind 4 e (.probate kn)

/-- Probate of a deck begins, no earlier than a logical time; it takes place once. -/
def State.probate (s : State) (ctx kn reason pts : Nat) : State :=
  let k := s.kernD ctx kn
  if k.probated ∨ k.probate.isSome then s
  else if k.lrec.kf = 0 then s.modKern ctx kn (fun k => { k with probated := true })
  else s.probateFrom ctx kn reason (maxN pts k.endPts) k.lrec.ecap k.lrec.cbase

/-- Probate goes on at the record where it waits. -/
def State.probateOn (s : State) (ctx kn : Nat) : State :=
  let k := s.kernD ctx kn
  match k.probate with
  | some (ident, reason) => s.probateFrom ctx kn reason k.endPts (k.lrec.cbase + k.lrec.ecap - ident) ident
  | none => s.unwait ctx (.probate kn)

/-! ## Suspended items (03 R76, R79) -/

/-- The lane of a context that holds an item's self-estate. -/
def State.selfLane (s : State) (ctx kern item : Nat) : Option (HandRef × Nat) :=
  ((s.handsOf ctx).flatMap (fun h => ((List.range 32).filter (fun l => match (s.lane h l).st, (s.lane h l).estate with
    | .pinned, some e => e.self && e.kern = kern && e.item = item
    | _, _ => false)).map (fun l => (h, l)))).head?

/-- The carry range of a continuation, from the lane that holds it or from its pile record, with the logical time and the state after; the source is
given up. -/
def State.takeSelf (s : State) (ctx : Nat) (k : Kernel) (c : Cont) (h : HandRef) (l : Nat) : Except DevErr (List (W32 × Bool) × Nat × State) :=
  match s.selfLane ctx c.kern c.item with
  | some (p, pl) =>
    let d := match (s.lane p pl).estate with | some e => e.data | none => []
    .ok (d, c.pts, if p = h ∧ pl = l then s else s.dropEstate p pl)
  | none =>
    let va := k.pileVa c.item
    (s.devRead 3 ctx h.die c.pts va 32).bind (fun g =>
      (g.s.recData ctx h.die g.at_ va c.len (if g.pois then 2 ^ 16 - 1 else fld (ofBytes ((g.bytes.drop 8).take 8)) 63 48)).bind (fun d =>
        (d.2.s.devWrite ctx h.die d.2.at_ va (bytesOf 8 (ofBytes (g.bytes.take 8) % 2 ^ 62 + 3 * 2 ^ 62))).map (fun r => (d.1, r.2, r.1))))

end Sys2Proof.Machine
end

