-- ==== Sys2Proof/Machine/Seat.lean ====
section
/-! DEFINITION. Sys2Proof/Machine/Seat.lean: what a core may draw, the grant of tables, and the seating of items into lanes (02
R35 to R51, 03 R64, R65, R70, R79, 15 R306, R310 to R314). -/

namespace Sys2Proof.Machine

/-! ## Tables of a kernel (02 R24, R26, R39) -/

/-- Number of tables that items exist for. -/
def Kernel.tableCount (k : Kernel) : Nat :=
  let n := if k.lrec.task then k.appended else k.lrec.items
  (n + k.lrec.fan1 - 1) / k.lrec.fan1

def Kernel.granted (k : Kernel) (t : Nat) : Bool := (kFind t k.tables).isSome || (kFind t k.ended).isSome

/-- Whether this device runs a table (17 R349). -/
def Kernel.ours (k : Kernel) (t : Nat) : Bool :=
  match k.share with
  | some f => t * k.lrec.fan1 / f % k.fab.1 = k.fab.2
  | none => true

/-- Records appended and not yet drawn fill the ring (15 R306). -/
def Kernel.ringFree (k : Kernel) : Nat := k.lrec.items - k.undrawn

/-- Units of levels 1 to L − 1 that a table of a task deck begins are full of tasks, or the deck is closed (02 R24). -/
def Kernel.tableReady (k : Kernel) (t : Nat) : Bool :=
  let a := t * k.lrec.fan1
  if !k.lrec.task then decide (a < k.lrec.items)
  else if k.closed then decide (a < k.appended)
  else decide (a + k.lrec.fan1 ≤ k.appended) &&
    (List.range (k.lrec.levels - 1)).all (fun m =>
      let f := k.lrec.unitItems (m + 1)
      a % maxN 1 f ≠ 0 || decide (a + f ≤ k.appended))

/-- The lowest table index not granted, from a bound on. -/
def Kernel.nextFree (k : Kernel) : Nat → Nat → Nat
  | 0, t => t
  | n + 1, t => if k.granted t || !k.ours t then k.nextFree n (t + 1) else t

/-! ## Predecessors and testators -/

/-- Testator kernels of a deck: those that name it by HEIRK. -/
def State.testators (s : State) (ctx kn : Nat) : List Nat :=
  ((s.ctxD ctx).kerns.filter (fun e => e.2.lrec.heirk = kn && e.2.heirBorn = (s.kernD ctx kn).born && !e.2.deckOnly)).map Prod.fst

/-- Whether a kernel's predecessors are satisfied, so that its items may be drawable (15 R310); a testator that is Complete has made its completion event
(04 R106). -/
def State.kernReady (s : State) (ctx kn : Nat) : Bool :=
  match s.kern ctx kn with
  | none => false
  | some k =>
    !k.deckOnly && !k.cancelled && k.cst ≠ .complete && k.preds.isEmpty &&
      (k.lrec.afterEstate || k.lrec.kf = 0 || (s.testators ctx kn).all (fun t => (s.kernD ctx t).finish = 3))

/-! ## Cores of a context (17 R352, 24, 26 R436) -/

/-- Whether another context holds a core: stopped, protected and not yet scrubbed. -/
def State.heldFrom (s : State) (ctx : Nat) (c : CoreRef) : Bool :=
  s.ctxs.any (fun e => e.1 ≠ ctx && e.2.prot && e.2.state = 3 && !e.2.scrubOk && bitN (kGet 0 c.die e.2.cores) c.core)

/-- Whether a core is one of a context's, and works. -/
def State.ownCore (s : State) (ctx : Nat) (c : CoreRef) : Bool :=
  bitN (kGet 0 c.die (s.ctxD ctx).cores) c.core && s.dies.contains c.die && !(s.core c).offline

/-- Whether a core is one of a context's, works, and is not held from it. -/
def State.mayUse (s : State) (ctx : Nat) (c : CoreRef) : Bool := s.ownCore ctx c && !s.heldFrom ctx c

/-- The stage deck that a core serves: a deck that is no longer Live has released its cores (15 R317). -/
def State.serves (s : State) (c : CoreRef) : Option (Nat × Nat) :=
  match (s.core c).serves with
  | some d => if s.kernState d.1 d.2 = .live then some d else none
  | none => none

/-- Whether a kernel is bound to a core (15 R312); it stays bound to one that another context holds, but draws nothing there (26 R436). -/
def State.bound (s : State) (ctx kn : Nat) (c : CoreRef) : Bool :=
  match s.kern ctx kn with
  | none => false
  | some k =>
    k.cst ≠ .complete && !k.deckOnly && s.ownCore ctx c && bitN k.lrec.die c.die &&
      (k.lrec.sthi = 0 || s.serves c = some (ctx, kn))

/-! ## Room in hands and cores (02 R14, R35, 15 R313, R314) -/

/-- The kernel that a lane counts toward. -/
def Lane.kern? (l : Lane) : Option Nat :=
  match l.st, l.item, l.estate with
  | .reserved k _, _, _ => some k
  | _, some it, _ => some it.kern
  | .pinned, none, some e => some e.kern
  | _, _, _ => none

/-- Kernels that hold a lane of a hand, Reserved lanes among them (15 R313). -/
def Hand.kerns (d : Hand) : List Nat := d.lanes.foldl (fun a l => match l.2.kern? with | some k => insN k a | none => a) []

/-- Kernels that a hand holds items of: Active, held and Pinned lanes count (R35). -/
def Hand.holds (d : Hand) : List Nat :=
  d.lanes.foldl (fun a l => match l.2.st, l.2.kern? with | .reserved _ _, _ => a | _, some k => insN k a | _, none => a) []

/-- R35: no fifth kernel. -/
def Hand.takes (d : Hand) (kn : Nat) : Bool := d.holds.contains kn || decide (d.holds.length < 4)

/-- Weight of a hand, with one more kernel's energy class counted. -/
def State.weight (s : State) (d : Hand) (extra : Option Nat) : Nat :=
  let es := d.kerns.map (fun k => (s.kernD d.ctx k).lrec.energy + 1)
  (match extra with | some e => (e + 1) :: es | none => es).foldl maxN 0

/-- The admission sum of a core with a kernel's energy class added to one hand. -/
def State.coreSum (s : State) (c : CoreRef) (hand : Nat) (e : Nat) : Nat :=
  let hs := (s.core c).hands.filter (fun x => x.1 ≠ hand && x.2.st ≠ .unformed)
  sumBy (fun x => s.weight x.2 none) hs + s.weight (s.hand (c.hr hand)) (some e)

def State.admits (s : State) (h : HandRef) (kn : Nat) : Bool :=
  decide (s.coreSum h.cr h.hand (s.kernD (s.hand h).ctx kn).lrec.energy ≤ 96)

/-- Items of a kernel that are Active or held on a core. -/
def State.resident (s : State) (c : CoreRef) (ctx kn : Nat) : Nat :=
  sumBy (fun h => if h.2.ctx = ctx then (h.2.lanes.filter (fun l => match l.2.item with | some it => it.kern = kn | none => false)).length else 0) (s.core c).hands

/-- Room under the residency cap. -/
def State.capRoom (s : State) (c : CoreRef) (ctx kn : Nat) : Bool :=
  let cap := (s.kernD ctx kn).lrec.cap
  cap = 0 || decide (s.resident c ctx kn < cap)

/-- Registers of the hands formed on a core. -/
def State.seatSum (s : State) (c : CoreRef) : Nat := sumBy (fun h => if h.2.st = .unformed then 0 else h.2.seat) (s.core c).hands

/-! ## Scratchpad allocations (02 R39) -/

def scrBytes : Nat := 262144

/-- Allocations of a core's scratchpad: base and bytes. -/
def State.scrUsed (s : State) (c : CoreRef) : List (Nat × Nat) :=
  s.ctxs.flatMap (fun x => if x.2.pstat = .saved then [] else
    x.2.kerns.flatMap (fun k => (k.2.tables.filter (fun t => t.2.core = c && t.2.len ≠ 0)).map (fun t => (t.2.base, t.2.len))))

/-- The lowest base at which `len` bytes are free (log 13). -/
def State.scrFit (s : State) (c : CoreRef) (len : Nat) : Option Nat :=
  if len = 0 then some 0
  else
    let used := s.scrUsed c
    leastBy id ((0 :: used.map (fun u => u.1 + u.2)).filter (fun b =>
      decide (b + len ≤ scrBytes) && used.all (fun u => !overlaps b len u.1 u.2)))

/-- The domain of a level forbids a table on a core: another table of its unit is elsewhere (02 R25). -/
def Kernel.placeOk (k : Kernel) (t : Nat) (c : CoreRef) : Bool :=
  (List.range k.lrec.levels).all (fun m =>
    let d := lvDom (k.lrec.level m)
    if m < 2 ∨ 2 < d then true
    else
      let f := k.lrec.unitItems m / k.lrec.fan1
      let mate (u key : Nat) : Bool := u / maxN 1 f ≠ t / maxN 1 f || (if d ≤ 1 then key = coreKey c else key / 64 = c.die)
      k.tables.all (fun e => mate e.1 (coreKey e.2.core)) && k.ended.all (fun e => mate e.1 e.2))

/-- The grant of a table to a core, when its scratchpad fits. -/
def State.grant (s : State) (ctx kn t : Nat) (c : CoreRef) : Option State :=
  match s.kern ctx kn with
  | none => none
  | some k =>
    if k.granted t || !k.ours t || !k.tableReady t || !k.placeOk t c then none
    else
      (s.scrFit c k.lrec.scr).map (fun b =>
        let n := k.tableItems t
        let tb : Table := { core := c, base := b, len := k.lrec.scr, left := List.range n, out := k.lrec.fan1 - n, barrier := k.lrec.barTables }
        s.modKern ctx kn (fun k =>
          let k1 := { k with tables := kSet t tb k.tables }
          { k1 with nextTable := k1.nextFree (k1.tables.length + k1.ended.length + 1 + k1.fab.1 * maxN 1 k1.lrec.topItems) k1.nextTable }))

/-! ## Which items may be drawn (03 R70, R71, 15 R306) -/

/-- An access of the device that failed, with its kind (24 R452). -/
abbrev DevFail := Nat × DevErr

/-- Virtual address of a ring entry of a task deck (15 R306). -/
def Kernel.ringVa (k : Kernel) (e : Nat) : Nat := k.ep.base + k.lrec.tdeck + 64 * e

/-- The record of a task that has been appended and not yet drawn, read on a die no earlier than a logical time. -/
def State.taskGot (s : State) (ctx die pts : Nat) (k : Kernel) (a : Nat) : Except DevFail DevGot :=
  (s.devRead 2 ctx die pts (k.ringVa (kGet 0 a k.ring)) 64).mapError (fun e => (2, e))

/-- Its bytes, as the core that judges what may be drawn sees them. -/
def State.taskRec (s : State) (ctx : Nat) (k : Kernel) (a : Nat) : Except DevFail (List Byte) := (s.taskGot ctx 4 0 k a).map DevGot.bytes

/-- Word i of a record. -/
def recWord (b : List Byte) (i : Nat) : Nat := ofBytes ((b.drop (8 * i)).take 8)

/-- The first identity that an heir item claims; `b` is its record in a task deck. -/
def LaunchRec.ident0 (r : LaunchRec) (item : Nat) (b : List Byte) : Nat :=
  let w := recWord b 1
  if r.task && bitN w 48 then w % 2 ^ 48 else r.cbase + item * r.factor

def State.identBase (s : State) (ctx : Nat) (k : Kernel) (item : Nat) : Except DevFail Nat :=
  if !k.lrec.task then .ok (k.lrec.ident0 item []) else (s.taskRec ctx k item).map (k.lrec.ident0 item)

/-- STATE and KERN of the record of an identity; STATE 4 outside the deck. One that a claim has left at STATE 3 before any testator sealed it belongs to no
testator that has reached Exited, and counts as STATE 0 (DEDUCED, log 47). -/
def State.recState (s : State) (ctx : Nat) (k : Kernel) (ident : Nat) : Except DevFail (Nat × Nat) :=
  if !k.inDeck ident then .ok (4, 0)
  else ((s.devRead 3 ctx 4 0 (k.recVa ident) 16).mapError (fun e => (3, e))).map (fun g =>
    (if k.early.contains ident then 0 else ofBytes (g.bytes.take 8) / 2 ^ 62, fld (ofBytes (g.bytes.drop 8)) 47 32))

/-- STATE and KERN of each record that an item claims. -/
def State.claimStates (s : State) (ctx : Nat) (k : Kernel) (item : Nat) : Except DevFail (List (Nat × Nat)) :=
  match s.identBase ctx k item with
  | .error e => .error e
  | .ok b => (List.range k.lrec.factor).foldr (fun j acc => match s.recState ctx k (b + j), acc with
      | .error e, _ => .error e
      | .ok _, .error e => .error e
      | .ok v, .ok l => .ok (v :: l)) (.ok [])

/-- Whether a testator kernel of a deck has reached Exited; a number that is no testator of it any more belongs to one that has. -/
def State.testOut (s : State) (ctx kn t : Nat) : Bool := !(s.testators ctx kn).contains t || exitedOrMore (s.kernState ctx t)

/-- Whether an item of a kernel whose predecessors are satisfied is drawable (R70): each identity that it claims has a record in STATE 1 or 2,
or in STATE 3 left by a testator that has reached Exited, or every testator has (DEDUCED, log 47). -/
def State.itemReady (s : State) (ctx kn : Nat) (k : Kernel) (item : Nat) : Except DevFail Bool :=
  if !k.lrec.afterEstate || k.lrec.kf = 0 || (s.testators ctx kn).all (fun t => exitedOrMore (s.kernState ctx t)) then .ok true
  else (s.claimStates ctx k item).map (fun vs => vs.all (fun v => v.1 = 1 || v.1 = 2 || (v.1 = 3 && s.testOut ctx kn v.2)))

/-- The first ready item of a list; failures of the device's accesses count as not ready. -/
def State.firstReady (s : State) (ctx kn : Nat) (k : Kernel) (items : List (Nat × Nat)) : Option (Nat × Nat) :=
  items.find? (fun p => match s.itemReady ctx kn k (p.1 * k.lrec.fan1 + p.2) with | .ok b => b | .error _ => false)

/-- The first failure of the device's accesses that keeps an item of a list from being judged. -/
def State.firstFail (s : State) (ctx kn : Nat) (k : Kernel) (items : List (Nat × Nat)) : Option DevFail :=
  items.findSome? (fun p => match s.itemReady ctx kn k (p.1 * k.lrec.fan1 + p.2) with | .ok _ => none | .error e => some e)

/-- Undrawn items of tables granted to a core, in draw order; barrier tables or the others. -/
def Kernel.leftOn (k : Kernel) (c : CoreRef) (bar : Bool) : List (Nat × Nat) :=
  (k.tables.filter (fun e => e.2.core = c && e.2.barrier = bar)).flatMap (fun e => e.2.left.map (fun i => (e.1, i)))

/-- Tables that R39 may grant next, in order: with DEP 1 any table may come first. -/
def Kernel.nextTables (k : Kernel) : List Nat :=
  if k.lrec.afterEstate && k.lrec.kf ≠ 0 then ((List.range (k.tableCount - k.nextTable)).map (fun i => k.nextTable + i)).filter (fun t => !k.granted t && k.ours t)
  else
    let f := maxN 1 (k.lrec.topItems / k.lrec.fan1)
    ((List.range (f * (k.tables.length + k.ended.length + 1) + 1)).map (fun i => k.nextTable + i)).filter (fun t => !k.granted t && k.ours t)

/-- The lowest table not yet granted that holds a drawable item: the one that R39 grants next. -/
def State.nextDrawable (s : State) (ctx kn : Nat) (k : Kernel) : Option (Nat × Nat) :=
  k.nextTables.findSome? (fun t => s.firstReady ctx kn k ((List.range (k.tableItems t)).map (fun i => (t, i))))

/-- The next item of a kernel outside barrier tables that a core may draw, with the state in which its table is granted. -/
def State.pick (s : State) (ctx kn : Nat) (c : CoreRef) : Option (State × Nat × Nat) :=
  match s.kern ctx kn with
  | none => none
  | some k =>
    match s.firstReady ctx kn k (k.leftOn c false) with
    | some (t, i) => some (s, t, i)
    | none =>
      if !(k.leftOn c false).isEmpty || k.lrec.barTables || k.lrec.hdeal then none
      else
        (s.nextDrawable ctx kn k).bind (fun p => (s.grant ctx kn p.1 c).map (fun s1 => (s1, p.1, p.2)))

/-- Whether a core has an item of a kernel that a draw could seat. -/
def State.canDraw (s : State) (ctx kn : Nat) (c : CoreRef) : Bool := s.kernReady ctx kn && (s.pick ctx kn c).isSome

/-- The failure that keeps a core from judging the items of a kernel of which none is known to be drawable there (24 R452): of the tables that it was
granted, or of the next one. -/
def State.kernFail (s : State) (ctx kn : Nat) (c : CoreRef) : Option DevFail :=
  match s.kern ctx kn with
  | none => none
  | some k =>
    if !s.kernReady ctx kn || !s.bound ctx kn c || !s.mayUse ctx c then none
    else
      let own := k.leftOn c false ++ k.leftOn c true
      let items := if own.isEmpty then k.nextTables.flatMap (fun t => (List.range (k.tableItems t)).map (fun i => (t, i))) else own
      if (s.firstReady ctx kn k items).isSome then none else s.firstFail ctx kn k items

/-! ## Seating (02 R31, R40, 03 R60, R79) -/

/-- What a hand loads for a kernel that first takes a lane in it (05 R111, 14 R294, 15 R302). -/
def Kernel.set0 (k : Kernel) : KernSet :=
  { mode := BitVec.ofNat 32 k.lrec.mode, fmts := k.lrec.fmt.filter (fun e => e.2 ≠ 0), gl := k.gl, kc := k.kc, tl := Desc.talon, ep := k.epseg }

/-- A seated lane: levels 1 and 2 zero, the seat's poison clear, no cut (02 R31, 07 R171). -/
def Lane.seated (l : Lane) (it : Item) (pos : Pos) (seat : Nat) : Lane :=
  let r := l.clear12.regs
  { st := .heldReady, item := some it, pos := pos, regs := { r with pois := r.pois.filter (fun k => decide (seat ≤ k)) }, rng := l.rng
    estate := match l.estate with | some e => if e.self then none else some e | none => none }

/-- An item put into a lane, Held-ready at its start PC; a kernel whose last lane it takes leaves nothing in the hand (05 R111). -/
def State.seatLane (s : State) (h : HandRef) (l : Nat) (it : Item) (pos : Pos) (pts : Nat) : State :=
  let k := s.kernD (s.hand h).ctx it.kern
  (s.modHand h (fun d => { d.modLane l (fun ln => ln.seated it pos d.seat) with
    pts := maxN d.pts pts
    sets := if (kFind it.kern d.sets).isSome then d.sets else kSet it.kern k.set0 d.sets }.sweepSets)).reseed h l

/-- The seating claims of an heir item: its registers are leased until each has landed (03 R60). -/
def State.seatClaims (s : State) (h : HandRef) (l : Nat) (kn item base : Nat) : State :=
  let ctx := (s.hand h).ctx
  let k := s.kernD ctx kn
  let n := k.lrec.width
  (List.range k.lrec.factor).foldl (fun a j =>
    let dst := k.lrec.vb + j * n
    let op := a.nextOp
    let c : ClaimReq := { ctx := ctx, h := h, gen := (a.hand h).gen, lane := l, kern := kn, item := item, ident := base + j
                          outside := !k.inDeck (base + j), dst := dst, n := n, j := some j, op := some op }
    (({ a with nextOp := op + 1, nextClaim := a.nextClaim + 1, claims := kSet a.nextClaim c a.claims }).leaseRegs h l op (rngKeys dst n)).modLane h l
      (fun ln => { ln with claimsDue := ln.claimsDue + 1 })) s

/-- A new item of a table seated in a lane of a hand, and whether its start PC is its own. -/
def State.seatItem (s : State) (h : HandRef) (l kn t i age : Nat) : Except DevFail (State × Bool) :=
  let ctx := (s.hand h).ctx
  let k := s.kernD ctx kn
  let item := t * k.lrec.fan1 + i
  let it : Item := { kern := kn, item := item, table := t, tix := i, age := age }
  let drawn (a : State) : State := a.modKern ctx kn (fun k => { k with
    ring := kErase item k.ring
    tables := match kFind t k.tables with
      | some tb => kSet t { tb with left := tb.left.filter (fun j => j ≠ i) } k.tables
      | none => k.tables })
  let claims (a : State) (b : List Byte) : State := if k.lrec.kf = 0 then a else a.seatClaims h l kn item (k.lrec.ident0 item b)
  if k.lrec.task then
    (s.taskGot ctx h.die (s.hand h).pts k item).map (fun g =>
      let own := bitN (recWord g.bytes 1) 49
      let pc := if own then recWord g.bytes 0 % 2 ^ 57 else k.lrec.entry
      let args := (List.range 8).map (fun j => (BitVec.ofNat 32 (recWord g.bytes (4 + j / 2) / 2 ^ (32 * (j % 2))), false))
      (claims ((drawn (g.s.seatLane h l it (Pos.at_ pc) (maxN k.pts g.at_))).modLane h l (fun ln => ln.puts 0 args)) g.bytes, own))
  else .ok (claims (drawn (s.seatLane h l it (Pos.at_ k.lrec.entry) k.pts)) [], false)

/-- A continuation seated in a lane: its carry range returns to its registers (03 R79). The arguments of a task are loaded at its draw (15 R306)
and not again for its continuations (DEDUCED, log 48). -/
def State.seatCont (s : State) (h : HandRef) (l : Nat) (c : Cont) (age : Nat) : Except DevFail State :=
  let k := s.kernD c.ctx c.kern
  let f := k.lrec.fan1
  ((s.takeSelf c.ctx k c h l).mapError (fun e => (3, e))).map (fun r =>
    let it : Item := { kern := c.kern, item := c.item, table := c.item / f, tix := c.item % f, age := age, cont := true, willed := c.willed }
    let s2 := (r.2.2.seatLane h l it (Pos.at_ c.pc) (maxN r.2.1 k.pts)).modLane h l (fun ln => { ln.puts c.start r.1 with psum := c.psum, epois := c.epois })
    s2.modCore h.cr (fun x => { x with contq := x.contq.filter (fun q => q ≠ c) }))

/-! ## Room made by eviction (03 R67) -/

/-- Whether an eviction would take a lane's estate away, or wait: a self-estate stays while its pile record is in use. -/
def State.willGo (s : State) (h : HandRef) (l : Nat) : Bool :=
  s.mayEvict h l && (match s.evictTry h l with | .ok t => (t.lane h l).estate.isNone | .error _ => true)

/-- The hand of a core whose estates go first: every lane Idle or evictable, the oldest sealing. -/
def State.evictHand (s : State) (c : CoreRef) (ctx seat : Nat) : Option HandRef :=
  let hs := (((s.core c).hands.filter (fun e => e.2.st = .opened && e.2.ctx = ctx && decide (seat ≤ e.2.seat))).map (fun e => c.hr e.1)).filter (fun h =>
    (List.range 32).all (fun l => (s.lane h l).st = .idle || s.willGo h l) && (List.range 32).any (fun l => s.willGo h l))
  let age (h : HandRef) : Nat := (((s.hand h).lanes.filterMap (fun l => l.2.estate)).map (fun e => e.sealClk)).foldl minN (2 ^ 64)
  leastBy age hs

/-- Insertion by a measure, after equals. -/
def insBy (f : Nat → Nat) (l : Nat) : List Nat → List Nat
  | [] => [l]
  | m :: ms => if f l < f m then l :: m :: ms else m :: insBy f l ms

/-- Its estates evicted, the oldest sealing first. -/
def State.clearHand (s : State) (h : HandRef) : State :=
  let age (l : Nat) : Nat := match (s.lane h l).estate with | some e => e.sealClk | none => 0
  let order := (List.range 32).foldl (fun acc l => insBy age l acc) []
  order.foldl (fun a l => if a.mayEvict h l then a.evict h l else a) s

/-! ## Barrier tables (02 R50, R51) -/

/-- Idle lanes of a core that a barrier table of a kernel may take, lowest first: whole hands for a hand-dealt kernel. -/
def State.idleFor (s : State) (c : CoreRef) (ctx kn : Nat) : List (HandRef × Nat) :=
  let k := s.kernD ctx kn
  (((s.core c).hands.filter (fun e => e.2.st = .opened && e.2.ctx = ctx && decide (k.lrec.seat ≤ e.2.seat))).map (fun e => c.hr e.1)).flatMap (fun h =>
    let d := s.hand h
    let ls := d.lanesWith (fun l => l.st = .idle)
    if !d.takes kn || (k.lrec.hdeal && ls.length ≠ 32) then [] else ls.map (fun l => (h, l)))

/-- The first n lanes of a list reserved, hand by hand within the admission bound. -/
def State.reserve (s : State) (kn t : Nat) : Nat → List (HandRef × Nat) → Option State
  | 0, _ => some s
  | _ + 1, [] => none
  | n + 1, (h, l) :: rest =>
    if (s.hand h).kerns.contains kn || s.admits h kn then (s.modLane h l (fun ln => { ln with st := .reserved kn t })).reserve kn t n rest
    else s.reserve kn t (n + 1) rest

/-- Lanes of a core Reserved for a kernel. -/
def State.reservedN (s : State) (c : CoreRef) (ctx kn : Nat) : Nat :=
  sumBy (fun h => if h.2.ctx = ctx then (h.2.lanes.filter (fun l => match l.2.st with | .reserved k _ => k = kn | _ => false)).length else 0) (s.core c).hands

/-- A barrier table granted to a core with a Reserved lane for each of its items but the `own` that have lanes of their own. -/
def State.reserveTable (s : State) (c : CoreRef) (ctx kn t own : Nat) : Option State :=
  let k := s.kernD ctx kn
  let n := k.tableItems t
  if k.lrec.cap ≠ 0 && decide (k.lrec.cap < s.resident c ctx kn + s.reservedN c ctx kn + n) then none
  else (s.reserve kn t (n - own) (s.idleFor c ctx kn)).bind (fun s1 => s1.grant ctx kn t c)

/-- The highest level from 2 on that uses barriers. -/
def LaunchRec.barLevel (r : LaunchRec) : Option Nat := ((List.range r.levels).filter (fun m => decide (2 ≤ m) && lvBar (r.level m))).getLast?

/-- The largest unit, in tables, up to a level whose domain is at most d: such units are not divided among places. -/
def LaunchRec.granule (r : LaunchRec) (m d : Nat) : Nat :=
  ((List.range (m + 1)).filter (fun j => decide (1 ≤ j) && decide (lvDom (r.level j) ≤ d))).foldl (fun a j => maxN a (r.unitItems j / r.fan1)) 1

/-- A list of tables cut by the units of n tables that they lie in. -/
def cutUnits (n : Nat) (ts : List Nat) : List (List Nat) :=
  (ts.foldl (fun a t => if a.contains (t / maxN 1 n) then a else a ++ [t / maxN 1 n]) []).map (fun q => ts.filter (fun t => t / maxN 1 n = q))

/-- Cores that may take tables of a barrier unit of a kernel beside the core c: those its domain allows that hold no undrawn item of it (R39). -/
def State.unitCores (s : State) (c : CoreRef) (ctx kn : Nat) : List CoreRef :=
  let k := s.kernD ctx kn
  let dom := match k.lrec.barLevel with | some m => lvDom (k.lrec.level m) | none => 1
  if dom ≤ 1 then []
  else ((if dom = 2 then [c.die] else s.dies).flatMap coresOf).filter (fun x => x ≠ c && s.bound ctx kn x && s.mayUse ctx x && (k.leftOn x true).isEmpty)

/-- Every table of a list granted to one core. -/
def State.placeOn (s : State) (ctx kn : Nat) (c : CoreRef) (ts : List Nat) : Option State :=
  ts.foldl (fun a t => a.bind (fun x => x.reserveTable c ctx kn t 0)) (some s)

/-- Groups of tables placed, each whole on the first core that takes it. -/
def State.placeIn (s : State) (ctx kn : Nat) (cs : List CoreRef) (gs : List (List Nat)) : Option State :=
  gs.foldl (fun a g => a.bind (fun x => cs.findSome? (fun c => x.placeOn ctx kn c g))) (some s)

/-- The tables of a unit placed: units that must lie on one die whole on the first die that takes them, and within it those that must lie on one core
whole on one core. -/
def State.placeTables (s : State) (ctx kn : Nat) (cs : List CoreRef) (ts : List Nat) : Option State :=
  let r := (s.kernD ctx kn).lrec
  let m := r.barLevel.getD 1
  let dies := cs.foldl (fun a c => if a.contains c.die then a else a ++ [c.die]) []
  (cutUnits (r.granule m 2) ts).foldl (fun a g => a.bind (fun x =>
    dies.findSome? (fun d => x.placeIn ctx kn (cs.filter (fun c => c.die = d)) (cutUnits (r.granule m 1) g)))) (some s)

/-- Tables granted together with a table: those of its barrier unit that are not granted (R51). -/
def Kernel.unitOf (k : Kernel) (t : Nat) : List Nat :=
  match k.lrec.barLevel with
  | none => [t]
  | some m =>
    let n := maxN 1 (k.lrec.unitItems m / k.lrec.fan1)
    ((List.range n).map (fun i => t / n * n + i)).filter (fun u => !k.granted u && k.tableItems u ≠ 0)

/-- The table of an heir that a core seats by affinity granted to it (R65): a barrier table with the others of its unit, which need Reserved
lanes but for that heir's own. -/
def State.grantHeir (s : State) (ctx kn t : Nat) (c : CoreRef) : Option State :=
  let k := s.kernD ctx kn
  if !k.lrec.barTables then s.grant ctx kn t c
  else
    let m := k.lrec.barLevel.getD 1
    let rest := (k.unitOf t).filter (fun u => u ≠ t)
    let near (d : Nat) : Nat → Bool := fun u => u / maxN 1 (k.lrec.granule m d) = t / maxN 1 (k.lrec.granule m d)
    let cs := c :: s.unitCores c ctx kn
    (((s.reserveTable c ctx kn t 1).bind (fun s1 => s1.placeOn ctx kn c (rest.filter (near 1)))).bind (fun s2 =>
      s2.placeIn ctx kn (cs.filter (fun x => x.die = c.die)) (cutUnits (k.lrec.granule m 1) (rest.filter (fun u => near 2 u && !near 1 u))))).bind (fun s3 =>
        s3.placeTables ctx kn cs (rest.filter (fun u => !near 2 u && !near 1 u)))

/-! ## Fill actions (02 R40, R41, 03 R64, R65) -/

/-- A fill action in progress: lanes seated, each with whether its start PC is its own. -/
structure Fill where
  s : State
  got : List (Nat × Bool) := []
  /-- no more can be seated -/
  full : Bool := false
  /-- tables that the fill may still be granted, once it has been granted one -/
  left : Option Nat := none

/-- A fault on an access of the device during a fill action; the item stays undrawn and the action waits. -/
def State.drawFault (s : State) (h : HandRef) (e : DevFail) : State := s.devFault (s.hand h).ctx e.1 h.die e.2 (.draw h)

/-- Whether a draw may seat one more item of a kernel in a hand. -/
def Fill.room (f : Fill) (h : HandRef) (kn : Nat) : Bool :=
  !f.full && f.s.capRoom h.cr (f.s.hand h).ctx kn && !f.s.waiting (f.s.hand h).ctx (.draw h)

/-- Woken continuations of a kernel on a core, in order. -/
def State.conts (s : State) (c : CoreRef) (ctx kn : Nat) : List Cont := (s.core c).contq.filter (fun x => x.ctx = ctx && x.kern = kn)

/-- Whether the self-estate of a continuation is about to go to its pile record, its window having ended: it is seated from there (03 R79). -/
def State.selfDue (s : State) (c : Cont) : Bool :=
  match s.selfLane c.ctx c.kern c.item with
  | some (p, l) => s.evictable p l && s.willGo p l
  | none => false

/-- The lane of a hand in which a continuation's self-estate is pinned. -/
def State.contLane (s : State) (h : HandRef) (c : Cont) : Option Nat :=
  match s.selfLane c.ctx c.kern c.item with
  | some (p, l) => if p = h then some l else none
  | none => none

def Hand.idleLane (d : Hand) : Option Nat := (d.lanesWith (fun l => l.st = .idle)).head?

/-- One continuation seated in a lane. -/
def Fill.cont (f : Fill) (h : HandRef) (age : Nat) (c : Cont) (l : Nat) : Fill :=
  match f.s.seatCont h l c age with
  | .ok s1 => { f with s := s1, got := f.got ++ [(l, true)] }
  | .error e => { f with s := f.s.drawFault h e, full := true }

/-- Continuations of a kernel: those pinned in this hand, or those that take an Idle lane. -/
def Fill.conts (f : Fill) (h : HandRef) (kn age : Nat) (pinned : Bool) : Fill :=
  (f.s.conts h.cr (f.s.hand h).ctx kn).foldl (fun g c =>
    if !g.room h kn || g.s.selfDue c then g
    else
      match pinned, g.s.contLane h c with
      | true, some l => g.cont h age c l
      | true, none => g
      | false, some _ => g
      | false, none => match (g.s.hand h).idleLane with | some l => g.cont h age c l | none => g) f

/-- One new item seated in a lane. -/
def Fill.item (f : Fill) (h : HandRef) (kn t i age l : Nat) : Fill :=
  match f.s.seatItem h l kn t i age with
  | .ok (s1, own) => { f with s := s1, got := f.got ++ [(l, own)] }
  | .error e => { f with s := f.s.drawFault h e, full := true }

/-- The item that would claim an identity: by the index, or by the IDENT of an undrawn task. -/
def State.ownerOf (s : State) (ctx : Nat) (k : Kernel) (ident : Nat) : Option Nat :=
  if !k.lrec.task then
    let i := (ident - k.lrec.cbase) / maxN 1 k.lrec.factor
    if i < k.lrec.items then some i else none
  else (k.ring.map Prod.fst).find? (fun a => match s.identBase ctx k a with
    | .ok b => decide (b ≤ ident) && decide (ident < b + k.lrec.factor)
    | .error _ => false)

/-- STATE of the records that an heir claims from identity b on, as the hand that holds one of them pinned sees them: a record
that cannot be read counts as STATE 1 for the pinned estate itself (log 26). -/
def State.affStates (s : State) (ctx : Nat) (k : Kernel) (b ident : Nat) : List Nat :=
  (List.range k.lrec.factor).map (fun j => match s.recState ctx k (b + j) with
    | .ok v => v.1
    | .error _ => if b + j = ident then 1 else 0)

/-- The heir of a kernel whose affinity lane a lane is, when it may be seated there now, at a later clock than the seal's (07 R180): its table and
index, with the state in which its table is granted to the core. -/
def State.affinity (s : State) (h : HandRef) (l kn : Nat) : Option (State × Nat × Nat) :=
  let hd := s.hand h
  let ctx := hd.ctx
  match s.kern ctx kn, (hd.lane l).st, (hd.lane l).estate with
  | some k, .pinned, some e =>
    if e.self ∨ e.deck ≠ kn ∨ s.clk ≤ e.sealClk ∨ e.sealClk + 8192 < s.clk ∨ k.lrec.kf = 0 ∨ k.lrec.hdeal ∨ !k.inDeck e.ident ∨ s.waiting ctx (.seal_ h l) ∨ s.waiting ctx (.evict h l) then none
    else
      match s.ownerOf ctx k e.ident with
      | none => none
      | some item =>
        match s.identBase ctx k item, s.itemReady ctx kn k item with
        | .ok b, .ok true =>
          let j := e.ident - b
          let vs := s.affStates ctx k b e.ident
          let t := item / k.lrec.fan1
          let i := item % k.lrec.fan1
          if vs.idxOf 1 ≠ j then none
          else
            match kFind t k.tables with
            | some tb => if tb.core = h.cr && tb.left.contains i then some (s, t, i) else none
            | none => (s.grantHeir ctx kn t h.cr).map (fun s1 => (s1, t, i))
        | _, _ => none
  | _, _, _ => none

/-- Every drawable heir of a kernel whose affinity lane lies in the hand is seated. -/
def Fill.heirs (f : Fill) (h : HandRef) (kn age : Nat) : Fill :=
  if !f.s.kernReady (f.s.hand h).ctx kn then f
  else (List.range 32).foldl (fun g l =>
    if !g.room h kn then g
    else match g.s.affinity h l kn with
      | some (s1, t, i) => { g with s := s1 }.item h kn t i age l
      | none => g) f

/-- Items of the kernel's granted barrier tables take the Reserved lanes of their tables. -/
def Fill.reserved (f : Fill) (h : HandRef) (kn age : Nat) : Fill :=
  (List.range 32).foldl (fun g l =>
    if !g.room h kn then g
    else
      let ctx := (g.s.hand h).ctx
      match (g.s.lane h l).st with
      | .reserved k t =>
        if k ≠ kn then g
        else
          let kr := g.s.kernD ctx kn
          match g.s.firstReady ctx kn kr ((kr.leftOn h.cr true).filter (fun p => p.1 = t)) with
          | some (_, i) => g.item h kn t i age l
          | none => g
      | _ => g) f

/-- Whether another hand of the hand's context could seat items of a kernel by a fill action of its own. -/
def State.othersFill (s : State) (h : HandRef) (kn : Nat) : Bool :=
  let ctx := (s.hand h).ctx
  (s.handsOf ctx).any (fun g => let d := s.hand g
    g ≠ h && d.st = .opened && !d.filled && d.freeSlot.isSome && !(d.lanesWith (fun l => l.st = .idle)).isEmpty && s.bound ctx kn g.cr && s.mayUse ctx g.cr
      && decide ((s.kernD ctx kn).lrec.seat ≤ d.seat) && d.takes kn && s.admits g kn)

/-- A table granted to a fill action: the first draws how many it gets while other hands fill too, one at the least and all when no choice is named
(20 R367 lets items be placed in any hands in any order of fills; log 60). A fill action that no other hand can go on with goes on itself (02 R40). -/
def Fill.granted (f : Fill) (h : HandRef) (kn : Nat) : Option Fill :=
  if !f.s.othersFill h kn then some f
  else
  match f.left, f.s.grantChoices with
  | some 0, _ => none
  | some (n + 1), _ => some { f with left := some n }
  | none, [] => some f
  | none, n :: ns => some { f with s := { f.s with grantChoices := ns }, left := some (n - 1) }

/-- New items take Idle lanes in ascending order. -/
def Fill.idle (f : Fill) (h : HandRef) (kn age : Nat) : Fill :=
  (List.range 32).foldl (fun g l =>
    if !g.room h kn || (g.s.lane h l).st ≠ .idle then g
    else match g.s.pick (g.s.hand h).ctx kn h.cr with
      | some (s1, t, i) =>
        match if (g.s.kernD (g.s.hand h).ctx kn).granted t then some g else g.granted h kn with
        | some g1 => { g1 with s := { s1 with grantChoices := g1.s.grantChoices } }.item h kn t i age l
        | none => { g with full := true }
      | none => { g with full := true }) f

/-- A draw of a kernel into a hand: continuations, heirs and new items. -/
def State.draw (s : State) (h : HandRef) (kn : Nat) : Fill :=
  let hd := s.hand h
  let age := (hd.seq + 1) % 2 ^ 32
  let k := s.kernD hd.ctx kn
  if k.lrec.hdeal || hd.st ≠ .opened || !hd.takes kn || !s.admits h kn || !s.mayUse hd.ctx h.cr then { s := s }
  else
    let f0 : Fill := ((({ s := s } : Fill).conts h kn age true).heirs h kn age).conts h kn age false
    let f1 := if s.kernReady hd.ctx kn && s.bound hd.ctx kn h.cr then (f0.reserved h kn age).idle h kn age else f0
    if f1.got.isEmpty then (match s.kernFail hd.ctx kn h.cr with | some e => { f1 with s := f1.s.drawFault h e } | none => f1) else { f1 with s := f1.s.modHand h (fun d => { d with seq := age }) }

end Sys2Proof.Machine
end

