-- ==== Sys2Proof/Machine/Control.lean ====
section
/-! DEFINITION. Sys2Proof/Machine/Control.lean: branches, melds, the end of items, cuts, suspension, waits, barriers and trap mode
(07), with the events of suits and held lanes (02 R34, R44, 07 R167, R175). -/

namespace Sys2Proof.Machine

/-! ## Suits divided (02 R43) -/

/-- A suit that has just taken a slot. -/
def State.newSuit (s : State) (kern : Nat) (pos : Pos) : Suit := { kern := kern, pos := pos, since := s.clk }

/-- The suit that a fill action forms: Ready at the next clock (02 R34; log 11). -/
def State.fillSuit (s : State) (kern : Nat) (pos : Pos) : Suit := { s.newSuit kern pos with stall := .filled }

/-- Lanes put into the lowest Free slot as a new suit, or Held-ready where none is Free. -/
def State.offload (s : State) (h : HandRef) (kern : Nat) (pos : Pos) (lanes : List Nat) : State :=
  s.modHand h (fun d =>
    match d.freeSlot with
    | some n => { d.modLanes lanes (fun _ l => { l with st := .active n, pos := pos }) with suits := kSet n (s.newSuit kern pos) d.suits }
    | none => d.modLanes lanes (fun _ l => { l with st := .heldReady, pos := pos }))

/-- The suit stands at a place, Ready. -/
def State.moveTo (s : State) (r : SuitRef) (pos : Pos) : State := s.modSuit r (fun u => { u with pos := pos, stall := .ready, wait := 0 })

/-- The next clause header of the suit. -/
def Iss.fall (x : Iss) : Pos := Pos.at_ x.u.pos.nextHdr

/-- The target of a MOD offset (06 R152). One that leaves the 57 bits of an address wraps (DESIGN CHOICE, log 64). -/
def Iss.target (x : Iss) (off : W32) : Nat := wrapNat 57 ((x.u.pos.hdr : Int) + 16 * sext 32 off.toNat)

/-- An event that a suit in Trap may not make (22 R383). -/
def Iss.double (x : Iss) (major : Nat) : State :=
  match x.u.trap with
  | some t => x.s.halt x.ctx 0x21 (x.s.trapRec x.r 0x21 (256 + major) x.u.pos.pc x.ex [] x.u.pos.pc t.tpc.pc)
  | none => x.s

/-- A taken side and a fall-through side of one target. -/
def Iss.split2 (x : Iss) (s : State) (major tgt : Nat) (taken : List Nat) : State :=
  let rest := x.act.filter (fun l => !taken.contains l)
  let tp := Pos.at_ tgt
  if taken.isEmpty then s.moveTo x.r x.fall
  else if rest.isEmpty ∨ tp = x.fall then s.moveTo x.r tp
  else if x.u.trap.isSome then x.double major
  else if x.hd.freeSlot.isSome ∨ rest.length ≤ taken.length then (s.moveTo x.r tp).offload x.h x.u.kern x.fall rest
  else (s.moveTo x.r x.fall).modHand x.h (fun d => d.modLanes taken (fun _ l => { l with st := .heldReady, pos := tp }))

/-- Distinct targets, rising. -/
def targets (ts : List (Nat × Nat)) : List Nat := ts.foldl (fun a t => insN t.2 a) []

/-- One group for each distinct target; the group of the lowest lane keeps the suit. -/
def Iss.splitN (x : Iss) (s : State) (major : Nat) (ts : List (Nat × Nat)) : State :=
  match ts with
  | [] => s.moveTo x.r x.fall
  | (_, t0) :: _ =>
    let others := (targets ts).filter (fun t => t ≠ t0)
    if !others.isEmpty && x.u.trap.isSome then x.double major
    else others.foldl (fun a t => a.offload x.h x.u.kern (Pos.at_ t) ((ts.filter (fun p => p.2 = t)).map Prod.fst)) (s.moveTo x.r (Pos.at_ t0))

/-- A link written in the executing lanes. -/
def Iss.link (x : Iss) (d : Dst) : State := x.commit (fun _ => out64 d x.u.pos.nextHdr false)

/-- A transfer to one target: the taken lanes are given. -/
def jump (u : Use) (s : State) (off : W32) (bad taken : Iss → List Nat) (link : Iss → State) : Out :=
  issue { u with ends := true } s (fun x => x.control (bad x) (x.split2 (link x) u.major (x.target off) (taken x)))

/-- Where each lane of the suit goes: an executing lane to its own target, the others on. -/
def Iss.dests (x : Iss) (a : Src) : List (Nat × Nat) := x.act.map (fun l => (l, if x.ex.contains l then x.val .w64 l a else x.u.pos.nextHdr))

/-- What an instruction does in the lanes of the suit that do not fault (24 R407): those that do are held where they stand. -/
def Iss.others (x : Iss) (bad : List Nat) (k : Iss → State) : State :=
  let s1 := x.s.modHand x.h (fun d => d.modLanes bad (fun _ ln => { ln with st := .heldFault .access, pos := x.u.pos }))
  let act := x.act.filter (fun l => !bad.contains l)
  if act.isEmpty then s1.modHand x.h Hand.sweep
  else k { x with s := s1, hd := s1.hand x.h, act := act, ex := x.ex.filter (fun l => !bad.contains l) }

/-- A transfer of each executing lane to its own 64-bit target (07 R166). A target with bits 3:0 or 63:57 set is fatal, and lanes with a good one still take
effect (24 R407, Table 24.1 reason 9). -/
def jumpX (u : Use) (s : State) (a : Src) (link : Iss → State) : Out :=
  issue { u with ends := true } s (fun x =>
    x.control (x.ex.filter (fun l => x.pois .w64 l a))
      (match x.ex.filter (fun l => x.val .w64 l a % 16 ≠ 0 || decide (2 ^ 57 ≤ x.val .w64 l a)) with
       | l :: ls =>
         let rec_ := x.s.trapRec x.r 0x22 9 x.u.pos.pc (l :: ls) [] (x.val .w64 l a) 0
         if x.u.trap.isSome then x.s.halt x.ctx 0x22 rec_
         else (x.others (l :: ls) (fun y => y.splitN (link y) u.major (y.dests a))).halt x.ctx 0x22 rec_
       | [] => x.splitN (link x) u.major (x.dests a)))

/-- BRA (07 R166). -/
def execBra (g : Grd) (off : W32) (s : State) : Out := jump { g := g, major := 1 } s off (fun _ => []) (fun x => x.ex) (fun x => x.s)

/-- BR: the executing lanes whose condition is not zero are taken (07 R166). -/
def execBr (g : Grd) (a : Src) (off : W32) (s : State) : Out :=
  jump (useOf g 2 0 .none [(1, a)]) s off (fun x => x.ex.filter (fun l => x.pois .w32 l a))
    (fun x => x.ex.filter (fun l => x.val .w32 l a ≠ 0)) (fun x => x.s)

/-- BRX (07 R166). -/
def execBrx (g : Grd) (a : Src) (s : State) : Out := jumpX (useOf g 3 0 .none [(2, a)]) s a (fun x => x.s)

/-- CALL (07 R166). -/
def execCall (g : Grd) (d : Dst) (off : W32) (s : State) : Out :=
  jump (useOf g 4 2 d []) s off (fun _ => []) (fun x => x.ex) (fun x => x.link d)

/-- CALLX (07 R166). -/
def execCallx (g : Grd) (d : Dst) (a : Src) (s : State) : Out := jumpX (useOf g 5 2 d [(2, a)]) s a (fun x => x.link d)

/-- RET: as BRX (07 R166). -/
def execRet (g : Grd) (a : Src) (s : State) : Out := jumpX (useOf g 6 0 .none [(2, a)]) s a (fun x => x.s)

/-! ## MELD (02 R45, 07 R167) -/

/-- Suits of a hand at one place and kernel that are not in Trap. -/
def Hand.suitsAt (d : Hand) (kern : Nat) (pos : Pos) : List (Nat × Suit) :=
  d.suits.filter (fun e => e.2.kern = kern && e.2.pos = pos && e.2.trap.isNone)

/-- Held-ready lanes of a kernel at a place. -/
def Hand.readyAt (d : Hand) (kern : Nat) (pos : Pos) : List Nat :=
  d.lanesWith (fun l => l.st = .heldReady && l.pos = pos && (match l.item with | some it => it.kern = kern | none => false))

/-- Everything of the suit's kernel that stands at its MELD becomes one suit of the lowest number; the number, and whether
no Active or Held-ready lane of the kernel stands elsewhere. -/
def State.meld (s : State) (h : HandRef) (kern : Nat) (pos : Pos) (dflt : Nat) : State × Nat × Nat × Bool :=
  let d := s.hand h
  let su := d.suitsAt kern pos
  let lanes := su.flatMap (fun e => d.active e.1) ++ d.readyAt kern pos
  match su with
  | [] => (s, 0, dflt, true)
  | (n, u) :: _ =>
    let until_ := (su.findSome? (fun e => match e.2.stall with | .meld t => some t | _ => none)).getD dflt
    let d1 := { d with suits := kSet n { u with stall := .meld until_ } (d.suits.filter (fun e => !su.any (fun w => w.1 = e.1))) }
    let d2 := d1.modLanes lanes (fun _ l => { l with st := .active n, heldSince := none })
    let others := d2.lanesWith (fun l => (match l.item with | some it => it.kern = kern | none => false) &&
      (match l.st with | .heldReady => true | .active m => m ≠ n | _ => false))
    (s.modHand h (fun _ => d2), n, until_, others.isEmpty)

/-- MELD: melds at once, and waits up to WIN clocks for the kernel's other lanes. -/
def execMeld (win : Nat) (s : State) : Out :=
  issue { major := 7 } s (fun x =>
    if x.u.trap.isSome then x.double 7
    else
      let (s1, n, t, alone) := x.s.meld x.h x.u.kern x.u.pos (s.clk + win)
      if alone ∨ t ≤ s.clk then s1.advance (x.h.sr n) else s1.modSuit (x.h.sr n) (fun u => { u with wait := 0 }))

/-- MELD_WINDOW_EXPIRY: groups that have reached the MELD join; the wait ends with the window, or when no other lane of the
kernel can come. -/
def execMeldWindowExpiry (r : SuitRef) (s : State) : Out :=
  match (s.hand r.hr).suit r.suit with
  | none => .next s
  | some u =>
    match u.stall with
    | .meld _ =>
      let (s1, n, t, alone) := s.meld r.hr u.kern u.pos s.clk
      .next (if alone ∨ t ≤ s.clk then s1.modSuit (r.hr.sr n) (fun v => { v with pos := v.pos.after (v.pos.pc + 12), stall := .ready, wait := 0 }) else s1)
    | _ => .next s

/-! ## EXIT (07 R168) -/

/-- The lease violation of some lanes: ARG0 the code of the lowest leased register, ARG1 the MAJOR (06 R155). -/
def Iss.leaseTrap (x : Iss) (u : Use) (lanes : List Nat) (keys : List Nat) : State :=
  match lanes with
  | [] => x.s
  | l :: _ => x.trap u 2 0 lanes ((((x.lane l).leases.map Prod.fst).filter keys.contains).foldl minN 1023) u.major

/-- Executing lanes with a lease on a register of a range that depends on the lane. -/
def Iss.leasing (x : Iss) (f : Nat → List Nat) : List Nat := x.ex.filter (fun l => (x.lane l).leases? (f l))

/-- Every lease of the executing lanes. -/
def Iss.leaseOps (x : Iss) : List Nat := x.ex.flatMap (fun l => (x.lane l).leases.map Prod.snd)

/-- The lanes that a suit keeps stand at the next clause header; a suit without lanes gives up its slot. -/
def State.leave (s : State) (r : SuitRef) (pos : Pos) : State :=
  if ((s.hand r.hr).active r.suit).isEmpty then s.modHand r.hr Hand.sweep else s.moveTo r pos

/-- One item ends: sealed after WILL, else its lane is Idle. -/
def State.exitLane (s : State) (h : HandRef) (l : Nat) : State :=
  let hd := s.hand h
  match (hd.lane l).item with
  | none => s
  | some it =>
    let s1 := match (hd.lane l).will with
      | some w => s.sealWill h l it w
      | none => s.freeLane h l
    s1.itemOut hd.ctx h it

/-- Whether the exit of some lanes is a publication point: one seals an estate, or they are the last items of a table (04 R103). -/
def Iss.exitPublishes (x : Iss) : Bool :=
  x.ex.any (fun l => (x.lane l).will.isSome || (match kFind (x.item l).table x.kern.tables with
    | some t => decide (x.kern.lrec.fan1 ≤ t.out + (x.ex.filter (fun j => (x.item j).table = (x.item l).table)).length)
    | none => false))

/-- Whether a store of policy 1 of a table that the exit ends has still to reach its core's L1: the end publishes it (04 R103). -/
def Iss.exitDue (x : Iss) : Bool :=
  x.exitPublishes && x.s.reqs.any (fun e => e.2.ctx = x.ctx && e.2.kern = x.u.kern && e.2.acc.kind.isStore && !e.2.acc.sc && e.2.pol = .core &&
    x.ex.any (fun l => (x.item l).table = e.2.item / x.kern.lrec.fan1))

/-- EXIT: ends the item in each executing lane. A leased will range is a lease violation, before anything that EXIT waits for. In Trap it is a double fault, in however few lanes it executes (DEDUCED, log 50). -/
def execExit (g : Grd) (s : State) : Out :=
  let u : Use := { g := g, major := 8, ends := true }
  issue u s (fun x =>
    let rng (l : Nat) : List Nat := match (x.lane l).will with | some w => rngKeys w.range.start w.range.len | none => []
    let willed := x.ex.filter (fun l => (x.lane l).will.isSome)
    if x.u.trap.isSome then x.double 8
    else if !(x.leasing rng).isEmpty then x.leaseTrap u (x.leasing rng) ((x.leasing rng).flatMap rng)
    else if !x.leaseOps.isEmpty then x.stall .lease x.leaseOps
    else if x.beforePoint || x.exitDue || willed.any (fun l => x.s.itemWaits x.ctx (x.item l).kern (x.item l).item) then x.stall .issuePoint []
    else
      (if x.exitPublishes then x.published else id) <|
      let s1 := if willed.isEmpty then x.s else x.s.publish x.h
      (x.ex.foldl (fun a l => a.exitLane x.h l) s1).leave x.r x.fall)

/-! ## DRAW (07 R169) -/

/-- DRAW: a fill action of the suit's kernel; n lanes join the suit, and n is written in them and in the executing lanes. A hand that has made a fill
action on this clock makes this one at the next (02 R34). The write of n shifts the last-result slots of joining lanes also (06 R147 names only
lanes that execute: DESIGN CHOICE, log 49). A task of a kernel with PCV 0 joins the suit too (02 R40, 07 R169), although 15 R306 starts such an item
at ENTRY, by DRAW also (DEDUCED, log 49). -/
def execDraw (d : Dst) (s : State) : Out :=
  issue (useOf Grd.always 9 1 d []) s (fun x =>
    if x.u.trap.isSome then x.double 9
    else if x.hd.filled then x.s.modSuit x.r (fun u => { u with stall := .filled, wait := 0 })
    else
      let f := x.s.draw x.h x.u.kern
      let join := (f.got.filter (fun e => !e.2)).map Prod.fst
      let s1 := (f.s.modHand x.h (fun h => { h.modLanes join (fun _ l => { l with st := .active x.r.suit }) with
        filled := h.filled || !f.got.isEmpty })).sealLanes x.h x.ex
      ((x.ex ++ join).foldl (fun a l => a.laneOut x.h l (out32 d join.length false)) s1).advance x.r)

/-! ## CUT (07 R170, R171) -/

/-- CUT: the place and live set of every lane of the suit, which is then unsealed. -/
def execCut (r1 r2 r3 : Rng) (s : State) : Out :=
  let live := [r1, r2, r3].filter (fun r => r.len ≠ 0)
  let keys := live.flatMap (fun r => rngKeys r.start r.len)
  let u : Use := { major := 10 }
  issue u s (fun x =>
    let viol := x.leasing (fun _ => keys)
    if x.u.trap.isSome then x.double 10
    else if !viol.isEmpty then x.leaseTrap u viol keys
    else
      match badWin x.seat (live.flatMap (fun r => rngWin r.start r.len)) with
      | some (i, b, w) => x.trap u 3 0 x.ex i (b * 2 ^ 32 + w)
      | none =>
        (x.s.modHand x.h (fun d => d.modLanes x.ex (fun _ l => { l with cut := some { pos := x.u.pos, ranges := live }, isSealed := false }))).advance x.r)

/-! ## SUSPEND (03 R76, R77, 07 R174, 24 R418) -/

/-- Wait records of a slice. -/
def State.waitCount (s : State) (die sl : Nat) : Nat := (s.waitRecs.filter (fun w => w.die = die && w.slice = sl)).length

/-- A lane that SUSPEND leaves Held-fault at the SUSPEND itself. -/
def State.suspendHold (s : State) (h : HandRef) (l : Nat) (pos : Pos) (why : HeldWhy) : State :=
  s.modLane h l (fun ln => { ln with st := .heldFault why, pos := pos })

/-- Whether a lane of a context is held for want of a wait record at a slice. -/
def State.waitHeld (s : State) (ctx die sl : Nat) : Bool :=
  (s.handsOf ctx).any (fun h => !((s.hand h).lanesWith (fun l => match l.st with | .heldFault (.waitRecord d q _) => d = die && q = sl | _ => false)).isEmpty)

/-- A lane for which no wait record is free: CX.WFULL, and one WAITFULL record for each slice with such lanes. -/
def State.waitFull (s : State) (ctx : Nat) (h : HandRef) (l : Nat) (pos : Pos) (va die sl : Nat) : State :=
  let s1 := ({ s with order := s.order + 1 }.suspendHold h l pos (.waitRecord die sl s.order)).bump ctx 0x19A 1
  let k := 32 * die + sl
  if (s1.ctxD ctx).waitFull.contains k && s.waitHeld ctx die sl then s1
  else ((s1.modCtx ctx (fun x => { x with waitFull := insN k x.waitFull })).faultRecord ctx { kind := 2, req := 5, acc := 2, fdie := h.die, va := va, arg := locSlice die sl }).1

/-- The self-estate of an item: its carry range sealed in its lane, Pinned. -/
def State.sealSelf (s : State) (h : HandRef) (l : Nat) (it : Item) (r : Rng) : State :=
  s.modLane h l (fun ln => ln.pin { self := true, ident := it.item, deck := it.kern, start := r.start, data := ln.capture r, kern := it.kern
                                    item := it.item, sealClk := s.clk, psum := ln.psum, epois := ln.epois })

/-- The atomic test at the event word's home, and the self-estate; or the lane is held for want of a wait record. -/
def State.suspendAt (s : State) (h : HandRef) (l : Nat) (pos : Pos) (va pa repl target pc : Nat) (r : Rng) : State :=
  let hd := s.hand h
  match (hd.lane l).item with
  | none => s
  | some it =>
    let hm := s.home pa
    let s0 := s.publish h
    let word := s0.mem64 pa
    if word < target ∧ 2048 ≤ s.waitCount hm.die hm.slice then s.waitFull hd.ctx h l pos va hm.die hm.slice
    else
      let (s1, p) := s0.homeWrite (s0.hand h).pts pa (bytesOf 8 word) (s0.memPois pa 8) { ctx := hd.ctx, die := h.die, repl := repl }
      let s2 := s1.setPts h hd.gen p
      let c : Cont := { ctx := hd.ctx, kern := it.kern, item := it.item, pc := pc, start := r.start, len := r.len, psum := (hd.lane l).psum
                        epois := (hd.lane l).epois, willed := it.willed, pts := p }
      let s3 := s2.sealSelf h l it r
      if target ≤ word then s3.queueCont h.cr c
      else { s3 with waitRecs := s3.waitRecs ++ [{ die := hm.die, slice := hm.slice, pa := pa, target := target, core := h.cr, cont := c }] }

/-- The access that SUSPEND makes of its event word. -/
def suspendAcc (pl : Nat) : Access := { kind := .evadd 0, sc := false, addr := 0, len := 8, pol := .shared, dst := [], pl := pl }

/-- One lane of SUSPEND; fatal faults are gathered. -/
def Iss.suspendLane (x : Iss) (a b : Src) (pc : Nat) (r : Rng) (t : State × List (Nat × Nat × Nat)) (l : Nat) : State × List (Nat × Nat × Nat) :=
  let off := x.val .w64 l a
  match t.1.laneCheck x { seg := .gl, pol := .shared, disp := 0 } (fun _ => true) (suspendAcc x.pl) off l with
  | (.stop rs arg, s1) => (s1, t.2 ++ [(l, rs, arg)])
  | (.park acc lv en, s1) =>
    (((s1.replayable x.ctx acc.addr lv en { kind := 1, req := 0, acc := 2, fdie := x.r.die, item := (x.item l).item, who := s1.whoOf x.r x.u.kern }).suspendHold
      x.h l x.u.pos .suspend), t.2)
  | (.go acc pa _ repl lo, s1) => ((s1.mark x.ctx pa lo).suspendAt x.h l x.u.pos acc.addr pa repl (x.val .w64 l b) pc r, t.2)

/-- Whether an engine operation holds the line of an event word that an executing lane of SUSPEND would write (04 R100). -/
def Iss.suspendBars (x : Iss) (a : Src) : Bool :=
  x.ex.any (fun l => match (x.s.laneCheck x { seg := .gl, pol := .shared, disp := 0 } (fun _ => true) (suspendAcc x.pl) (x.val .w64 l a) l).1 with
    | .go _ pa _ _ _ => x.s.claimBars .mem x.h.cr (lineOf pa) true
    | _ => false)

/-- SUSPEND: each executing item waits, holding no lane, until its event word reaches its target. A leased carry range is a lease violation, before anything
that SUSPEND waits for. In Trap it is a double fault, in
however few lanes it executes (DEDUCED, log 50). -/
def execSuspend (g : Grd) (a b : Src) (off : W32) (c n : Nat) (s : State) : Out :=
  let u : Use := { useOf g 0x0b 0 .none [(2, a), (2, b)] with wins := [], ends := true }
  let r : Rng := { start := c, len := n + 1 }
  let keys := rngKeys c (n + 1)
  issue u s (fun x =>
    let viol := x.leasing (fun _ => keys)
    let mis := x.ex.filter (fun l => x.val .w64 l a % 8 ≠ 0)
    let pc := x.target off
    if x.u.trap.isSome then x.double 0x0b
    else if x.ex.isEmpty then x.s.moveTo x.r x.fall
    else
      x.control (x.ex.filter (fun l => x.pois .w64 l a || x.pois .w64 l b))
        (if !viol.isEmpty then x.leaseTrap u viol keys
         else
          match badWin x.seat (srcWin 2 a ++ srcWin 2 b ++ rngWin c (n + 1)) with
          | some (i, w0, w) => x.trap u 3 0 x.ex i (w0 * 2 ^ 32 + w)
          | none =>
            if !x.leaseOps.isEmpty then x.stall .lease x.leaseOps
            else if x.beforePoint || x.ex.any (fun l => x.s.itemWaits x.ctx (x.item l).kern (x.item l).item) then x.stall .issuePoint []
            else
              match mis, x.ex.filter (fun l => (x.item l).willed || x.kern.lrec.pcap = 0) with
              | l :: ls, _ => x.trap u 4 8 (l :: ls) (x.val .w64 l a) 0
              | [], l :: ls => x.trap u 7 0 (l :: ls) (x.val .w64 l a) pc
              | [], [] =>
                if x.suspendBars a then x.stall .issuePoint []
                else
                x.published <|
                let t := x.ex.foldl (x.suspendLane a b pc r) (x.s, [])
                (t.1.leave x.r x.fall).haltLanes x t.2))

/-! ## WAITP (07 R175) -/

/-- WAITP: until the peg is at or below the least threshold of the executing lanes. -/
def execWaitp (g : Grd) (a : Src) (peg : Nat) (s : State) : Out :=
  issue (useOf g 0x0c 0 .none [(1, a)]) s (fun x =>
    let ts := x.ex.map (fun l => (l, x.val .w32 l a))
    if ts.all (fun t => decide (x.hd.peg peg ≤ t.2)) then x.s.advance x.r
    else x.stall (.waitp (s.clk + 256) peg ts) ((kGet [] peg x.hd.pegs).map PegEnt.op))

/-- WAITP_GIVE_UP: after 256 clocks the suit gives up its slot (07 R175). -/
def execWaitpGiveUp (r : SuitRef) (s : State) : Out :=
  match (s.hand r.hr).suit r.suit with
  | none => .next s
  | some u =>
    match u.stall, u.trap with
    | .waitp t peg thrs, none =>
      if t < s.clk then
        let pos := u.pos.after (u.pos.pc + 12)
        .next (s.modHand r.hr (fun d => Hand.sweep (d.modLanes (d.active r.suit) (fun l ln =>
          { ln with pos := pos, st := match thrs.find? (fun e => e.1 = l) with | some e => .heldWait peg e.2 | none => .heldReady }))))
      else .next s
    | _, _ => .next s

/-- PEG_THRESHOLD_REACHED: a Held-wait lane whose peg is low enough becomes Held-ready (02 R30). -/
def execPegThresholdReached (h : HandRef) (lane : Nat) (s : State) : Out :=
  let d := s.hand h
  match (d.lane lane).st with
  | .heldWait p thr => .next (if d.peg p ≤ thr then s.modLane h lane (fun l => { l with st := .heldReady }) else s)
  | _ => .next s

/-! ## BAR (02 R28, 07 R176) -/

def barKey (level unit : Nat) : Nat := 2 ^ 40 * level + unit

/-- Items of a unit of a level that have exited or will never be created. -/
def Kernel.unitOut (k : Kernel) (level unit : Nat) : Nat :=
  let f1 := k.lrec.fan1
  let n := k.lrec.unitItems level / maxN 1 f1
  sumBy (fun i =>
    let t := unit * n + i
    match kFind t k.tables with
    | some tb => tb.out
    | none => if (kFind t k.ended).isSome || (k.lrec.task && k.closed && decide (k.appended ≤ t * f1)) then f1 else 0) (List.range n)

/-- Whether the current instance of a barrier is complete: every item of the unit has arrived or exited. -/
def Kernel.barDone (k : Kernel) (level unit : Nat) : Bool :=
  decide (k.lrec.unitItems level ≤ (kGet [] (barKey level unit) k.arrivals).length + k.unitOut level unit)

/-- The instance completes: lanes held at it are Held-ready, and their hands follow every arrival in time. -/
def State.barRelease (s : State) (ctx kn level unit : Nat) : State :=
  let k := s.kernD ctx kn
  let f := k.lrec.unitItems level
  let p := kGet 0 (barKey level unit) k.barPts
  let mine (l : Lane) : Bool := match l.item with | some it => it.kern = kn && it.item / maxN 1 f = unit | none => false
  let s1 := s.modKern ctx kn (fun k => { k with arrivals := kErase (barKey level unit) k.arrivals, barPts := kErase (barKey level unit) k.barPts })
  { s1 with cores := s1.cores.map (fun c => (c.1, { c.2 with hands := c.2.hands.map (fun h => (h.1,
      if h.2.ctx = ctx ∧ h.2.lanes.any (fun l => mine l.2) then
        { h.2 with pts := maxN h.2.pts p
                   lanes := h.2.lanes.map (fun l => (l.1, if l.2.st = .heldBarrier level && mine l.2 then { l.2 with st := .heldReady } else l.2)) }
      else h.2)) })) }

/-- One item arrives at its unit's instance. -/
def State.arriveBar (s : State) (ctx kn level item pts : Nat) : State :=
  s.modKern ctx kn (fun k =>
    let key := barKey level (item / maxN 1 (k.lrec.unitItems level))
    { k with arrivals := kSet key (insN item (kGet [] key k.arrivals)) k.arrivals, barPts := kSet key (maxN pts (kGet 0 key k.barPts)) k.barPts })

/-- BAR: every item of the suit arrives; the suit goes on when every instance is complete. -/
def execBar (k : Nat) (s : State) : Out :=
  issue { major := 0x0d, event := true, now := true } s (fun x =>
    if x.u.trap.isSome then x.double 0x0d
    else
      (if 1 < lvScope (x.kern.lrec.level k) then x.published else id) <|
      let kn := x.u.kern
      let s1 := (if 1 < lvScope (x.kern.lrec.level k) then x.s.publish x.h else x.s).sealLanes x.h x.ex
      let s2 := x.ex.foldl (fun a l => a.arriveBar x.ctx kn k (x.item l).item (a.hand x.h).pts) s1
      let unit (l : Nat) : Nat := (x.item l).item / maxN 1 (x.kern.lrec.unitItems k)
      let units := x.ex.foldl (fun a l => insN (unit l) a) []
      let done := units.filter (fun q => (s2.kernD x.ctx kn).barDone k q)
      let s3 := done.foldl (fun a q => a.barRelease x.ctx kn k q) s2
      if done = units then s3.advance x.r
      else
        let pos := x.u.pos.after s.npc
        s3.modHand x.h (fun d => Hand.sweep (d.modLanes x.ex (fun l ln =>
          { ln with pos := pos, st := if done.contains (unit l) then .heldReady else .heldBarrier k }))))

/-- BARRIER_COMPLETE: an instance that the exit of an item has completed (02 R28). -/
def execBarrierComplete (ctx kern level unit : Nat) (s : State) : Out :=
  match s.kern ctx kern with
  | none => .next s
  | some k => .next (if (kFind (barKey level unit) k.arrivals).isSome && k.barDone level unit then s.barRelease ctx kern level unit else s)

/-! ## YIELD (07 R177) -/

/-- YIELD: the waiting time is zero; the slot is kept. -/
def execYield (s : State) : Out :=
  issue { major := 0x0e } s (fun x => if x.u.trap.isSome then x.double 0x0e else x.s.advance x.r)

/-- YIELD.slot: the lanes are Held-ready at the next instruction, and are passed over at the next fill of a slot. -/
def execYieldSlot (s : State) : Out :=
  issue { major := 0x0e } s (fun x =>
    if x.u.trap.isSome then x.double 0x0e
    else
      let pos := x.u.pos.after s.npc
      x.s.modHand x.h (fun d => Hand.sweep { d.modLanes x.act (fun _ l => { l with st := .heldReady, pos := pos }) with passOver := x.act }))

/-! ## TRAP and TRET (07 R178, R179) -/

/-- TRAP: the executing lanes enter trap mode; the others take the lowest Free slot or are Held-ready. In Trap it is a double fault, in however few
lanes it executes (DEDUCED, log 50). -/
def execTrap (g : Grd) (code : Nat) (s : State) : Out :=
  issue { g := g, major := 0x0f, ends := true } s (fun x =>
    if x.u.trap.isSome then x.s.trapEntry x.r 1 code x.ex x.ex x.fall 0 0
    else if x.ex.isEmpty then x.s.moveTo x.r x.fall
    else
      let rest := x.act.filter (fun l => !x.ex.contains l)
      let s1 := x.s.sealLanes x.h x.ex
      (if rest.isEmpty then s1 else s1.offload x.h x.u.kern x.fall rest).trapEntry x.r 1 code x.ex x.ex x.fall 0 0)

/-- TRET: back to Ready at TPC; outside Trap a system-operand trap (23 Table 23.2). -/
def execTret (s : State) : Out :=
  let u : Use := { major := 0x0f, ends := true }
  issue u s (fun x =>
    match x.u.trap with
    | some t => x.s.trapReturn x.r t
    | none => x.trap u 7 0 x.ex 0 0)

/-! ## Slots filled from held lanes (02 R34, R44) -/

/-- Whether a hand may be filled: formed, with a Free slot, its context running. A core that another context holds bars only what 26 R436 names, which is
no fill from the lanes that the hand already has. -/
def State.fillable (s : State) (h : HandRef) : Bool :=
  let d := s.hand h
  (d.st = .opened || d.st = .dealt) && !d.filled && d.freeSlot.isSome && s.runs d.ctx

/-- Held-ready lanes that the next fill may take. -/
def Hand.candidates (d : Hand) : List Nat := d.lanesWith (fun l => l.st = .heldReady && l.item.isSome)

/-- The group of source 1: lowest resume PC, then lowest kernel number; lanes passed over are left out. -/
def Hand.group (d : Hand) : Option (Nat × Pos × List Nat) :=
  let cs := d.candidates.filter (fun l => !d.passOver.contains l)
  let kern (l : Nat) : Nat := match (d.lane l).item with | some it => it.kern | none => 0
  (leastBy (fun l => (d.lane l).pos.pc * 65536 + kern l) cs).map (fun l =>
    (kern l, (d.lane l).pos, cs.filter (fun m => (d.lane m).pos = (d.lane l).pos && kern m = kern l)))

/-- HELD_REFORM: a Free slot is filled from source 1 (02 R34). -/
def execHeldReform (h : HandRef) (s : State) : Out :=
  let d := s.hand h
  if !s.fillable h then .next s
  else
    match d.group, d.freeSlot with
    | some (kern, pos, lanes), some n =>
      .next (s.modHand h (fun d => { d.modLanes lanes (fun _ l => { l with st := .active n, heldSince := none }) with
        suits := kSet n (s.fillSuit kern pos) d.suits, passOver := [], filled := true }))
    | _, _ => .next s

/-- The suit that rotation picks: the one that has held its slot longest, not in Trap, nor waiting for a team. -/
def Hand.rotating (d : Hand) : Option Nat :=
  (leastBy (fun e => e.2.since) (d.suits.filter (fun e => e.2.trap.isNone && (match e.2.stall with | .team _ => false | _ => true)))).map Prod.fst

/-- Held-ready lanes that have waited 8,192 clocks without reforming. -/
def Hand.waited (d : Hand) (clk : Nat) : List Nat :=
  d.candidates.filter (fun l => match (d.lane l).heldSince with | some t => decide (t + 8192 ≤ clk) | none => false)

/-- Whether the suit that is about to meet a clause header gives up its slot there instead (02 R44). -/
def State.rotates (s : State) (r : SuitRef) : Bool :=
  let d := s.hand r.hr
  d.rotating = some r.suit && !(d.waited s.clk).isEmpty && d.freeSlot.isNone && s.runs d.ctx &&
    (match d.suit r.suit with | some u => u.pos.pc = u.pos.hdr | none => false)

/-- ROTATION: when lanes have waited 8,192 clocks without reforming and no slot is Free, they take the place of the suit picked, at its clause
boundary (02 R44): the fill that follows passes over every other Held-ready lane, since R52 bounds their wait (DEDUCED, log 51). The MELD window of
that suit ends first, and it is not chosen while it waits there (07 R180). -/
def execRotation (h : HandRef) (s : State) : Out :=
  let d := s.hand h
  match d.rotating.bind (fun n => (d.suit n).map (fun u => (n, u))) with
  | some (n, u) =>
    .next (if !(!(d.waited s.clk).isEmpty && !d.filled && d.freeSlot.isNone && s.runs d.ctx) then s
      else match u.stall with
        | .meld _ => s.moveTo (h.sr n) (u.pos.after (u.pos.pc + 12))
        | _ =>
          if u.pos.pc = u.pos.hdr then
            s.modHand h (fun d => Hand.sweep { d.modLanes (d.active n) (fun _ l => { l with st := .heldReady, pos := Pos.at_ u.pos.hdr }) with
              passOver := d.active n ++ d.candidates.filter (fun l => !(d.waited s.clk).contains l) })
          else s)
  | none => .next s

end Sys2Proof.Machine
end

