-- ==== Sys2Proof/Machine/Sched.lean ====
section
/-! DEFINITION. Sys2Proof/Machine/Sched.lean: the events by which a core forms and releases hands, fills slots, deals blocks and
grants barrier tables (02 R34 to R51, 15 R302, R313). Where a rule lets the device choose, the lowest is taken first (log 13). -/

namespace Sys2Proof.Machine

/-! ## Continuations (02 Table 2.5 source 2) -/

/-- Whether a hand has the seat for a kernel and may hold it. -/
def State.fits (s : State) (h : HandRef) (kn : Nat) : Bool :=
  let d := s.hand h
  decide ((s.kernD d.ctx kn).lrec.seat ≤ d.seat) && d.takes kn && s.admits h kn

/-- The lane that a continuation would take in a hand. -/
def State.contSeat (s : State) (h : HandRef) (c : Cont) : Option Nat :=
  if s.selfDue c then none
  else match s.contLane h c with
  | some l => some l
  | none => (s.hand h).idleLane

/-- The continuation that source 2 offers a hand: the one woken earliest that may be seated; none on a core that the context may not use (26 R436). -/
def State.contCand (s : State) (h : HandRef) : Option (Cont × Nat) :=
  let d := s.hand h
  if d.st ≠ .opened || s.waiting d.ctx (.draw h) || !s.mayUse d.ctx h.cr then none
  else ((s.core h.cr).contq.filter (fun c => c.ctx = d.ctx && s.fits h c.kern && s.capRoom h.cr c.ctx c.kern)).findSome? (fun c =>
    (s.contSeat h c).map (fun l => (c, l)))

/-- CONTINUATION_SEAT: a Free slot is filled from source 2 (02 R34, 03 R79). -/
def execContinuationSeat (h : HandRef) (s : State) : Out :=
  let d := s.hand h
  if !s.fillable h || d.group.isSome then .next s
  else
    match s.contCand h, d.freeSlot with
    | some (c, l), some n =>
      match s.seatCont h l c ((d.seq + 1) % 2 ^ 32) with
      | .ok s1 =>
        .next (s1.modHand h (fun d => { d.modLane l (fun ln => { ln with st := .active n }) with
          suits := kSet n (s.fillSuit c.kern (Pos.at_ c.pc)) d.suits, seq := (d.seq + 1) % 2 ^ 32, passOver := [], filled := true }))
      | .error e => .next (s.drawFault h e)
    | _, _ => .next s

/-! ## Entry draw (02 R41, 03 R64) -/

/-- Kernels of a context. -/
def State.kernList (s : State) (ctx : Nat) : List Nat := (s.ctxD ctx).kerns.map Prod.fst

/-- Whether a hand holds a lane that is the affinity lane of a drawable heir of a kernel. -/
def State.heirHere (s : State) (h : HandRef) (kn : Nat) : Bool :=
  s.kernReady (s.hand h).ctx kn && (List.range 32).any (fun l => (s.affinity h l kn).isSome)

/-- Whether a Reserved lane of a hand has an item of the kernel to seat. -/
def State.reservedHere (s : State) (h : HandRef) (kn : Nat) : Bool :=
  let d := s.hand h
  let k := s.kernD d.ctx kn
  s.kernReady d.ctx kn && (List.range 32).any (fun l => match (d.lane l).st with
    | .reserved q t => q = kn && (s.firstReady d.ctx kn k ((k.leftOn h.cr true).filter (fun p => p.1 = t))).isSome
    | _ => false)

/-- Order of the choice of R41: higher priority first, then the older last entry draw on the core, then the lower number. -/
def State.drawOrder (s : State) (h : HandRef) (kn : Nat) : Nat :=
  let d := s.hand h
  ((3 - (s.kernD d.ctx kn).lrec.prio) * 2 ^ 64 + kGet 0 (kernKey d.ctx kn) (s.core h.cr).lastDraw) * 65536 + kn

/-- The kernel that an entry draw takes: an heir's by affinity, else the choice of R41. An Open hand that holds no item keeps the context it was formed
for, and draws for kernels of that one alone until it is released (DESIGN CHOICE, log 52). -/
def State.entryKern (s : State) (h : HandRef) : Option Nat :=
  let d := s.hand h
  let ks := (s.kernList d.ctx).filter (fun k => s.fits h k && s.capRoom h.cr d.ctx k && !(s.kernD d.ctx k).lrec.hdeal)
  match leastBy (s.drawOrder h) (ks.filter (s.heirHere h)) with
  | some k => some k
  | none => leastBy (s.drawOrder h) (ks.filter (fun k => s.bound d.ctx k h.cr &&
      (s.reservedHere h k || (d.idleLane.isSome && s.canDraw d.ctx k h.cr))))

/-- Lanes of a fill: those that start where the lowest one does are Active in a slot, the others Held-ready. -/
def State.formSuit (s : State) (h : HandRef) (n kn : Nat) (lanes : List Nat) : State :=
  match lanes.foldl (fun a l => insN l a) [] with
  | [] => s
  | l :: _ =>
    let pos := ((s.hand h).lane l).pos
    s.modHand h (fun d => { d.modLanes (lanes.filter (fun m => (d.lane m).pos = pos)) (fun _ ln => { ln with st := .active n }) with
      suits := kSet n (s.fillSuit kn pos) d.suits, passOver := [], filled := true })

/-- ENTRY_DRAW: a Free slot for which sources 1 and 2 have no candidate forms a suit of new items (02 R41). Where no item can be judged, the action waits for a
replay-all (24 R452). -/
def execEntryDraw (h : HandRef) (s : State) : Out :=
  let d := s.hand h
  if !s.fillable h || d.st ≠ .opened || d.group.isSome || (s.contCand h).isSome || s.waiting d.ctx (.draw h) then .next s
  else
    match s.entryKern h, d.freeSlot with
    | some kn, some n =>
      let f := s.draw h kn
      if f.got.isEmpty then .next f.s
      else
        let s1 := f.s.formSuit h n kn (f.got.map Prod.fst)
        .next ({ s1 with order := s1.order + 1 }.modCore h.cr (fun c => { c with lastDraw := kSet (kernKey d.ctx kn) (s1.order + 1) c.lastDraw }))
    | none, some _ =>
      .next (match (if d.idleLane.isSome then (s.kernList d.ctx).findSome? (fun k => if s.fits h k && !(s.kernD d.ctx k).lrec.hdeal then s.kernFail d.ctx k h.cr else none) else none) with
        | some e => s.drawFault h e
        | none => s)
    | _, none => .next s

/-! ## Blocks of hand-dealt tables (02 R48, 13 R262) -/

/-- Pot slots of a core that no hand holds. -/
def Core.freeSlots (c : Core) : List Nat :=
  (List.range 8).filter (fun t => !c.hands.any (fun h => h.2.st ≠ .unformed && h.2.tiles.contains t))

/-- Hands of a core that can take a block of a kernel's table: Open, every lane Idle, or Reserved for that table. -/
def State.blockHands (s : State) (c : CoreRef) (ctx kn t : Nat) : List HandRef :=
  (((s.core c).hands.filter (fun e => e.2.st = .opened && e.2.ctx = ctx && decide ((s.kernD ctx kn).lrec.seat ≤ e.2.seat) && e.2.suits.isEmpty)).map
    (fun e => c.hr e.1)).filter (fun h => (List.range 32).all (fun l => (s.lane h l).st = .idle || (s.lane h l).st = .reserved kn t))

/-- The undrawn items of a table by teams of aligned blocks (02 R48). -/
def Kernel.teams (k : Kernel) (t : Nat) (left : List Nat) : List (Nat × List Nat) := (cutUnits (32 * k.lrec.team) left).map (fun g => (t, g))

/-- The items of the next team of blocks on a core, with the state in which their table is granted. A block with an item that is not drawable is passed over
(03 R70). -/
def State.nextBlocks (s : State) (c : CoreRef) (ctx kn : Nat) : Option (State × Nat × List Nat) :=
  match s.kern ctx kn with
  | none => none
  | some k =>
    let here (st : State) (q : Kernel) : Option (State × Nat × List Nat) :=
      (((q.tables.filter (fun e => e.2.core = c)).flatMap (fun e => q.teams e.1 e.2.left)).find? (fun g =>
        g.2.all (fun i => match st.itemReady ctx kn q (g.1 * q.lrec.fan1 + i) with | .ok b => b | .error _ => false))).map (fun g => (st, g.1, g.2))
    match here s k with
    | some r => some r
    | none =>
      if k.lrec.barTables || k.tables.any (fun e => e.2.core = c && !e.2.left.isEmpty) then none
      else (s.nextDrawable ctx kn k).bind (fun p => (s.grant ctx kn p.1 c).bind (fun s1 => here s1 (s1.kernD ctx kn)))

/-- One block seated in a hand, which is then Dealt with T cleared pot slots. -/
def State.dealHand (s : State) (h : HandRef) (kn t : Nat) (items : List Nat) : Except DevFail State :=
  let k := s.kernD (s.hand h).ctx kn
  let age := ((s.hand h).seq + 1) % 2 ^ 32
  let seated := items.foldl (fun (acc : Except DevFail State) i => match acc with
    | .error e => .error e
    | .ok a => (a.seatItem h (i % 32) kn t i age).map Prod.fst) (.ok s)
  seated.map (fun a =>
    let slots := ((a.core h.cr).freeSlots).take k.lrec.tiles
    let a1 := (a.formSuit h 0 kn (items.map (fun i => i % 32))).modCore h.cr (fun c => { c with pot := slots.foldl (fun p n => kErase n p) c.pot })
    a1.modHand h (fun d => { d with st := .dealt, seq := age, tiles := slots, teamN := 0, block := some (kn, (t * k.lrec.fan1 + items.headD 0) / 32) }))

/-- Hands cleared of estates one by one, while a core has too few hands for m blocks of a table. -/
def State.clearFor (s : State) (c : CoreRef) (ctx kn t m : Nat) : Nat → State
  | 0 => s
  | fuel + 1 =>
    if m ≤ (s.blockHands c ctx kn t).length then s
    else match s.evictHand c ctx (s.kernD ctx kn).lrec.seat with
      | some h => (s.clearHand h).clearFor c ctx kn t m fuel
      | none => s

/-- The block deal that a core can make: hands, table and items. What is evicted for it stays evicted when hands are still short. -/
def State.blockDeal (s : State) (c : CoreRef) (ctx kn : Nat) : State :=
  match s.nextBlocks c ctx kn, s.kern ctx kn with
  | some (s1, t, items), some k =>
    let m := (items.length + 31) / 32
    let cap := k.lrec.cap
    if (cap ≠ 0 && decide (cap < s1.resident c ctx kn + items.length)) || decide ((s1.core c).freeSlots.length < m * k.lrec.tiles) then s
    else
      let s2 := s1.clearFor c ctx kn t m 96
      let hs := (s2.blockHands c ctx kn t).take m
      let evicted := s.clearFor c ctx kn t m 96
      if hs.length < m then evicted
      else
        let dealt := (List.range m).foldl (fun (acc : Except (Option (HandRef × DevFail)) State) j => acc.bind (fun a =>
          let h := hs.getD j (c.hr 0)
          if a.admits h kn then (a.dealHand h kn t ((items.drop (32 * j)).take 32)).mapError (fun e => some (h, e)) else .error none)) (.ok s2)
        match dealt with
        | .ok a => a
        | .error (some (h, e)) => evicted.drawFault h e
        | .error none => evicted
  | _, _ =>
    match s.kernFail ctx kn c, ((s.core c).hands.filter (fun e => e.2.st = .opened && e.2.ctx = ctx)).head? with
    | some e, some h => if s.waiting ctx (.draw (c.hr h.1)) then s else s.drawFault (c.hr h.1) e
    | _, _ => s

/-- BLOCK_DEAL: a block, or a team of blocks, of a hand-dealt table goes to hands of one core (02 R48). -/
def execBlockDeal (c : CoreRef) (ctx kern : Nat) (s : State) : Out :=
  .next (if s.runs ctx && s.bound ctx kern c && s.mayUse ctx c && s.kernReady ctx kern && (s.kernD ctx kern).lrec.hdeal then s.blockDeal c ctx kern else s)

/-- Whether a matrix operation of a hand is under way. -/
def State.matrixBusy (s : State) (h : HandRef) : Bool :=
  s.ops.any (fun e => e.2.h = h && e.2.gen = (s.hand h).gen && (match e.2.kind with | .matrix => true | _ => false))

/-- DEALT_RETURN: a Dealt hand with every lane Idle, whose matrix operations have finished (19 R363), is Open again, and gives its slots back
(02 R37, 13 R262). -/
def execDealtReturn (h : HandRef) (s : State) : Out :=
  let d := s.hand h
  if d.st = .dealt ∧ (List.range 32).all (fun l => (d.lane l).st = .idle) ∧ !s.matrixBusy h then
    .next ((s.modCore h.cr (fun c => { c with pot := d.tiles.foldl (fun p n => kErase n p) c.pot })).modHand h (fun d =>
      { d with st := .opened, tiles := [], block := none, teamN := 0 }))
  else .next s

/-! ## Barrier tables (02 R50, R51) -/

/-- The tables granted together next: one table, or those of a barrier unit. -/
def State.nextUnit (s : State) (ctx kn : Nat) : Option (List Nat) :=
  let k := s.kernD ctx kn
  (s.nextDrawable ctx kn k).bind (fun p => if k.tableReady p.1 then some (k.unitOf p.1) else none)

/-- The hand whose estates are evicted for barrier tables that find too few Idle lanes on some cores. -/
def State.evictFor (s : State) (ctx kn : Nat) (cs : List CoreRef) (ts : List Nat) : Option HandRef :=
  let k := s.kernD ctx kn
  if sumBy (fun c => (s.idleFor c ctx kn).length) cs < sumBy k.tableItems ts then cs.findSome? (fun c => s.evictHand c ctx k.lrec.seat) else none

/-- BARRIER_TABLE_GRANT: a barrier table, or the tables of a barrier unit, granted with Reserved lanes (02 R50, R51); where Idle lanes are short, the estates of
a hand are evicted first (03 R67). -/
def execBarrierTableGrant (c : CoreRef) (ctx kern : Nat) (s : State) : Out :=
  let k := s.kernD ctx kern
  if s.runs ctx && s.bound ctx kern c && s.mayUse ctx c && s.kernReady ctx kern && k.lrec.barTables && (k.leftOn c true).isEmpty then
    match s.nextUnit ctx kern with
    | some ts =>
      let cs := c :: s.unitCores c ctx kern
      .next (match s.placeTables ctx kern cs ts, s.evictFor ctx kern cs ts with
        | some t, _ => t
        | none, some h => s.clearHand h
        | none, none => s)
    | none => .next s
  else .next s

/-! ## Hands formed and released (15 R302, 02 R38) -/

/-- Open hands of a context on a core with the seat, a Free slot and an Idle lane. -/
def State.openRoom (s : State) (c : CoreRef) (ctx seat : Nat) : Bool :=
  (s.core c).hands.any (fun e => e.2.st = .opened && e.2.ctx = ctx && decide (seat ≤ e.2.seat) && e.2.freeSlot.isSome && e.2.idleLane.isSome)

/-- Whether a kernel needs a hand on a core. -/
def State.needsHand (s : State) (c : CoreRef) (ctx kn : Nat) : Bool :=
  let k := s.kernD ctx kn
  let seat := k.lrec.seat
  s.runs ctx && s.mayUse ctx c && !k.deckOnly && k.cst ≠ .complete && s.capRoom c ctx kn &&
    ((!(s.conts c ctx kn).isEmpty && !s.openRoom c ctx seat) ||
      (s.bound ctx kn c && s.kernReady ctx kn &&
        (if k.lrec.barTables then
          (k.leftOn c true).isEmpty && (match s.nextUnit ctx kn with
            | some ts => decide ((s.idleFor c ctx kn).length < sumBy k.tableItems ts)
            | none => false)
        else if k.lrec.hdeal then
          (match s.nextBlocks c ctx kn with
            | some (_, t, items) => decide ((s.blockHands c ctx kn t).length < (items.length + 31) / 32)
            | none => false)
        else s.canDraw ctx kn c && !s.openRoom c ctx seat)))

/-- Kernels of a core that need a hand: the one of the highest priority, then the lowest number (then the lowest context). -/
def State.needer (s : State) (c : CoreRef) : Option (Nat × Nat) :=
  leastBy (fun p => ((3 - (s.kernD p.1 p.2).lrec.prio) * 65536 + p.2) * 256 + p.1)
    ((s.ctxs.flatMap (fun x => x.2.kerns.map (fun k => (x.1, k.1)))).filter (fun p => s.needsHand c p.1 p.2))

/-- The hand formed next: the lowest Unformed one of the quarter with the fewest formed hands. -/
def State.nextHand (s : State) (c : CoreRef) : Option Nat :=
  let fm := (s.core c).formed
  let count (q : Nat) : Nat := (fm.filter (fun h => h / 24 = q)).length
  (leastBy count (List.range 4)).bind (fun q => ((List.range 24).map (fun i => 24 * q + i)).find? (fun h => !fm.contains h))

/-- A hand formed for a context with a seat: its registers hold what seat storage held: zero until some hand has left its seats on the core, else unknown. -/
def State.formHand (s : State) (h : HandRef) (ctx seat : Nat) : State :=
  let old := s.hand h
  let d : Hand := { st := .opened, ctx := ctx, seat := seat, gen := old.gen, ptsClk := s.clk }
  if (s.core h.cr).touched then
    ({ s with nextEpoch := s.nextEpoch + 32 }).modHand h (fun _ => { d with lanes := (List.range 32).map (fun l => (l, { regs := { epoch := some (s.nextEpoch + l) } })) })
  else s.modHand h (fun _ => d)

/-- HAND_FORM: a core forms a hand for the kernel that needs it first (15 R302). -/
def execHandForm (c : CoreRef) (ctx kern : Nat) (s : State) : Out :=
  let k := s.kernD ctx kern
  match s.nextHand c with
  | none => .next s
  | some n =>
    .next (if s.needer c = some (ctx, kern) && decide (s.seatSum c + k.lrec.seat ≤ 6144) && decide (s.coreSum c n k.lrec.energy ≤ 96) then
      s.formHand (c.hr n) ctx k.lrec.seat else s)

/-- An Unformed hand keeps its tag alone, advanced by one (02 R38, 06 R156). -/
def Hand.released (d : Hand) : Hand := { gen := (d.gen + 1) % 256 }

/-- A hand leaves its core: its seats keep what they held. -/
def State.letGo (s : State) (h : HandRef) : State := (s.modHand h Hand.released).modCore h.cr (fun c => { c with touched := true })

/-- Whether an Open hand is to be released. -/
def State.mayRelease (s : State) (h : HandRef) : Bool :=
  let d := s.hand h
  d.st = .opened && (List.range 32).all (fun l => (d.lane l).st = .idle) &&
    (s.kernList d.ctx).all (fun kn =>
      let k := s.kernD d.ctx kn
      decide (d.seat < k.lrec.seat) || ((k.undrawn = 0 || !s.bound d.ctx kn h.cr) && (s.conts h.cr d.ctx kn).isEmpty))

/-- HAND_RELEASE (02 R38). -/
def execHandRelease (h : HandRef) (s : State) : Out :=
  .next (if s.runs (s.hand h).ctx && s.mayRelease h then (s.keepPts h).letGo h else s)

end Sys2Proof.Machine
end

