-- ==== Sys2Proof/Machine/Work.lean ====
section
/-! DEFINITION. Sys2Proof/Machine/Work.lean: launch records and their checks, decks, the launch queue, the completion of kernels,
the dealer, and the estate and work instructions (14, 15). -/

namespace Sys2Proof.Machine

/-! ## Launch checks (15 Table 15.3) -/

/-- A launch record read from its 512 bytes (15 Table 15.1). -/
def LaunchRec.parse (b : List Byte) : LaunchRec :=
  let words (at_ n : Nat) : KMap W32 := (List.range n).foldl (fun m j => kPut 0 j (BitVec.ofNat 32 (ofBytes ((b.drop (at_ + 4 * j)).take 4))) m) []
  { w := (List.range 16).map (fun i => BitVec.ofNat 64 (recWord b i)), k := words 0x80 64, fmt := words 0x180 16 }

/-- R24, for a level word and the one below it. -/
def levelOk (m below w : Nat) : Bool :=
  decide (1 ≤ lvFan w) && decide (lvFan w ≤ 1024) && decide (1 ≤ lvScope w) && decide (lvScope w ≤ 4) && decide (lvDom w ≤ 4)
    && (if m = 1 then lvDom w = 1 else decide (lvDom below ≤ lvDom w))
    && decide (lvDom w ≤ lvScope w) && decide (lvScope below ≤ lvScope w) && !(lvDom w = 4 && lvBar w)

/-- R24. -/
def LaunchRec.levelsOk (r : LaunchRec) : Bool :=
  lvBits (r.level 0) = 0x108 && (List.range r.levels).all (fun m => m = 0 || levelOk m (r.level (m - 1)) (r.level m))
    && (r.task || r.items % maxN 1 (r.unitItems (r.levels - 1)) = 0)

/-- A slot of the context's segments (15 Table 15.5). -/
def Ctx.slot (x : Ctx) (n : Nat) : Desc := { w0 := x.reg (0x100 + 2 * n), w1 := x.reg (0x101 + 2 * n) }

/-- Tables of a kernel that one empty core could hold at once as barrier tables (02 R51). -/
def LaunchRec.tablesPerCore (r : LaunchRec) : Nat :=
  let lanes := 32 * minN 96 (minN (6144 / maxN 1 r.seat) (96 / (r.energy + 1)))
  let byCap := if r.cap = 0 then lanes else minN lanes r.cap
  let n := byCap / r.fan1
  if r.scr = 0 then n else minN n (scrBytes / r.scr)

/-- Whether the tables of a barrier unit fit the allowed cores when all are empty (02 R50, R51). -/
def LaunchRec.barFits (r : LaunchRec) (cores : List Nat) (m : Nat) : Bool :=
  let n := maxN 1 (r.unitItems m / r.fan1)
  let cg := r.granule m 1
  let dg := r.granule m 2
  let per := r.tablesPerCore / cg * cg
  let dies := cores.map (fun c => c * per / dg * dg)
  if cores.all (fun c => c = 0) then false
  else if lvDom (r.level m) ≤ 1 then decide (n ≤ per)
  else if lvDom (r.level m) = 2 then dies.any (fun d => decide (n ≤ d))
  else decide (n ≤ sumBy id dies)

/-- Dies of a context's partition that are enabled and hold cores of it. -/
def State.coreDies (s : State) (ctx : Nat) : List Nat :=
  let p := kGet {} (s.ctxD ctx).part s.parts
  s.dies.filter (fun d => kGet 0 d p.cores ≠ 0)

/-- Numbers of cores of a context allowed to a launch, by die. -/
def State.allowed (s : State) (ctx : Nat) (r : LaunchRec) : List Nat :=
  (s.dies.filter (bitN r.die)).map (fun d => (bitList 48 (kGet 0 d (s.ctxD ctx).cores)).length)

/-- A kernel's deck can still take estates: it is an heir deck, not Complete, and its probate has not begun. -/
def Kernel.deckOpen (k : Kernel) : Bool := k.cst ≠ .complete && !k.probated && k.probate.isNone && k.lrec.kf ≠ 0

/-- The deck and heir fields that a record shares with the deck it attaches to (15 R304). -/
def LaunchRec.deckFields (r : LaunchRec) : List Nat :=
  [if r.task then 1 else 0, r.items, r.tdeck, r.kf, r.width, r.cbase, r.earea, r.vb, r.ecap, r.eps]

/-- A kernel number is in use until its kernel is Complete, with the steps of R311 taken, and its result has been written (15 R303). -/
def State.numberUsed (s : State) (ctx n : Nat) : Bool :=
  (match s.kern ctx n with | some k => k.finish ≠ 3 | none => false) ||
    s.ops.any (fun e => e.2.ctx = ctx && (match e.2.kind with | .launch _ _ _ _ => true | _ => false) &&
      e.2.lanes.any (fun x => match x.st with | .arrived ws => ws.any (fun w => w.2.1.toNat = n) | _ => false))

/-- The next free kernel number in ascending order, modulo 0xFFFF. -/
def State.freeNum (s : State) (ctx : Nat) : Nat → Nat → Option Nat
  | 0, _ => none
  | f + 1, n => if s.numberUsed ctx (n % 0xFFFF) then s.freeNum ctx f (n + 1) else some (n % 0xFFFF)

/-- Where an accepted record would put its kernel: a new number, or the deck it attaches to; none is reason 10. -/
def State.launchPlace (s : State) (ctx : Nat) (r : LaunchRec) : Option Nat :=
  if r.attach = 0xFFFF || r.donly then s.freeNum ctx 0xFFFF (s.ctxD ctx).nextKern
  else
    match s.kern ctx r.attach with
    | some k => if k.deckOnly && !k.closed && k.cst ≠ .complete && k.lrec.deckFields = r.deckFields then some r.attach else none
    | none => none

/-- Every reason for which a record is refused (15 Table 15.3); `parent` is the level of a launching kernel. -/
def State.launchBad (s : State) (ctx : Nat) (r : LaunchRec) (parent : Option Nat) : List Nat :=
  let x := s.ctxD ctx
  let lim := (x.slot r.eps).limit
  let cores := s.allowed ctx r
  let whole : List (Nat × Bool) :=
    [(1, !r.levelsOk),
     (2, r.f 6 6 0 = 0 || decide (80 < r.f 6 6 0) || decide (1024 < r.f 6 23 13) || decide (3072 < r.cap) || (r.msix ≠ 0xFFFF && decide (7 < r.msix))),
     (3, r.team = 0 || decide (8 < r.team) || (r.hdeal && (decide (r.levels ≤ 1) || r.fan1 % (32 * r.team) ≠ 0 || decide (8 < r.team * r.tiles)))
       || (!r.hdeal && (decide (0 < r.tiles) || decide (1 < r.team)))),
     (4, r.levelsOk && (List.range r.levels).any (fun m => decide (1 ≤ m) && lvBar (r.level m) && !r.barFits cores m)),
     (5, (r.kf ≠ 0 && decide (r.seat < r.vb + r.factor * r.width)) ||
       (r.heirk ≠ 0xFFFF && !(match s.kern ctx r.heirk with | some k => k.deckOpen | none => false))),
     (6, r.pl = 3 || decide (x.maxpl < r.pl) || (match parent with | some p => decide (p < r.pl) | none => false)),
     (7, !modeLaunch r.mode || !(List.range 16).all (fun j => nLegal (kGet 0 j r.fmt).toNat)),
     (8, !(s.coreDies ctx).any (bitN r.die)),
     (9, (x.slot r.gls).limit = 0 || (x.slot r.kcs).limit = 0 || (r.pcap ≠ 0 && decide (lim < r.pile + 96 * r.pcap)))]
  let deck : List (Nat × Bool) :=
    [(5, decide (4 < r.kf) || (r.kf ≠ 0 && (decide (2 ^ 48 < r.cbase + r.ecap) || decide (lim < r.earea + 96 * r.ecap)
       || (!r.task && decide (r.ecap < r.items * r.factor))))),
     (9, lim = 0 || (r.task && decide (lim < r.tdeck + 64 * r.items))),
     (10, (s.launchPlace ctx r).isNone),
     (11, if r.task then decide (r.items < 16) || decide (2 ^ 20 < r.items) else r.items = 0)]
  (((if r.donly then [] else whole) ++ deck).filter (fun p => p.2)).map Prod.fst

/-- PRED0 to PRED3. -/
def LaunchRec.preds (r : LaunchRec) : List Nat := ((List.range 4).map r.pred).filter (fun p => p ≠ 0xFFFF)

/-- Predecessors that are not satisfied at acceptance (15 R310): a kernel that is Complete satisfies one once its completion event has taken its place in
T (04 R106). -/
def State.unmet (s : State) (ctx : Nat) (r : LaunchRec) : List Nat :=
  r.preds.filter (fun p => match s.kern ctx p with | some k => k.finish ≠ 3 | none => false)

/-- The latest completion among its predecessors that are satisfied. -/
def State.metPts (s : State) (ctx : Nat) (r : LaunchRec) : Nat :=
  r.preds.foldl (fun p n => match s.kern ctx n with | some k => if k.finish = 3 then maxN p k.endPts else p | none => p) 0

/-- The kernel or open deck that an accepted record makes (15 R302 to R304). Testators of a deck whose number is used again keep whether an heir was
launched onto it (03 R74). -/
def State.accept (s : State) (ctx n : Nat) (r : LaunchRec) (pts : Nat) : State :=
  let x := s.ctxD ctx
  let fabw := s.reg ctx 0x174
  let order := s.order + 1
  let attached := r.attach ≠ 0xFFFF && !r.donly
  let old : Kernel := if attached then s.kernD ctx n else { ep := x.slot r.eps, born := order }
  let k : Kernel :=
    { old with
      lrec := r, gl := x.slot r.gls, kc := x.slot r.kcs, epseg := x.slot r.eps, deckOnly := r.donly
      fab := (maxN 1 (fld fabw 15 8), fld fabw 7 0), heirBorn := (s.kernD ctx r.heirk).born, preds := s.unmet ctx r, pts := maxN old.pts (maxN pts (s.metPts ctx r)) }
  let k1 := { k with nextTable := k.nextFree (k.fab.1 * maxN 1 k.lrec.topItems + 1) 0 }
  let s1 := { s with order := order }.modCtx ctx (fun x =>
    { x with kerns := kSet n k1 (if attached then x.kerns else x.kerns.map (fun (e : Nat × Kernel) => (e.1,
               if e.2.lrec.heirk = n && e.2.heirBorn = (s.kernD ctx n).born then { e.2 with heirHad := !(s.kernD ctx n).deckOnly } else e.2)))
             nextKern := if attached then x.nextKern else (n + 1) % 0xFFFF })
  if attached then s1
  else { s1 with cores := s1.cores.map (fun c => (c.1, { c.2 with
    kpsum := c.2.kpsum.filter (fun q => q ≠ kernKey ctx n), lastDraw := kErase (kernKey ctx n) c.2.lastDraw })) }

/-- A launch: the result word, and the state after (14 R291, 15 R303). -/
def State.launch (s : State) (ctx : Nat) (raw : List Byte) (parent : Option Nat) (pts : Nat) : Nat × State :=
  let r := LaunchRec.parse raw
  match leastBy id (s.launchBad ctx r parent), s.launchPlace ctx r with
  | some code, _ => (0x80000000 + code * 65536 + 0xFFFF, s)
  | none, none => (0x80000000 + 10 * 65536 + 0xFFFF, s)
  | none, some n => (n, s.accept ctx n r pts)

/-! ## Decks (14 R290, R292) -/

/-- A deck named by a 32-bit operand. -/
def State.deck (s : State) (ctx v : Nat) : Option Kernel := if v < 65536 then s.kern ctx v else none

/-- Why nothing can be appended to a deck; none when it is open. -/
def State.dealBar (s : State) (ctx v : Nat) : Option Nat :=
  match s.deck ctx v with
  | none => some 1
  | some k => if k.cst = .complete then some 1 else if !k.lrec.task then some 2 else if k.closed then some 3 else none

/-- The ring entry that the a-th task of a deck takes: entry a mod ITEMS when it is free, else the lowest free one (DESIGN CHOICE, log 53). -/
def Kernel.ringPlace (k : Kernel) (a : Nat) : Nat :=
  let used := k.ring.map Prod.snd
  let n := maxN 1 k.lrec.items
  if !used.contains (a % n) then a % n else ((List.range n).find? (fun e => !used.contains e)).getD (a % n)

/-- Records appended one by one to a task deck's ring by an agent on a die, no earlier than a logical time. -/
def State.append (s : State) (ctx v die pts : Nat) : List (List Byte) → Except DevErr State
  | [] => .ok s
  | b :: bs =>
    let k := s.kernD ctx v
    let e := k.ringPlace k.appended
    (s.devWrite ctx die pts (k.ringVa e) b).bind (fun r =>
      (r.1.modKern ctx v (fun k => { k with appended := k.appended + 1, ring := kSet k.appended e k.ring, pts := maxN k.pts r.2 })).append ctx v die pts bs)

/-- n records dealt from their bytes: the word in D, and the state after. No refusal for a deck of a kernel of a higher PL: 14 R290 and 23 R405 list none,
though R285 speaks of a limit for a DEAL (DESIGN CHOICE, log 53). -/
def State.deal (s : State) (ctx v n die pts : Nat) (raw : List Byte) : Except DevErr (Nat × State) :=
  if n = 0 then .ok (0, s)
  else
    match s.dealBar ctx v, s.deck ctx v with
    | some r, _ => .ok (0x80000000 + r, s)
    | none, none => .ok (0x80000001, s)
    | none, some k =>
      let m := minN n k.ringFree
      (s.append ctx v die pts ((List.range m).map (fun i => (raw.drop (64 * i)).take 64))).map (fun t =>
        (m, t.modKern ctx v (fun k => { k with pts := maxN k.pts pts })))

def clamp31 (n : Nat) : Nat := minN n 0x7FFFFFFF

/-- Woken continuations of a kernel (03 R78). -/
def State.woken (s : State) (ctx kn : Nat) : Nat :=
  sumBy (fun c => (c.2.contq.filter (fun k => k.ctx = ctx && k.kern = kn)).length) s.cores

def cstCode : CState → Nat
  | .live => 0 | .drained => 1 | .exited => 2 | .complete => 3

/-- Probate of a deck that is closed or cancelled, no earlier than a logical time (03 R72, 15 R304). -/
def State.endDeck (s : State) (ctx kn : Nat) (cancel : Bool) (pts : Nat) : State :=
  let k := s.kernD ctx kn
  if k.deckOnly then s.probate ctx kn 3 pts else if cancel then s.probate ctx kn 2 pts else s

/-- A task deck, or an open deck without a kernel, is closed. -/
def State.closeDeck (s : State) (ctx kn pts : Nat) : State :=
  let k := s.kernD ctx kn
  if (k.lrec.task || k.deckOnly) && k.cst ≠ .complete then (s.modKern ctx kn (fun k => { k with closed := true })).endDeck ctx kn false pts else s

/-- Tables of a kernel with nothing left to draw whose items have all exited end. -/
def State.endSpent (s : State) (ctx kn : Nat) : State :=
  let k := s.kernD ctx kn
  (k.tables.filter (fun e => decide (k.lrec.fan1 ≤ e.2.out))).foldl (fun a e => a.endTable ctx kn e.1 (e.2.core.hr 0)) s

/-- Reserved lanes of a kernel become Idle; what it kept in a hand goes with its last lane there (05 R111). -/
def State.unreserve (s : State) (ctx kn : Nat) : State :=
  { s with cores := s.cores.map (fun c => (c.1, { c.2 with hands := c.2.hands.map (fun h => (h.1,
      if h.2.ctx = ctx then Hand.sweepSets { h.2 with lanes := h.2.lanes.map (fun l => (l.1, match l.2.st with
        | .reserved k _ => if k = kn then { l.2 with st := .idle } else l.2
        | _ => l.2)) } else h.2)) })) }

/-- A deck cancelled, no earlier than a logical time: every undrawn item is discarded, and counts as exited in its table. -/
def State.cancelDeck (s : State) (ctx kn pts : Nat) : State :=
  let k := s.kernD ctx kn
  if k.cancelled || k.cst = .complete then s
  else
    let s1 := s.modKern ctx kn (fun k => { k with
      cancelled := true, closed := true, ring := []
      tables := k.tables.map (fun e => (e.1, { e.2 with left := [], out := e.2.out + e.2.left.length })) })
    ((s1.unreserve ctx kn).endSpent ctx kn).endDeck ctx kn true pts

/-! ## Operations that one event of T performs at issue -/

/-- A counted operation of the whole instruction whose result is known: D is written in every executing lane at completion. -/
def Iss.oneOp (x : Iss) (s : State) (major : Nat) (ps : Bool) (d : Dst) (kind : OpKind) (st : List Nat → LaneOpSt) : State :=
  let op := s.nextOp
  let ks := dstKeys 1 d
  let s1 := s.startOp x major ps (x.ex.map (fun l => x.laneOp l 1 (st ks))) kind x.ex.isEmpty
  let s2 := if x.ex.isEmpty then s1 else x.ex.foldl (fun a l => a.leaseRegs x.h l op ks) s1
  (s2.sealLanes x.h x.ex).advance x.r

/-- The word in D as what a lane receives. -/
def wordIn (v : Nat) (ks : List Nat) : LaneOpSt := .arrived (ks.map (fun k => (k, BitVec.ofNat 32 v, false)))

/-- The use of an instruction of the class that makes an event of T. -/
def workUse (g : Grd) (major : Nat) (ps : Option Bool) (dn : Nat) (d : Dst) (srcs : List (Nat × Src)) : Use :=
  { useOf g major dn d srcs with peg := ps, event := true, now := true }

/-- A poisoned operand of the leader (14 R286). -/
def Iss.leaderBad (x : Iss) (srcs : List (OW × Src)) : List Nat :=
  match x.ex with
  | [] => []
  | l :: _ => if srcs.any (fun a => x.pois a.1 l a.2) then [l] else []

/-- The item of a DECKQ goes on after the probate that it begins (20 R365). -/
def State.deckTime (s : State) (h : HandRef) (ctx kn : Nat) : State := s.modHand h (fun d => { d with pts := maxN d.pts (s.kernD ctx kn).endPts })

/-- One DECKQ: `act` is given the state, the context, the kernel number, the kernel and the logical time of the hand. -/
def deckq (g : Grd) (ps : Bool) (d : Dst) (a : Src) (s : State) (act : State → Nat → Nat → Kernel → Nat → Nat × State) : Out :=
  issue (workUse g 0x7a (some ps) 1 d [(1, a)]) s (fun x =>
    x.control (x.leaderBad [(.w32, a)])
      (match x.ex with
       | [] => x.oneOp x.s 0x7a ps d .access (wordIn 0)
       | l :: _ =>
         let v := x.val .w32 l a
         let r := match x.s.deck x.ctx v with
           | none => (0x80000000, x.s)
           | some k => act x.s x.ctx v k x.hd.pts
         x.oneOp r.2 0x7a ps d .access (wordIn r.1)))

/-- DECKQ.pend: undrawn items plus woken continuations (14 Table 14.4). -/
def execDeckqPend (g : Grd) (ps : Bool) (d : Dst) (a : Src) (s : State) : Out :=
  deckq g ps d a s (fun t c v k _ => (clamp31 (k.undrawn + t.woken c v), t))

/-- DECKQ.close: closes a task deck (14 Table 14.4). -/
def execDeckqClose (g : Grd) (ps : Bool) (d : Dst) (a : Src) (s : State) : Out :=
  deckq g ps d a s (fun t c v k p => (clamp31 k.undrawn, (t.closeDeck c v p).deckTime t.cur.hr c v))

/-- DECKQ.state: the completion state (14 Table 14.4). -/
def execDeckqState (g : Grd) (ps : Bool) (d : Dst) (a : Src) (s : State) : Out :=
  deckq g ps d a s (fun t c v _ _ => (cstCode (t.kernState c v), t))

/-- DECKQ.cancel: closes the deck and discards what is undrawn (14 Table 14.4). -/
def execDeckqCancel (g : Grd) (ps : Bool) (d : Dst) (a : Src) (s : State) : Out :=
  deckq g ps d a s (fun t c v k p => (if k.cst = .complete then 0 else clamp31 k.undrawn, (t.cancelDeck c v p).deckTime t.cur.hr c v))

/-! ## LAUNCH and DEAL at their issue point (14 R290, R291, 04 R99) -/

/-- What a claimed source gives: bytes, logical time, and the state after. -/
structure WorkGot where
  bytes : List Byte
  p : Nat
  s : State

/-- A claimed source read by a work instruction on its die; none while an engine has still to write a line of it. -/
def State.workRead (s : State) (o : Op) (t : FaultRec) (sc : Bool) (a pl n : Nat) : Except DevErr (Option WorkGot) :=
  let pts := s.ptsOf o.h o.gen o.pts
  if sc then
    .ok (if (spanOf 64 a n).any (fun u => s.claimBars .sc o.h.cr u false) then none
         else some { bytes := ((s.core o.h.cr).scRead a n).1, p := pts, s := s })
  else
    match s.runRead { rd := true, wr := false, pl := pl } o.ctx o.h.die pts a n with
    | .error (_, _, .busy) => .ok none
    | .error e => .error e
    | .ok r => .ok (some { bytes := r.2.bytes, p := r.2.at_, s := r.2.s.consumedAt o.ctx (s.badSecs a r.1) t })

/-- The fault record of a work operation's leader. -/
def State.workRec (s : State) (o : Op) (lo : LaneOp) : FaultRec :=
  { kind := 1, req := 0, acc := 0, fdie := o.h.die, item := lo.item
    who := whoWord lo.kern o.gen (o.h.sr (match (s.lane o.h lo.lane).st with | .active n => n | _ => 0)) (s.kernD o.ctx lo.kern).lrec.pl }

/-- The leader of a work operation is parked, or its context halts; `dev` when the access was the device's, to the task ring (24 R452). -/
def State.workFault (s : State) (id : Nat) (o : Op) (lo : LaneOp) (dev : Bool) (pl : Nat) (e : DevErr) : State :=
  match e.2.2 with
  | .miss level entry =>
    let a : Access := { kind := if e.1 = 0 then .load false else .store, sc := false, addr := e.2.1, len := 8, pol := .shared, dst := [], pl := pl }
    let t : FaultRec := if dev then { kind := 1, req := 6, acc := e.1, fdie := o.h.die, who := 2 } else s.workRec o lo
    { s.replayable o.ctx e.2.1 level entry t with
      ops := kSet id { o with lanes := o.lanes.map (fun y => if y.lane = lo.lane then { y with st := .parked a } else y) } s.ops }
  | .fatal r =>
    s.halt o.ctx 0x22 { kind := 0x22, code := r, cmask := if dev then [] else [lo.lane], item := lo.item, who := (s.workRec o lo).who, arg0 := e.2.1, die := o.h.die }
  | .hit _ _ _ _ | .busy => s

/-- Every executing lane of a work operation receives the word of D. -/
def State.workDone (s : State) (id : Nat) (o : Op) (dst : Option Nat) (v : Nat) : State :=
  { s with ops := kSet id { o with lanes := o.lanes.map (fun y => y.arrive (match dst with | some k => [(k, BitVec.ofNat 32 v, false)] | none => [])) } s.ops }

/-- A LAUNCH or DEAL whose leader is not parked reaches its issue point, when every claim can be granted. -/
def State.tryWork (s : State) (id : Nat) : State :=
  match kFind id s.ops with
  | none => s
  | some o =>
    match o.lanes.head? with
    | none => s
    | some lo =>
      if lo.st ≠ .pending || s.pubBars o.h.cr then s
      else
        let s0 := s.publish o.h
        match o.kind with
        | .launch sc a pl dst =>
          (match s0.workRead o (s.workRec o lo) sc a pl 512 with
           | .error e => s.workFault id o lo false pl e
           | .ok none => s
           | .ok (some g) =>
             let r := g.s.launch o.ctx g.bytes (some (s.kernD o.ctx o.kern).lrec.pl) g.p
             ((r.2.setPts o.h o.gen g.p).endAt o.ctx o.kern g.p).workDone id o dst r.1)
        | .deal sc a pl n v dst =>
          (match s0.workRead o (s.workRec o lo) sc a pl (64 * n) with
           | .error e => s.workFault id o lo false pl e
           | .ok none => s
           | .ok (some g) =>
             match g.s.deal o.ctx v n o.h.die g.p g.bytes with
             | .error e => s.workFault id o lo true pl e
             | .ok r => ((r.2.setPts o.h o.gen g.p).endAt o.ctx o.kern g.p).workDone id o dst r.1)
        | _ => s

/-- A parked LAUNCH or DEAL tries again after a replay-all. -/
def State.retryWork (s : State) (id : Nat) : State :=
  match kFind id s.ops with
  | none => s
  | some o =>
    let lanes := o.lanes.map (fun (y : LaneOp) => match y.st with | .parked _ => { y with st := LaneOpSt.pending } | _ => y)
    { s with ops := kSet id { o with lanes := lanes } s.ops }.tryWork id

/-- LAUNCH and DEAL once their operands have passed: the range check, and the operation, which takes effect as soon as its
claims are granted. -/
def Iss.work (x : Iss) (major : Nat) (ps : Bool) (seg : Seg) (d : Dst) (l off n : Nat) (kind : Bool → Nat → Option Nat → OpKind) : State :=
  let go (va : Nat) : State := x.oneOp x.s major ps d (kind (seg = .sc) va (dstKeys 1 d).head?) (fun _ => .pending)
  let ds := x.s.laneDesc x.h l x.u.kern seg
  match segCheck seg ds { rd := true, wr := false, pl := x.pl } off n with
  | .error r => (go 0).haltLanes x [(l, r, ds.base + off)]
  | .ok va => (go va).tryWork x.s.nextOp

/-- LAUNCH: one launch record read and launched as one event of T (14 R291). -/
def execLaunch (g : Grd) (ps : Bool) (seg : Seg) (d : Dst) (a : Src) (s : State) : Out :=
  let u := workUse g 0x79 (some ps) 1 d [(2, a)]
  issue u s (fun x =>
    x.control (x.leaderBad [(.w64, a)])
      (match x.ex with
       | [] => x.oneOp x.s 0x79 ps d .access (wordIn 0)
       | l :: _ =>
         let off := x.val .w64 l a
         if off % 64 ≠ 0 then x.trap u 4 64 [l] off 0
         else x.work 0x79 ps seg d l off 512 (fun sc va k => .launch sc va x.pl k)))

/-- DEAL: task records appended to a task deck as one event of T (14 R290). -/
def execDeal (g : Grd) (ps : Bool) (seg : Seg) (d : Dst) (a b c : Src) (s : State) : Out :=
  let u := workUse g 0x78 (some ps) 1 d [(2, a), (1, b), (1, c)]
  issue u s (fun x =>
    x.control (x.leaderBad [(.w64, a), (.w32, b), (.w32, c)])
      (match x.ex with
       | [] => x.oneOp x.s 0x78 ps d .access (wordIn 0)
       | l :: _ =>
         let off := x.val .w64 l a
         let n := x.val .w32 l b
         if off % 64 ≠ 0 then x.trap u 4 64 [l] off 0
         else if 4096 < n then x.trap u 7 0 [l] n 0
         else x.work 0x78 ps seg d l off (64 * n) (fun sc va k => .deal sc va x.pl n (x.val .w32 l c) k)))

/-- A team instruction whose suit is gone: no array operation will complete it (13 R275). -/
def State.orphan (s : State) (op : Nat) (o : Op) : Bool :=
  o.kind = .matrix && !(s.hand o.h).suits.any (fun e => match e.2.stall with | .team w => w.op = op | _ => false)

/-- An operation with nothing more to wait for. -/
def Op.allIn (o : Op) : Op := { o with lanes := o.lanes.map (fun x => if x.st = .pending then x.arrive [] else x) }

/-! ## WILL, CLAIM and ESTAT (14 R287 to R289) -/

/-- WILL: the identity and range that EXIT seals. -/
def execWill (a n : Nat) (b : Src) (s : State) : Out :=
  let r : Rng := { start := a, len := n + 1 }
  let keys := rngKeys a (n + 1)
  let u : Use := { major := 0x76, keys := srcKeys 2 b }
  issue u s (fun x =>
    let viol := x.leasing (fun _ => keys)
    let ident (l : Nat) : Nat := x.val .w64 l b % 2 ^ 48
    x.control (x.ex.filter (fun l => x.pois .w64 l b))
      (if !viol.isEmpty then x.leaseTrap u viol keys
       else
         match badWin x.seat (rngWin a (n + 1) ++ srcWin 2 b) with
         | some (i, w0, w) => x.trap u 3 0 x.ex i (w0 * 2 ^ 32 + w)
         | none =>
           match x.ex.filter (fun l => (x.item l).willed || x.kern.lrec.heirk = 0xFFFF) with
           | l :: ls => x.trap u 7 0 (l :: ls) (ident l) (a + n * 65536)
           | [] =>
             ((x.s.modHand x.h (fun d => d.modLanes x.ex (fun l ln => { ln with
                 will := some { ident := ident l, range := r }, item := ln.item.map (fun it => { it with willed := true }) }))).sealLanes x.h x.ex).advance x.r))

/-- CLAIM: one identity of the heir's deck, as one event of T at the home of its record. -/
def execClaim (g : Grd) (ps : Bool) (d n : Nat) (a : Src) (s : State) : Out :=
  let keys := rngKeys d (n + 1)
  let u : Use := { g := g, major := 0x77, wins := rngWin d (n + 1) ++ srcWin 2 a, keys := keys ++ srcKeys 2 a, peg := some ps, event := true }
  issue u s (fun x =>
    x.control (x.ex.filter (fun l => x.pois .w64 l a))
      (let op := x.s.nextOp
       let s1 := x.s.startOp x 0x77 ps (x.ex.map (fun l => x.laneOp l 1 .pending)) .claim x.ex.isEmpty
       let s2 := x.ex.foldl (fun t l =>
         let it := x.item l
         let ident := x.val .w64 l a % 2 ^ 48
         let c : ClaimReq := { ctx := x.ctx, h := x.h, gen := x.hd.gen, lane := l, kern := it.kern, item := it.item, ident := ident
                               outside := !x.kern.inDeck ident, dst := d, n := n + 1, j := none, op := some op }
         (({ t with nextClaim := t.nextClaim + 1, claims := kSet t.nextClaim c t.claims }).leaseRegs x.h l op keys).modLane x.h l
           (fun ln => { ln with claimsDue := ln.claimsDue + 1 })) s1
       (s2.sealLanes x.h x.ex).advance x.r))

/-- ESTAT: the statuses of the claims before it, once they have resolved. -/
def execEstat (g : Grd) (ps : Bool) (d : Dst) (s : State) : Out :=
  issue { useOf g 0x77 1 d [] with peg := some ps } s (fun x =>
    let op := x.s.nextOp
    let ks := dstKeys 1 d
    let lanes := x.ex.map (fun l =>
      let ln := x.lane l
      if ln.claimsDue = 0 then x.laneOp l 0 (wordIn ln.estat ks) else x.laneOp l ln.claimsDue .pending)
    let s1 := x.s.startOp x 0x77 ps lanes (.estat ks.head?) x.ex.isEmpty
    (x.ex.foldl (fun a l => a.leaseRegs x.h l op ks) s1).advance x.r)

/-! ## CHKE and SETSEG (14 R293, R294) -/

/-- CHKE: the poison word of each executing lane. -/
def execChke (g : Grd) (d : Dst) (s : State) : Out :=
  issue (useOf g 0x7b 1 d []) s (fun x => (x.commit (fun l => { out32 d (x.chke l) false with eats := false })).advance x.r)

/-- CHKE.trap: the word is written; the lanes whose PSUM is 1 then enter trap mode and the others go on. -/
def execChkeTrap (g : Grd) (d : Dst) (s : State) : Out :=
  issue (useOf g 0x7b 1 d []) s (fun x =>
    let s1 := x.commit (fun l => { out32 d (x.chke l) false with eats := false })
    let pos := x.u.pos.after s.npc
    match x.ex.filter (fun l => (x.lane l).psum) with
    | [] => s1.advance x.r
    | l :: ls =>
      let rest := x.act.filter (fun m => !(l :: ls).contains m)
      (if rest.isEmpty || x.u.trap.isSome then s1 else s1.offload x.h x.u.kern pos rest).trapEntry x.r 8 0 (l :: ls) (l :: ls) pos (x.chke l) 0)

/-- SETSEG: a segment descriptor of the kernel in its hand, from the leader. -/
def execSetseg (g : Grd) (seg : Seg) (a : Nat) (s : State) : Out :=
  let u : Use := { g := g, major := 0x7c, wins := rngWin a 4, keys := rngKeys a 4, pl := 1 }
  issue u s (fun x =>
    match x.ex with
    | [] => x.s.advance x.r
    | l :: _ =>
      let ws := x.regs l a 4
      let wd (i : Nat) : W32 := (ws.getD i (0, false)).1
      let d : Desc := { w0 := pair64 (wd 0) (wd 1), w1 := pair64 (wd 2) (wd 3) }
      x.control (if ws.any Prod.snd then [l] else [])
        (if seg = .tl && decide (524288 < d.base + d.limit) then x.trap u 7 0 [l] d.w0.toNat d.w1.toNat
         else
           let ks := match seg with
             | .gl => { x.ks with gl := d }
             | .kc => { x.ks with kc := d }
             | .tl => { x.ks with tl := d }
             | .ep => { x.ks with ep := d }
             | .sc => x.ks
           ((x.s.modHand x.h (fun h => { h with sets := kSet x.u.kern ks h.sets })).sealLanes x.h x.ex).advance x.r))

/-! ## The launch queue (15 R308, R309) -/

/-- A legal CX.LQSIZE. -/
def lqLegal (n : Nat) : Bool := decide (4 ≤ n) && decide (n ≤ 12)

/-- A write of the launch register at a logical time. A tail below that of an earlier write takes back the entries that the earlier one gave. -/
def State.launchWrite (s : State) (ctx t pts : Nat) : State :=
  if t < s.reg ctx 0x122 then s
  else (s.setReg ctx 0x123 t).modCtx ctx (fun x => { x with lqWrites := x.lqWrites.map (fun w => (minN w.1 t, w.2)) ++ [(t, pts)] })

/-- A host requester. -/
def State.host (s : State) (r : Nat) : HostAgent := kGet {} r s.hosts

/-- Whether a register write of a requester is taken: its four route counters are zero, and nothing of it waits before (21 R371). -/
def State.hostClear (s : State) (r : Nat) : Bool := (s.host r).live.isEmpty && (s.host r).waiting.isEmpty

/-- LAUNCH_REGISTER_WRITE: CX.LQTAIL, unless the value is lower than CX.LQHEAD, at the logical time of the requester that writes it (21 R370). -/
def execLaunchRegisterWrite (w : LaunchReg) (t : W64) (s : State) : Out :=
  .next (if s.hostClear w.req then s.launchWrite w.ctx t.toNat (s.host w.req).pts else s)

/-- Whether the next entry of a context's launch queue can be processed. -/
def State.entryDue (s : State) (ctx : Nat) : Bool :=
  s.runs ctx && decide (s.reg ctx 0x122 < s.reg ctx 0x123) && lqLegal (s.reg ctx 0x121) && !s.waiting ctx .launchEntry

/-- The logical time at which an entry may be launched: that of the register write that gave it, and of the launch before it (15 R309, 21 R370). -/
def Ctx.launchTime (x : Ctx) (e : Nat) : Nat := maxN x.launchPts (((x.lqWrites.find? (fun w => decide (e < w.1))).map Prod.snd).getD 0)

/-- One entry launched: its record, its result word, and CX.LQHEAD. The launch follows the register write and the entry before it (15 R309). -/
def State.launchEntry (s : State) (ctx : Nat) : State :=
  let e := s.reg ctx 0x122
  let m := e % 2 ^ s.reg ctx 0x121
  let rva := s.reg ctx 0x124 + 4 * m
  match s.devRead 1 ctx 4 ((s.ctxD ctx).launchTime e) (s.reg ctx 0x120 + 512 * m) 512 with
  | .error x => s.devFault ctx 1 4 x .launchEntry
  | .ok g =>
    let r := g.s.launch ctx g.bytes none g.at_
    match r.2.devWrite ctx 4 g.at_ rva (bytesOf 4 r.1) with
    | .error x => s.devFault ctx 1 4 x .launchEntry
    | .ok w => (w.1.setReg ctx 0x122 (e + 1)).modCtx ctx (fun x =>
        { x with launchPts := g.at_, lqWrites := x.lqWrites.filter (fun w => decide (e + 1 < w.1)) })

/-- LAUNCH_QUEUE_ENTRY: the next entry is processed as LAUNCH processes a record. -/
def execLaunchQueueEntry (ctx : Nat) (s : State) : Out := .next (if s.entryDue ctx then s.launchEntry ctx else s)

/-! ## Complete (02 Table 2.7, 15 R311, 22 R384) -/

/-- Whether some .c store of a kernel is unpublished, or published but waits for an engine claim (04 R103). -/
def State.storesDue (s : State) (ctx kn : Nat) : Bool :=
  s.cores.any (fun c => c.2.cbuf.any (fun x => x.ctx = ctx && s.opKern x.op = some kn)) ||
    s.late.any (fun w => w.ctx = ctx && (match w.store with | some (_, _, op, _) => s.opKern op = some kn | none => false))

/-- Whether every estate a kernel bequeathed is sealed, and everything it issued has taken its place in T (04 R106). -/
def State.quiet (s : State) (ctx kn : Nat) : Bool :=
  !s.sealWaits ctx kn && !s.storesDue ctx kn && !s.ops.any (fun e => e.2.ctx = ctx && e.2.kern = kn && (e.2.onEngine || e.2.unissued)) &&
    !s.reqs.any (fun e => e.2.ctx = ctx && e.2.kern = kn) && !s.claims.any (fun e => e.2.ctx = ctx && e.2.kern = kn)

/-- Whether a kernel enters Complete now, or goes on with the steps that follow it. -/
def State.completes (s : State) (ctx kn : Nat) : Bool :=
  (match s.ctx ctx with | some x => x.state = 1 | none => false) &&
    (match s.kernState ctx kn with
     | .exited => s.quiet ctx kn
     | .complete => (s.kernD ctx kn).finish ≠ 3
     | _ => false) && !s.waiting ctx (.probate kn) && !s.waiting ctx (.finish kn)

/-- The report of a kernel that consumed poison (22 R384). -/
def State.kernPoison (s : State) (ctx kn : Nat) : State :=
  let k := s.kernD ctx kn
  if k.finish ≠ 0 then s
  else
    let s1 := s.modKern ctx kn (fun k => { k with finish := 1 })
    if s.cores.any (fun c => c.2.kpsum.contains (kernKey ctx kn)) then
      ((s1.bump ctx 0x199 1).report ctx { kind := 0x11, arg0 := k.poisoned, who := whoWord kn 0 { die := 0, core := 0, hand := 0, suit := 0 } k.lrec.pl }).1
    else s1

/-- The addition to the completion event word, after every event of the kernel and its probate (15 R311); its time. -/
def State.kernEvent (s : State) (ctx kn : Nat) : Except DevErr (State × Nat) :=
  let k := s.kernD ctx kn
  let p := maxN k.pts k.endPts
  if k.deckOnly || k.lrec.cev = 0 then .ok (s, p)
  else
    let n : Need := { rd := true, wr := true, pl := 2 }
    match segCheck .gl k.gl n k.lrec.cev 8 with
    | .error r => .error (2, k.gl.base + k.lrec.cev, .fatal r)
    | .ok va =>
      match s.xlate ctx n va with
      | .hit pa _ rp lo =>
        let q := maxN p (s.walkTime ctx va)
        if s.runBars pa 8 true then .error (2, va, .busy)
        else .ok ((((s.walked ctx va 4 q).mark ctx pa lo).eventAdd q pa 1 false { ctx := ctx, die := 4, repl := rp }))
      | x => .error (2, va, x)

/-- Entering Complete: the kernel is unbound from every core (02 R53). -/
def State.kernEnter (s : State) (ctx kn : Nat) : State :=
  let s1 := s.modKern ctx kn (fun k => { k with cst := .complete })
  { s1 with cores := s1.cores.map (fun c => (c.1, if c.2.serves = some (ctx, kn) then { c.2 with serves := none } else c.2)) }

/-- The last steps: the vector, and what waited for the kernel is satisfied, after the completion event (04 R106, 15 R310). -/
def State.kernEnd (s : State) (ctx kn p : Nat) : State :=
  let k := s.kernD ctx kn
  let s1 := if k.deckOnly || k.lrec.msix = 0xFFFF then s else s.vector ctx k.lrec.msix
  s1.modCtx ctx (fun x => { x with kerns := x.kerns.map (fun (e : Nat × Kernel) => (e.1,
    if e.1 = kn then { e.2 with finish := 3, endPts := maxN e.2.endPts p }
    else if e.2.preds.contains kn || (k.lrec.heirk = e.1 && k.heirBorn = e.2.born && !k.deckOnly) then
      { e.2 with preds := e.2.preds.filter (fun q => q ≠ kn), pts := maxN e.2.pts p }
    else e.2)) })

/-- A kernel enters Complete; probate, the completion event word and the vector follow, in this order. A fault on one of them
keeps it and those after it waiting (24 R452). -/
def State.kernComplete (s : State) (ctx kn : Nat) : State :=
  let s0 := if (s.kernD ctx kn).cst = .complete then s else s.kernEnter ctx kn
  let s1 := (s0.kernPoison ctx kn).probate ctx kn 1 (s0.kernD ctx kn).pts
  if !(s1.kernD ctx kn).probated || (s1.ctxD ctx).state ≠ 1 then s1
  else
    match s1.kernEvent ctx kn with
    | .error x => s1.devFault ctx 5 4 x (.finish kn)
    | .ok r => r.1.kernEnd ctx kn r.2

/-- KERNEL_COMPLETE (15 R311). -/
def execKernelComplete (ctx kern : Nat) (s : State) : Out := .next (if s.completes ctx kern then s.kernComplete ctx kern else s)

/-! ## The dealer (15 R316, R317) -/

/-- A stage deck of a context. -/
structure Stage where
  ctx : Nat
  kern : Nat
deriving DecidableEq, Repr

/-- Live stage decks permitted on a die, but for those of contexts that do not run. -/
def State.stages (s : State) (die : Nat) : List Stage :=
  s.ctxs.flatMap (fun x => (x.2.kerns.filter (fun k => k.2.lrec.sthi ≠ 0 && !k.2.deckOnly && bitN k.2.lrec.die die && s.runs x.1 && s.kernState x.1 k.1 = .live)).map
    (fun k => { ctx := x.1, kern := k.1 }))

/-- O: undrawn items plus woken continuations. -/
def State.stageLoad (s : State) (t : Stage) : Nat := (s.kernD t.ctx t.kern).undrawn + s.woken t.ctx t.kern

/-- Cores of a die that serve a deck, rising. -/
def State.serving (s : State) (die : Nat) (t : Stage) : List CoreRef := (coresOf die).filter (fun c => s.serves c = some (t.ctx, t.kern))

/-- Takers in order: those without a core, then by falling load, then by kernel number. -/
def insStage (s : State) (die : Nat) (t : Stage) : List Stage → List Stage
  | [] => [t]
  | u :: us =>
    let key (v : Stage) : Nat × Nat × Nat := ((if (s.serving die v).isEmpty then 0 else 1), s.stageLoad v, v.kern * 256 + v.ctx)
    let a := key t
    let b := key u
    if a.1 < b.1 ∨ (a.1 = b.1 ∧ (b.2.1 < a.2.1 ∨ (b.2.1 = a.2.1 ∧ a.2.2 ≤ b.2.2))) then t :: u :: us else u :: insStage s die t us

/-- The core that a taker gets: one that serves no stage deck, else one of a donor. -/
def State.dealerCore (s : State) (die : Nat) (ds : List Stage) (t : Stage) : Option CoreRef :=
  match (coresOf die).find? (fun c => (s.serves c).isNone && s.mayUse t.ctx c) with
  | some c => some c
  | none =>
    let from_ (p : Stage → Bool) : List Stage := ds.filter (fun d => d ≠ t && decide (1 < (s.serving die d).length) && p d)
    let low := from_ (fun d => decide (s.stageLoad d ≤ 64 * (s.kernD d.ctx d.kern).lrec.stlo))
    let donors := if low.isEmpty then from_ (fun d => decide (s.stageLoad d < 64 * (s.kernD d.ctx d.kern).lrec.sthi)) else low
    match leastBy (fun d => s.stageLoad d * 2 ^ 32 + d.kern * 256 + d.ctx) donors with
    | none => none
    | some d => ((s.serving die d).filter (s.mayUse t.ctx)).getLast?

/-- The moves of one period of a die's dealer. -/
def State.dealer (s : State) (die : Nat) : State :=
  let ds := s.stages die
  let takers := (ds.filter (fun t => (s.serving die t).isEmpty || decide (64 * (s.kernD t.ctx t.kern).lrec.sthi ≤ s.stageLoad t))).foldr (insStage s die) []
  takers.foldl (fun a t => match a.dealerCore die ds t with
    | some c => a.modCore c (fun x => { x with serves := some (t.ctx, t.kern) })
    | none => a) s

/-- DEALER_PERIOD: every 4,096 clocks (15 R316). -/
def execDealerPeriod (die : Nat) (s : State) : Out :=
  .next (if s.dies.contains die && decide (kGet 0 die s.dealerAt < s.clk / 4096) then
    { s.dealer die with dealerAt := kSet die (s.clk / 4096) s.dealerAt } else s)

end Sys2Proof.Machine
end

