-- ==== Sys2Proof/Machine/Engines.lean ====
section
/-! DEFINITION. Sys2Proof/Machine/Engines.lean: engine operations: how they issue, claim, take effect as one event and complete,
and the remote operations of peers (12, 04 R99 to R102, 17 R347, R348, 24 R413 to R417). -/

namespace Sys2Proof.Machine

/-! ## Bytes with the poison of their sectors -/

abbrev PBytes := List (Byte × Bool)

/-- A run read sector by sector. -/
def secBytes (rd : Nat → Nat → List Byte) (pz : Nat → Bool) (a n : Nat) : PBytes :=
  (spanOf 16 a n).flatMap (fun k =>
    let lo := maxN a (16 * k)
    (rd lo (minN (a + n) (16 * k + 16) - lo)).map (fun b => (b, pz k)))

/-- A run cut at multiples of 16. -/
def cut16 (fuel a : Nat) (bs : PBytes) : List (Nat × PBytes) :=
  match fuel with
  | 0 => []
  | k + 1 => if bs.isEmpty then [] else (let n := 16 - a % 16; (a, bs.take n) :: cut16 k (a + n) (bs.drop n))

def pAny (bs : PBytes) : Bool := bs.any Prod.snd

/-- Where a virtual address of an engine's range lies, by the translation that its claim holds (24 R414). -/
def Eng.paOf (g : Eng) (dst : Bool) (va : Nat) : Option (Nat × Nat) :=
  (g.held.find? (fun k => k.at_.sp = .mem && k.dst = dst && decide (k.at_.addr ≤ va) && decide (va < k.at_.addr + k.len))).map
    (fun k => (k.pa + (va - k.at_.addr), k.repl))

/-- Pieces of a memory range at their physical addresses. -/
def Eng.pieces (g : Eng) (dst : Bool) (a n : Nat) : List (Nat × Nat × Nat) :=
  (pagesOf (n / 65536 + 2) a n).filterMap (fun p => (g.paOf dst p.1).map (fun q => (q.1, p.2, q.2)))

/-- A range read at the issue point. An unpublished .c store of the core stands before the operation in the core's order, which its bytes follow (04
R103). -/
def State.eRead (s : State) (o : Op) (g : Eng) (dst : Bool) (a : EAddr) (n : Nat) : PBytes :=
  let c := s.core o.h.cr
  match a.sp with
  | .sc => secBytes (fun x m => cellsRead c.scr x m) (fun k => c.scrPois.contains k) a.addr n
  | .tl => secBytes (fun x m => cellsRead c.tal x m) (fun k => c.talPois.contains k) a.addr n
  | .mem => (g.pieces dst a.addr n).flatMap (fun p => secBytes (fun x m => overlay c.cbuf false x (s.memRead x m))
      (fun k => overlayPois c.cbuf false (16 * k) 16 (s.secPois k)) p.1 p.2.1)

/-- One run within a line written at the issue point, at logical time p. Before a base-die engine writes a line, its home slice writes it back and
drops it (12 R252). -/
def State.eLine (s : State) (p pa : Nat) (bs : PBytes) (f : From) (base : Bool) : State :=
  let line := lineOf pa
  let h := s.home pa
  let s1 := if base then (s.writeBack line).chargeChan f.ctx h.chan else s.charge f.ctx line (partSecs pa bs.length)
  let s2 := (cut16 6 pa bs).foldl (fun a c =>
    (a.memPut c.1 (c.2.map Prod.fst)).secWrite c.1 c.2.length (pAny c.2) (sectorOf c.1)) s1
  let s3 := { s2 with lines := kSet line { wts := p, rts := p } s2.lines }
  let s4 := if base then s3 else s3.dirty line f.ctx (spanOf 16 pa bs.length)
  (s4.countReq h.die pa f true).collapse h.die pa

/-- A run cut at line boundaries. -/
def cut64 (fuel a : Nat) (bs : PBytes) : List (Nat × PBytes) :=
  match fuel with
  | 0 => []
  | k + 1 => if bs.isEmpty then [] else (let n := 64 - a % 64; (a, bs.take n) :: cut64 k (a + n) (bs.drop n))

/-- A range of memory written, piece by piece, by an agent of a context on a die. -/
def State.ePieces (s : State) (p ctx die : Nat) (base : Bool) : List (Nat × Nat × Nat) → PBytes → State
  | [], _ => s
  | (pa, m, repl) :: ps, bs =>
    ((cut64 (m / 64 + 2) pa (bs.take m)).foldl (fun a c => a.eLine p c.1 c.2 { ctx := ctx, die := die, repl := repl } base) s).ePieces p ctx die base ps (bs.drop m)

def EngK.baseDie : EngK → Bool
  | .gather _ _ _ _ _ | .scatter _ _ _ _ _ | .reduce _ _ _ _ _ _ | .convert _ _ _ _ _ _ _ _ => true
  | _ => false

/-- A range written at the issue point, over the unpublished stores of its core (04 R104). -/
def State.eWrite (s : State) (o : Op) (g : Eng) (p : Nat) (a : EAddr) (bs : PBytes) : State :=
  let cells (m : List Host.Cell) : List Host.Cell := cellsWrite m a.addr (bs.map Prod.fst)
  let pz (ps : List Nat) : List Nat := (cut16 (bs.length / 16 + 2) a.addr bs).foldl (fun q c => poisAfter q c.1 c.2.length (pAny c.2)) ps
  match a.sp with
  | .sc => s.modCore o.h.cr (fun c => { c with scr := cells c.scr, scrPois := pz c.scrPois })
  | .tl => s.modCore o.h.cr (fun c => { c with tal := cells c.tal, talPois := pz c.talPois })
  | .mem =>
    let ps := g.pieces true a.addr bs.length
    (s.ePieces p o.ctx o.h.die g.kind.baseDie ps bs).modCore o.h.cr (fun c => ps.foldl (fun k q => k.cover q.1 q.2.1) c)

/-! ## What an operation computes (12 R248 to R256) -/

/-- A cell of an element list, of w bytes. -/
def elems (w : Nat) (fuel : Nat) (bs : PBytes) : List (Nat × Bool) :=
  match fuel with
  | 0 => []
  | k + 1 => if bs.isEmpty then [] else (ofBytes ((bs.take w).map Prod.fst), pAny (bs.take w)) :: elems w k (bs.drop w)

/-- Elements as bytes again. -/
def unelems (w : Nat) (es : List (Nat × Bool)) : PBytes := es.flatMap (fun e => (bytesOf w e.1).map (fun b => (b, e.2)))

/-- The engine generator: a word for each element, when the mode is RS (12 R255). -/
def engDraw (e : FEnv) (g : W32) : Nat × W32 := if e.rnd = .rs then ((nextRandom g).toNat, nextRandom g) else (0, g)

/-- A function of each element and its random word, ascending. -/
def withDraws {α β : Type} (e : FEnv) (f : Nat → α → β) : W32 → List α → List β
  | _, [] => []
  | g, x :: xs => let d := engDraw e g; f d.1 x :: withDraws e f d.2 xs

/-- SRED of two lists of elements (12 R254). SATF is for conversions and MDRAIN alone (05 R112, R115). -/
def sredOf (bf mx : Bool) (e : FEnv) (d s : List (Nat × Bool)) : List (Nat × Bool) :=
  let t := if bf then bf16 else f32
  withDraws e (fun r (x : (Nat × Bool) × (Nat × Bool)) =>
    let a := t.flush e.daz x.1.1
    let b := t.flush e.daz x.2.1
    (if mx then t.minMax true a b else t.flush e.ftz (t.round e.rnd r false (FV.add (e.rnd = .rdn) (t.value a) (t.value b))), x.1.2 || x.2.2))
    e.r0 (d.zip s)

def cvtFmt : CvtFmt → FFmt
  | .f16 => f16
  | .bf16 => bf16
  | _ => f32
def cvtBytes : CvtFmt → Nat
  | .f32 => 4 | .nar => 1 | _ => 2

/-- Bytes of a region of n elements (12 R256). -/
def cvtLen (f : CvtFmt) (fm n : Nat) : Nat := cvtBytes f * n + (if f = .nar && nScale fm ≠ 0 then n / blockLen fm else 0)

/-- The values of a source region, with their poison. -/
def cvtValues (sf : CvtFmt) (fm n : Nat) (daz : Bool) (bs : PBytes) : List (FV × Bool) :=
  match sf with
  | .nar =>
    (elems 1 n (bs.take n)).mapIdx (fun i c =>
      let v := nValue fm (c.1 % 2 ^ nWidth fm)
      if nScale fm = 0 then (v, c.2)
      else
        let sb := bs.getD (n + i / blockLen fm) (0, false)
        let sc := scaleValue fm sb.1.toNat
        (if sc.isZero then FV.zero else if sc.isNan then FV.nan else FV.mul v sc, c.2 || sb.2))
  | f => (elems (cvtBytes f) n bs).map (fun c => ((cvtFmt f).value ((cvtFmt f).flush daz c.1), c.2))

/-- A list cut into blocks. -/
def blocksOf {α : Type} (b : Nat) (fuel : Nat) (l : List α) : List (List α) :=
  match fuel with
  | 0 => []
  | k + 1 => if l.isEmpty then [] else l.take b :: blocksOf b k (l.drop b)

/-- The destination region of a conversion. -/
def cvtOut (df : CvtFmt) (fm : Nat) (sat : Bool) (e : FEnv) (vs : List (FV × Bool)) : PBytes :=
  match df with
  | .nar =>
    if nScale fm = 0 then
      unelems 1 (withDraws e (fun r (v : FV × Bool) => (nConvert fm e.rnd r (sat || e.satf) v.1, v.2)) e.r0 vs)
    else
      let bl := (blocksOf (blockLen fm) vs.length vs).map (fun b => (blockScale fm (b.map Prod.fst), b.any Prod.snd, b))
      let flat := bl.flatMap (fun b => b.2.2.map (fun v => (v.1, b.1, b.2.1)))
      unelems 1 (withDraws e (fun r (v : FV × Nat × Bool) => (scaledCode fm e.rnd r v.2.1 v.1, v.2.2)) e.r0 flat)
        ++ unelems 1 (bl.map (fun b => (b.1, b.2.1)))
  | f =>
    let t := cvtFmt f
    unelems (cvtBytes f) (withDraws e (fun r (v : FV × Bool) =>
      (t.flush e.ftz (t.round e.rnd r (f ≠ .f32 && (sat || e.satf)) v.1), v.2)) e.r0 vs)

/-- The indices of GATH and SCAT at their homes, with their poison. -/
def State.eIdx (s : State) (o : Op) (g : Eng) (idx : EAddr) (n : Nat) : List (Nat × Bool) := elems 4 n (s.eRead o g false idx (4 * n))

def EAddr.plus (a : EAddr) (n : Nat) : EAddr := { a with addr := a.addr + n }

/-- The writes that an operation makes, in order, from what it reads. -/
def State.eWrites (s : State) (o : Op) (g : Eng) : List (EAddr × PBytes) :=
  match g.kind with
  | .copy src dst len => [(dst, s.eRead o g false src len)]
  | .copy2 src dst row rows ps pd => (List.range rows).map (fun i => (dst.plus (i * pd), s.eRead o g false (src.plus (i * ps)) row))
  | .gather src dst _ _ e => g.idx.mapIdx (fun i x =>
      (dst.plus (i * e), (s.eRead o g false (src.plus (x.1 * e)) e).map (fun b => (b.1, b.2 || x.2))))
  | .scatter src dst _ _ e => g.idx.mapIdx (fun i x =>
      (dst.plus (x.1 * e), (s.eRead o g false (src.plus (i * e)) e).map (fun b => (b.1, b.2 || x.2))))
  | .reduce src dst len bf mx env =>
    let w := if bf then 2 else 4
    [(dst, unelems w (sredOf bf mx env (elems w len (s.eRead o g true dst len)) (elems w len (s.eRead o g false src len))))]
  | .convert src dst n sf df fm sat env =>
    [(dst, cvtOut df fm.toNat sat env (cvtValues sf fm.toNat n env.daz (s.eRead o g false src (cvtLen sf fm.toNat n))))]
  | .put _ _ | .get _ _ | .signal _ => []

/-! ## Claims (04 R99 to R102, 24 R413) -/

/-- Whether two runs of bytes share a line. -/
def lineMeet (a n b m : Nat) : Bool := n ≠ 0 && m ≠ 0 && decide (a / 64 ≤ (b + m - 1) / 64) && decide (b / 64 ≤ (a + n - 1) / 64)

/-- Whether an operation reads its destination (12 R254). -/
def EngK.readsDst : EngK → Bool
  | .reduce _ _ _ _ _ _ => true
  | _ => false

/-- What an engine needs of a page. -/
def Eng.need (g : Eng) (dst : Bool) (pl : Nat) : Need :=
  { rd := !dst || g.kind.readsDst, wr := dst, pl := pl }

/-- Runs of an operation that it has still to claim, where they translate. -/
def State.todoRuns (s : State) (o : Op) (g : Eng) (pl : Nat) : List (ESpace × Nat × Nat × Bool) :=
  g.todo.flatMap (fun r => match r.at_.sp with
    | .mem => (pagesOf (r.len / 65536 + 2) r.at_.addr r.len).filterMap (fun p => match s.xlate o.ctx (g.need r.dst pl) p.1 with
      | .hit pa _ _ _ => some (.mem, pa, p.2, r.dst)
      | _ => none)
    | sp => [(sp, r.at_.addr, r.len, r.dst)])

/-- The reach of GATH and SCAT, checked on the claimed indices before anything else (12 R253): the indices and the ranges still to claim, or
none when an index reaches past the segment, or carries out of bit 56 (04 R84). -/
def State.reachOf (s : State) (o : Op) (g : Eng) : Option (List (Nat × Bool) × List ERange) :=
  let far (idx : EAddr) (n e : Nat) (rs : List (Nat × Bool) → List ERange) : Option (List (Nat × Bool) × List ERange) :=
    let xs := s.eIdx o g idx n
    if g.room < ((xs.map Prod.fst).foldl maxN 0 + 1) * e then none else some (xs, rs xs)
  match g.kind with
  | .gather src dst idx n e => far idx n e (fun xs => xs.map (fun x => { at_ := src.plus (x.1 * e), len := e, dst := false }) ++ [{ at_ := dst, len := n * e, dst := true }])
  | .scatter src dst idx n e => far idx n e (fun xs => { at_ := src, len := n * e, dst := false } :: xs.map (fun x => { at_ := dst.plus (x.1 * e), len := e, dst := true }))
  | _ => some ([], [])

/-- An operation as though it held what it has still to claim, where that translates. -/
def State.asHeld (s : State) (o : Op) (g : Eng) (pl : Nat) : Eng :=
  { g with held := g.held ++ g.todo.flatMap (fun r => match r.at_.sp with
      | .mem => (pagesOf (r.len / 65536 + 2) r.at_.addr r.len).filterMap (fun p => match s.xlate o.ctx (g.need r.dst pl) p.1 with
        | .hit pa _ repl _ => some { at_ := { r.at_ with addr := p.1 }, pa := pa, len := p.2, dst := r.dst, repl := repl }
        | _ => none)
      | _ => []) }

/-- Runs that an operation has still to claim, with those that its indices name as they stand, when it has not read them. -/
def State.dueRuns (s : State) (o : Op) (g : Eng) (pl : Nat) : List (ESpace × Nat × Nat × Bool) :=
  s.todoRuns o { g with todo := g.todo ++ (if g.reached then [] else ((s.reachOf o (s.asHeld o g pl)).map Prod.snd).getD []) } pl

/-- Whether an operation keeps the claims that it holds against one of a higher or lower ticket: it has issued, or is parked or stopped. -/
def Eng.keeps (g : Eng) : Bool := g.issued || g.parked || g.stopped

/-- Whether a claim of an operation meets a run, one of the two being for writing. -/
def Eng.meets (g : Eng) (sp : ESpace) (a n : Nat) (dst : Bool) : Bool :=
  g.held.any (fun k => k.at_.sp = sp && (dst || k.dst) && lineMeet a n (if sp = .mem then k.pa else k.at_.addr) k.len)

/-- Whether a run conflicts with a claim that another operation holds and keeps, or with one that an operation of a lower ticket has still to make. What a
GATH or SCAT that has not read its indices will claim, it is taken to be by the indices as they stand (04 R101; DESIGN CHOICE, log 28). -/
def State.claimConflict (s : State) (id : Nat) (o : Op) (g : Eng) (sp : ESpace) (a n : Nat) (dst : Bool) : Bool :=
  s.ops.any (fun e => e.1 ≠ id && (match e.2.kind with
    | .engine h =>
      (sp = .mem || e.2.h.cr = o.h.cr) &&
        (((h.keeps || decide (h.ticket < g.ticket)) && h.meets sp a n dst)
          || (!h.issued && decide (h.ticket < g.ticket) &&
                (s.dueRuns e.2 h (s.kernD e.2.ctx e.2.kern).lrec.pl).any (fun r => sp = r.1 && (dst || r.2.2.2) && lineMeet a n r.2.1 r.2.2.1)))
    | _ => false))

/-- An operation before its issue point gives its claims back: it claims its ranges again (04 R101; log 28). -/
def Eng.giveBack (g : Eng) : Eng :=
  match g.kind with
  | .gather _ _ idx n _ | .scatter _ _ idx n _ => { g with held := [], idx := [], reached := false, todo := [{ at_ := idx, len := 4 * n, dst := false }] }
  | _ => { g with held := [], todo := g.held.map (fun k => { at_ := k.at_, len := k.len, dst := k.dst }) ++ g.todo }

/-- A run granted to an operation: one of a higher ticket that holds a conflicting claim and has not issued gives its claims back. -/
def State.takeBack (s : State) (id : Nat) (o : Op) (sp : ESpace) (a n : Nat) (dst : Bool) : State :=
  { s with ops := s.ops.map (fun (e : Nat × Op) => (e.1, match e.2.kind with
      | .engine h => if e.1 ≠ id && (sp = .mem || e.2.h.cr = o.h.cr) && !h.keeps && h.meets sp a n dst then { e.2 with kind := .engine h.giveBack } else e.2
      | _ => e.2)) }

/-- Claim records in memory of an operation at a slice: one for each run that touches it; those of one with 512 there grow wider (04 R102; log 28). -/
def Op.recordsAt (o : Op) (s : State) (die sl : Nat) : Nat :=
  match o.kind with
  | .engine h => minN 512 (h.held.filter (fun k => k.at_.sp = .mem && (spanOf 64 k.pa k.len).any (fun m => (s.home (m * 64)).die = die && (s.home (m * 64)).slice = sl))).length
  | _ => 0

/-- Slices of a run whose 512 claim records are all in use. -/
def State.fullSlices (s : State) (pa n : Nat) : List (Nat × Nat) :=
  if decide (512 ≤ sumBy (fun e => match e.2.kind with | .engine h => h.held.length | _ => 0) s.ops) then
    ((spanOf 64 pa n).map (fun l => ((s.home (l * 64)).die, (s.home (l * 64)).slice))).filter (fun h =>
      decide (512 ≤ sumBy (fun e => e.2.recordsAt s h.1 h.2) s.ops))
  else []

/-- Operations that hold records of some slices and give them up for one of a lower ticket: they have a higher one and are before their issue point. -/
def State.givers (s : State) (id : Nat) (g : Eng) (fs : List (Nat × Nat)) : List Nat :=
  (s.ops.filter (fun e => e.1 ≠ id && (match e.2.kind with | .engine k => !k.keeps && decide (g.ticket < k.ticket) | _ => false) &&
    fs.any (fun h => decide (0 < e.2.recordsAt s h.1 h.2)))).map Prod.fst

/-- Whether an operation finds no claim record for a run: at a slice that it touches all 512 are in use, some by an operation that will give them up first,
because it has issued or has a lower ticket, or waits for a replay or restore (04 R102; log 28). -/
def State.sliceFull (s : State) (id : Nat) (g : Eng) (pa n : Nat) : Bool :=
  let fs := s.fullSlices pa n
  (s.givers id g fs).isEmpty && s.ops.any (fun e => e.1 ≠ id && fs.any (fun h => decide (0 < e.2.recordsAt s h.1 h.2)))

/-- The records that operations of a higher ticket give up for a run. -/
def State.takeRecords (s : State) (id : Nat) (g : Eng) (pa n : Nat) : State :=
  let gs := s.givers id g (s.fullSlices pa n)
  { s with ops := s.ops.map (fun (e : Nat × Op) => (e.1, match e.2.kind with
      | .engine k => if gs.contains e.1 then { e.2 with kind := .engine k.giveBack } else e.2
      | _ => e.2)) }

/-- A claim joins the one before it when they are one run. -/
def addClaim (held : List EClaim) (c : EClaim) : List EClaim :=
  match held.getLast? with
  | some k => if k.at_.sp = c.at_.sp && k.dst = c.dst && k.repl = c.repl && k.at_.addr + k.len = c.at_.addr && k.pa + k.len = c.pa then
      held.dropLast ++ [{ k with len := k.len + c.len }] else held ++ [c]
  | none => [c]

def State.putEng (s : State) (id : Nat) (o : Op) (g : Eng) : State := { s with ops := kSet id { o with kind := .engine g } s.ops }

/-- The leader's lane entry. -/
def Op.lead (o : Op) : LaneOp := (o.lanes.head?).getD { lane := 0, kern := o.kern, item := 0, age := 0, st := .done }

/-- W4 of a record about an engine's leader. -/
def State.engWho (s : State) (o : Op) (g : Eng) : Nat := whoWord o.kern o.gen (o.h.sr g.suit) (s.kernD o.ctx o.kern).lrec.pl

/-- The fatal record of an engine's leader. -/
def State.engRec (s : State) (o : Op) (g : Eng) (reason arg : Nat) : TrapRec :=
  { kind := 0x22, code := reason, pc := g.pc, cmask := [g.leader], item := o.lead.item, who := s.engWho o g, arg0 := arg, die := o.h.die }

/-- A fatal fault before the issue point: the claims are released and the context halts (24 R413). -/
def State.engFatal (s : State) (id : Nat) (o : Op) (g : Eng) (reason arg : Nat) : State :=
  (s.putEng id o { g with held := [], todo := [] }).halt o.ctx 0x22 (s.engRec o g reason arg)

/-- Whether an engine of a context moves: the context is Open and not being saved, and the operation is neither parked nor
stopped. -/
def State.engMoves (s : State) (o : Op) (g : Eng) : Bool := s.runs o.ctx && !g.parked && !g.stopped

/-- An operation whose indices reach too far does not issue: nothing of it is left, its peg counts it, and its leader's segment fault halts the context (12
R245). -/
def State.unreach (s : State) (id : Nat) (o : Op) (g : Eng) : State :=
  ({ s with ops := kErase id s.ops }.pegDone o.h o.peg id).halt o.ctx 0x22 (s.engRec o g 1 g.off)

/-- The next chunk of an operation's ranges claimed. -/
def State.claimNext (s : State) (id : Nat) (o : Op) (g : Eng) : State :=
  let pl := (s.kernD o.ctx o.kern).lrec.pl
  match g.todo with
  | [] =>
    if g.reached then s
    else
      match s.reachOf o g with
      | some (xs, rs) => s.putEng id o { g with todo := rs, idx := xs, reached := true }
      | none => s.unreach id o g
  | r :: rest =>
    if r.len = 0 then s.putEng id o { g with todo := rest }
    else
      match r.at_.sp with
      | .mem =>
        let m := minN r.len (65536 - r.at_.addr % 65536)
        let more := if m = r.len then rest else { r with at_ := r.at_.plus m, len := r.len - m } :: rest
        let p := maxN (s.ptsOf o.h o.gen o.pts) (s.walkTime o.ctx r.at_.addr)
        match s.xlate o.ctx (g.need r.dst pl) r.at_.addr with
        | .hit pa _ rp lo =>
          if s.claimConflict id o g .mem pa m r.dst || s.sliceFull id g pa m then s
          else (((((s.takeRecords id g pa m).walked o.ctx r.at_.addr o.h.die p).mark o.ctx pa lo).setPts o.h o.gen p).takeBack id o .mem pa m r.dst).putEng id o
            { g with todo := more, held := addClaim g.held { at_ := r.at_, pa := pa, len := m, dst := r.dst, repl := rp } }
        | .miss lv en =>
          (s.replayable o.ctx r.at_.addr lv en { kind := 1, req := 2, acc := (g.need r.dst pl).acc, fdie := o.h.die, item := o.lead.item
                                                 who := s.engWho o g }).putEng id o { g with parked := true }
        | .fatal rs => s.engFatal id o g rs r.at_.addr
        | .busy => s
      | sp =>
        if s.claimConflict id o g sp r.at_.addr r.len r.dst then s
        else (s.takeBack id o sp r.at_.addr r.len r.dst).putEng id o
          { g with todo := rest, held := g.held ++ [{ at_ := r.at_, pa := r.at_.addr, len := r.len, dst := r.dst }] }

/-- CLAIM_GRANT: the next claim of an engine operation is translated and granted (04 R99 to R102). -/
def execClaimGrant (op : Nat) (s : State) : Out :=
  match kFind op s.ops with
  | some o => (match o.kind with
    | .engine g => .next (if s.engMoves o g && !g.issued then s.claimNext op o g else s)
    | _ => .next s)
  | none => .next s

/-! ## The issue point (04 R99, 12 R246, R247) -/

/-- Lines of an operation's claims in memory. -/
def Eng.lines (g : Eng) (dst : Bool) : List Nat := (g.held.filter (fun k => k.at_.sp = .mem && k.dst = dst)).flatMap (fun k => spanOf 64 k.pa k.len)

/-- Its logical time: no earlier than the issuer and what it reads, and later than the reads of what it writes (log 21). -/
def State.engTime (s : State) (o : Op) (g : Eng) : Nat :=
  (g.lines false).foldl (fun v l => maxN v (s.lineTs l).wts) (s.writeTime (s.ptsOf o.h o.gen o.pts) (g.lines true))

/-- The lines that an operation reads: what they cost, and later writes stand after. Before a base-die engine reads a line, its home slice writes it back and
drops it (12 R252). -/
def State.engReads (s : State) (o : Op) (g : Eng) (p : Nat) : State :=
  let ks := g.held.filter (fun k => k.at_.sp = .mem && (!k.dst || g.kind.readsDst))
  let s1 := ks.foldl (fun a k =>
    let f : From := { ctx := o.ctx, die := o.h.die, repl := k.repl }
    if g.kind.baseDie then
      (spanOf 64 k.pa k.len).foldl (fun (b : State) l =>
        let h := b.home (l * 64)
        ((((b.writeBack l).chargeChan o.ctx h.chan).countReq h.die (l * 64) f false).readAt l p)) a
    else a.homeReads k.pa k.len f p) s
  let secs := ks.flatMap (fun k => s.badSecs k.at_.addr [(k.pa, k.len, 0, 0)])
  s1.consumedAt o.ctx secs { kind := 0, req := 2, acc := 0, fdie := o.h.die, item := o.lead.item, who := s.engWho o g }

/-- Parts of a message, of at most 4 KiB each, sent once (17 R348). -/
def segsOf (n : Nat) : KMap Nat := (List.range (maxN 1 ((n + 4095) / 4096))).map (fun i => (i, 1))

/-- Poison marks of data, one per 16 bytes. -/
def marks (bs : PBytes) : List Bool := (cut16 (bs.length / 16 + 2) 0 bs).map (fun c => pAny c.2)

/-- The message of a remote operation leaves, in the order of its peer entry. -/
def State.sendMsg (s : State) (id : Nat) (o : Op) (g : Eng) (m : Msg) : State × Eng :=
  let n := kGet 0 m.entry (s.ctxD o.ctx).peerSeq
  ((s.modCtx o.ctx (fun x => { x with peerSeq := kSet m.entry (n + 1) x.peerSeq })) |>
    (fun t => { t with nextMsg := t.nextMsg + 1, msgs := kSet t.nextMsg { m with op := id, seq := n } t.msgs }), { g with msg := some s.nextMsg })

/-- The body of a remote operation's message, from what it reads at its issue point. -/
def State.msgBody (s : State) (o : Op) (g : Eng) : Option (PeerOp × Nat) :=
  match g.kind with
  | .put src len => let bs := s.eRead o g false src len; some (.put (bs.map Prod.fst) (marks bs), len)
  | .get _ len => some (.get len, 0)
  | .signal a => some (.sig a, 0)
  | _ => none

/-- Whether everything an operation does is done (12 Table 12.7). -/
def Eng.finished (g : Eng) : Bool := g.issued && g.held.isEmpty && g.msg.isNone

/-- A finished operation completes for its peg. -/
def State.engDone (s : State) (id : Nat) : State :=
  match kFind id s.ops with
  | some o => (match o.kind with
    | .engine g => if g.finished then s.arrive id g.leader [] else s
    | _ => s)
  | none => s

/-- The message that an engine prepared at issue, kept in the message table under its own number until it is sent. -/
def State.engMsg (s : State) (g : Eng) : Option Msg := g.msg.bind (fun m => kFind m s.msgs)

/-- The whole operation takes effect as one event. -/
def State.engIssue (s : State) (id : Nat) (o : Op) (g : Eng) : State :=
  let p := s.engTime o g
  let ws := s.eWrites o g
  let body := s.msgBody o g
  let s1 := s.engReads o g p
  let s2 := ws.foldl (fun a w => a.eWrite o g p w.1 w.2) s1
  let s3 := (s2.setPts o.h o.gen p).endAt o.ctx o.kern p
  let g1 := { g with issued := true, pt := p }
  let (s4, g2) := match body, s.engMsg g with
    | some (b, n), some m => { s3 with msgs := kErase (g.msg.getD 0) s3.msgs }.sendMsg id o g1 { m with body := b, segs := segsOf n }
    | _, _ => (s3, g1)
  State.wakeAll ((s4.putEng id o g2).engDone id)

/-- Whether a team instruction that has arrived has still to read talon bytes that an operation writes (12 R250). -/
def State.teamReads (s : State) (o : Op) (g : Eng) : Bool :=
  (s.core o.h.cr).hands.any (fun h => h.2.suits.any (fun u => match u.2.stall with
    | .team w => w.reads.any (fun r => g.held.any (fun k => k.dst && k.at_.sp = .tl && overlaps r.1 r.2 k.at_.addr k.len))
    | _ => false))

/-- ENGINE_ISSUE_POINT: the last claim is granted, and the operation takes its place in T (12 R246). -/
def execEngineIssuePoint (op : Nat) (s : State) : Out :=
  match kFind op s.ops with
  | some o => (match o.kind with
    | .engine g => .next (if s.engMoves o g && !g.issued && g.todo.isEmpty && g.reached && !s.teamReads o g then s.engIssue op o g else s)
    | _ => .next s)
  | none => .next s

/-- The first line of a claim released; none when it was the last. -/
def EClaim.release (k : EClaim) : Option EClaim :=
  let a := if k.at_.sp = .mem then k.pa else k.at_.addr
  let n := 64 - a % 64
  if k.len ≤ n then none else some { k with at_ := k.at_.plus n, pa := k.pa + n, len := k.len - n }

/-- Bytes that the release of the first line of a claim gives up. -/
def EClaim.step (k : EClaim) : Nat := minN k.len (64 - (if k.at_.sp = .mem then k.pa else k.at_.addr) % 64)

/-- Whether a copy stands between 4 KiB chunks: it has released nothing; or it has read every chunk, and a chunk's last byte is the last that it has written
(the line of that byte is released with what follows it there). -/
def Eng.atChunk (g : Eng) : Bool :=
  let left := (g.held.map EClaim.len).foldl (· + ·) 0
  let done := g.total - left
  g.rel = 0 || (g.held.all (fun k => k.dst) && (match g.held with
    | [] => true
    | k :: _ => (let edge := (done + k.step - 1) / 4096 * 4096; 0 < edge && decide (done ≤ edge))))

/-- Whether an operation stands at a unit at which its engine stops for pre-emption (15 Table 15.6): before its issue point, between 4 KiB chunks of a
copy or talon load, between lines of the base-die engines, and between messages. -/
def Eng.atUnit (g : Eng) : Bool :=
  !g.issued || (match g.kind with
    | .copy _ _ _ | .copy2 _ _ _ _ _ _ => g.atChunk
    | .put _ _ | .get _ _ | .signal _ => g.msg.isNone
    | _ => true)

/-- Whether a context is being saved. -/
def State.saving (s : State) (ctx : Nat) : Bool := match s.ctx ctx with | some x => x.pstat = .saving | none => false

/-- ENGINE_LINE_RELEASE: the engine has finished with a line (04 R100). While its context is being saved it goes on to its unit alone (15 R318). -/
def execEngineLineRelease (op : Nat) (s : State) : Out :=
  match kFind op s.ops with
  | some o => (match o.kind with
    | .engine g => (match g.held with
      | k :: ks =>
        if g.written && !g.stopped && !(s.saving o.ctx && g.atUnit) then
          .next (State.wakeAll ((s.putEng op o { g with rel := g.rel + 1, held := match k.release with | some c => c :: ks | none => ks }).engDone op))
        else .next s
      | [] => .next s)
    | _ => .next s)
  | none => .next s

/-! ## Issue of engine instructions (12 R244 to R246) -/

/-- What an engine instruction plans once its operands have passed. -/
structure Plan where
  kind : EngK
  todo : List ERange
  total : Nat
  dstA : Nat
  srcA : Nat
  /-- a length, count or N of 0 -/
  empty : Bool := false
  /-- GATH and SCAT: bytes that the indices may reach from the address `off` on -/
  off : Nat := 0
  room : Nat := 0
  reached : Bool := true
  /-- the leader's generator after it drew a word (12 R255) -/
  rng : Option W32 := none
  msg : Option Msg := none

/-- An engine instruction. -/
structure EngI where
  u : Use
  ps : Bool
  seals : Bool := false
  /-- operands of the leader, for their poison -/
  ops : List (OW × Src)
  /-- kind, CODE, ARG0 and ARG1 of the first operand check that fails -/
  check : Iss → Nat → Option (Nat × Nat × Nat × Nat)
  /-- the segment checks: a reason and an offset, or the plan -/
  plan : Iss → Nat → Except (Nat × Nat) Plan

/-- The engine of an operation that a leader issues, but for its ticket and its message. -/
def Iss.engOf (x : Iss) (l : Nat) (p : Plan) : Eng :=
  { kind := p.kind, leader := l, suit := x.r.suit, pc := x.u.pos.pc, off := p.off, room := p.room, reached := p.reached, ticket := 0, todo := p.todo
    total := p.total, dstA := p.dstA, srcA := p.srcA }

/-- A checked operation takes its claim ticket from its die's counter (04 R101), and the message of a remote one is prepared. -/
def State.engTicket (s : State) (die : Nat) (g : Eng) (m : Option Msg) : State × Eng :=
  let t := kGet 0 die s.tickets
  let s1 := { s with tickets := kSet die (t + 1) s.tickets }
  let g1 := { g with ticket := 4 * t + die }
  match m with
  | some v => ({ s1 with nextMsg := s1.nextMsg + 1, msgs := kSet s1.nextMsg v s1.msgs }, { g1 with msg := some s1.nextMsg })
  | none => (s1, g1)

/-- What the instruction leaves behind once its operation has been put in place. -/
def Iss.engAfter (x : Iss) (i : EngI) (s : State) : State := (if i.seals then s.sealLanes x.h x.ex else s).advance x.r

/-- An operation for a leader whose operands have passed. -/
def Iss.engine (x : Iss) (i : EngI) (l : Nat) (p : Plan) : State :=
  let s0 := match p.rng with | some w => x.s.modLane x.h l (fun ln => { ln with rng := w }) | none => x.s
  x.engAfter i (if p.empty then s0.startOp x i.u.major i.ps [] .access true
    else
      let r := s0.engTicket x.r.die (x.engOf l p) p.msg
      r.1.startOp x i.u.major i.ps [x.laneOp l 1 .pending] (.engine r.2) false)

/-- An engine instruction at issue: one operation, with the operands of the leader. -/
def engIssueI (i : EngI) (s : State) : Out :=
  issue { i.u with peg := some i.ps, event := true, now := true } s (fun x =>
    match x.ex with
    | [] => (x.s.startOp x i.u.major i.ps [] .access true).advance x.r
    | l :: _ =>
      x.control (x.leaderBad i.ops)
        (match i.check x l with
         | some (k, c, a, b) => x.trap { i.u with peg := some i.ps } k c [l] a b
         | none =>
           match i.plan x l with
           | .error (r, a) => ((x.s.startOp x i.u.major i.ps [] .access true).advance x.r).haltLanes x [(l, r, a)]
           | .ok p => x.engine i l p))

/-- An endpoint of the leader: the segment check of a range, or where it lies. -/
def Iss.endpoint (x : Iss) (l : Nat) (sg : Seg) (rd wr : Bool) (off n : Nat) : Except (Nat × Nat) EAddr :=
  let d := x.s.laneDesc x.h l x.u.kern sg
  match segCheck sg d { rd := rd, wr := wr, pl := x.pl } off n with
  | .error r => .error (r, d.base + off)
  | .ok va => .ok { sp := match sg with | .sc => .sc | .tl => .tl | _ => .mem, addr := va }

/-- The first failing check of a list: whether it fails, CODE and ARG0. With a length, count or N of 0 the offsets are still checked for their alignment,
and no other operand is (DEDUCED from 12 R245, 23 R401; log 54). -/
def engOp (l : List (Bool × Nat × Nat)) : Option (Nat × Nat × Nat × Nat) := (l.find? (fun c => c.1)).map (fun c => (5, c.2.1, c.2.2, 0))

/-- Range 4 of the leader as numbers. -/
def Iss.range4 (x : Iss) (l c : Nat) : Nat × Nat × Nat × Nat :=
  let w (j : Nat) : Nat := (x.reg l (c + j)).1.toNat
  (w 0, w 1, w 2, w 3)

/-- Operands of an engine instruction with two offsets and a word. -/
def engUse (g : Grd) (major : Nat) (a b c : Src) : Use := useOf g major 0 .none [(2, a), (2, b), (1, c)]
def engUse4 (g : Grd) (major : Nat) (a b : Src) (c : Nat) : Use :=
  { useOf g major 0 .none [(2, a), (2, b)] with wins := srcWin 2 a ++ srcWin 2 b ++ rngWin c 4, keys := srcKeys 2 a ++ srcKeys 2 b ++ rngKeys c 4 }
def engOps (a b c : Src) : List (OW × Src) := [(.w64, a), (.w64, b), (.w32, c)]
def engOps4 (a b : Src) (c : Nat) : List (OW × Src) := [(.w64, a), (.w64, b), (.w32, .v c), (.w32, .v (c + 1)), (.w32, .v (c + 2)), (.w32, .v (c + 3))]

/-- A whole source range and a whole destination range. -/
def Iss.plan2 (x : Iss) (l : Nat) (dseg sseg : Seg) (rdDst : Bool) (a b nd ns : Nat) (kind : EAddr → EAddr → EngK) : Except (Nat × Nat) Plan :=
  match x.endpoint l sseg true false b ns, x.endpoint l dseg rdDst true a nd with
  | .error e, _ => .error e
  | .ok _, .error e => .error e
  | .ok src, .ok dst =>
    .ok { kind := kind src dst, todo := [{ at_ := src, len := ns, dst := false }, { at_ := dst, len := nd, dst := true }], total := nd
          dstA := dst.addr, srcA := src.addr, empty := decide (nd = 0) }

/-- CPY (12 R248). -/
def execCpy (g : Grd) (ps : Bool) (dseg sseg : Seg) (a b c : Src) (s : State) : Out :=
  engIssueI { u := engUse g 0x64 a b c, ps := ps, ops := engOps a b c
              check := fun x l =>
                let n := x.val .w32 l c
                engOp [(x.val .w64 l a % 16 ≠ 0, 0, x.val .w64 l a), (x.val .w64 l b % 16 ≠ 0, 1, x.val .w64 l b), (n % 16 ≠ 0, 2, n)]
              plan := fun x l =>
                let n := x.val .w32 l c
                x.plan2 l dseg sseg false (x.val .w64 l a) (x.val .w64 l b) n n (fun src dst => .copy src dst n) } s

/-- CPYW: a compressed image into the talon (12 R250). -/
def execCpyw (g : Grd) (ps : Bool) (sseg : Seg) (a b c : Src) (s : State) : Out :=
  engIssueI { u := engUse g 0x66 a b c, ps := ps, ops := engOps a b c
              check := fun x l =>
                let n := x.val .w32 l c
                let o := x.val .w64 l a
                engOp [(o % 16 ≠ 0, 0, o), (x.val .w64 l b % 16 ≠ 0, 1, x.val .w64 l b), (n % 16 ≠ 0 || (n ≠ 0 && decide (524288 < o + n)), 2, n)]
              plan := fun x l =>
                let n := x.val .w32 l c
                x.plan2 l .tl sseg false (x.val .w64 l a) (x.val .w64 l b) n n (fun src dst => .copy src dst n) } s

/-- Bytes from the first row to the end of the last. -/
def rowsSpan (row rows pitch : Nat) : Nat := if row = 0 ∨ rows = 0 then 0 else (rows - 1) * pitch + row

/-- CPY2: a two-dimensional block (12 R249). -/
def execCpy2 (g : Grd) (ps : Bool) (dseg sseg : Seg) (a b : Src) (c : Nat) (s : State) : Out :=
  engIssueI { u := engUse4 g 0x65 a b c, ps := ps, ops := engOps4 a b c
              check := fun x l =>
                let (r, n, p, q) := x.range4 l c
                let some_ := r ≠ 0 && n ≠ 0
                engOp [(x.val .w64 l a % 16 ≠ 0, 0, x.val .w64 l a), (x.val .w64 l b % 16 ≠ 0, 1, x.val .w64 l b)
                      , (some_ && (r % 16 ≠ 0 || decide (2 ^ 24 < r)), 2, c), (some_ && decide (65536 < n), 2, c + 1)
                      , (some_ && p % 16 ≠ 0, 2, c + 2), (some_ && (q % 16 ≠ 0 || (decide (q < r) && n ≠ 1)), 2, c + 3)]
              plan := fun x l =>
                let (r, n, p, q) := x.range4 l c
                match x.endpoint l sseg true false (x.val .w64 l b) (rowsSpan r n p), x.endpoint l dseg false true (x.val .w64 l a) (rowsSpan r n q) with
                | .error e, _ => .error e
                | .ok _, .error e => .error e
                | .ok src, .ok dst =>
                  .ok { kind := .copy2 src dst r n p q, total := r * n, dstA := dst.addr, srcA := src.addr, empty := r = 0 || n = 0
                        todo := (if p = 0 then [{ at_ := src, len := r, dst := false }]
                                 else (List.range n).map (fun i => { at_ := src.plus (i * p), len := r, dst := false }))
                          ++ (List.range n).map (fun i => { at_ := dst.plus (i * q), len := r, dst := true }) } } s

/-- GATH and SCAT but for their direction: `far` is the end that the indices address. -/
def gathScat (g : Grd) (major : Nat) (ps : Bool) (dseg sseg : Seg) (a b : Src) (c : Nat) (gath : Bool) (s : State) : Out :=
  engIssueI { u := engUse4 g major a b c, ps := ps, ops := engOps4 a b c
              check := fun x l =>
                let (i0, i1, n, e) := x.range4 l c
                engOp [(x.val .w64 l a % 16 ≠ 0, 0, x.val .w64 l a), (x.val .w64 l b % 16 ≠ 0, 1, x.val .w64 l b)
                      , (n ≠ 0 && (i0 + i1 * 2 ^ 32) % 4 ≠ 0, 2, c), (n ≠ 0 && decide (2 ^ 20 < n), 2, c + 2)
                      , (n ≠ 0 && (e % 16 ≠ 0 || decide (e < 16) || decide (65536 < e)), 2, c + 3)]
              plan := fun x l =>
                let (i0, i1, n, e) := x.range4 l c
                let oa := x.val .w64 l a
                let ob := x.val .w64 l b
                let far := if gath then x.s.laneDesc x.h l x.u.kern sseg else x.s.laneDesc x.h l x.u.kern dseg
                let fo := if gath then ob else oa
                match x.endpoint l sseg true false (i0 + i1 * 2 ^ 32) (4 * n), x.endpoint l sseg true false ob (if n = 0 then 0 else if gath then e else n * e)
                    , x.endpoint l dseg false true oa (if n = 0 then 0 else if gath then n * e else e) with
                | .ok idx, .ok src, .ok dst =>
                  .ok { kind := if gath then .gather src dst idx n e else .scatter src dst idx n e
                        todo := [{ at_ := idx, len := 4 * n, dst := false }], total := n * e, dstA := dst.addr, srcA := src.addr
                        empty := decide (n = 0), off := far.base + fo, room := minN (far.limit - fo) (2 ^ 57 - far.base - fo), reached := false }
                | .error r, _, _ => .error r
                | _, .error r, _ => .error r
                | _, _, .error r => .error r } s

/-- GATH (12 R253). -/
def execGath (g : Grd) (ps : Bool) (dseg sseg : Seg) (a b : Src) (c : Nat) (s : State) : Out := gathScat g 0x67 ps dseg sseg a b c true s

/-- SCAT (12 R253). -/
def execScat (g : Grd) (ps : Bool) (dseg sseg : Seg) (a b : Src) (c : Nat) (s : State) : Out := gathScat g 0x68 ps dseg sseg a b c false s

/-- The environment of an engine that rounds, and the leader's generator after the word it draws in RS mode (12 R255). -/
def Iss.engEnv (x : Iss) (r : Rnd) (l : Nat) (rounds : Bool) : FEnv × Option W32 :=
  let m := rndIn x.mode r
  let e : FEnv := { rnd := if rounds then m else .rne, daz := modeDaz x.mode, ftz := modeFtz x.mode, satf := modeSatf x.mode }
  if rounds && m = .rs then
    let w := nextRandom (x.lane l).rng
    ({ e with r0 := if w = 0#32 then 0x9E3779B9#32 else w }, some w)
  else (e, none)

/-- SRED: the source combined into the destination (12 R254). -/
def execSred (g : Grd) (ps : Bool) (dseg sseg : Seg) (bf mx : Bool) (r : Rnd) (a b c : Src) (s : State) : Out :=
  engIssueI { u := engUse g 0x69 a b c, ps := ps, seals := true, ops := engOps a b c
              check := fun x l =>
                let n := x.val .w32 l c
                engOp [(x.val .w64 l a % 16 ≠ 0, 0, x.val .w64 l a), (x.val .w64 l b % 16 ≠ 0, 1, x.val .w64 l b), (n % 16 ≠ 0, 2, n)]
              plan := fun x l =>
                let n := x.val .w32 l c
                let (e, w) := x.engEnv r l (!mx)
                (x.plan2 l dseg sseg true (x.val .w64 l a) (x.val .w64 l b) n n (fun src dst => .reduce src dst n bf mx e)).map (fun p =>
                  { p with rng := w }) } s

/-- SCVT: a region converted from one format to another (12 R256). F is not looked at when neither side is narrow (DESIGN CHOICE, log 28). -/
def execScvt (g : Grd) (ps : Bool) (dseg sseg : Seg) (dst src : CvtFmt) (f : Nat) (r : Rnd) (sat : Bool) (a b c : Src) (s : State) : Out :=
  engIssueI { u := engUse g 0x6a a b c, ps := ps, ops := engOps a b c
              check := fun x l =>
                let n := x.val .w32 l c
                match engOp [(x.val .w64 l a % 16 ≠ 0, 0, x.val .w64 l a), (x.val .w64 l b % 16 ≠ 0, 1, x.val .w64 l b)
                            , (n % 32 ≠ 0 || decide (2 ^ 28 < n), 2, n)] with
                | some t => some t
                | none => if (dst = .nar || src = .nar) && !nLegal (x.fmt f) then some (7, 0, x.fmt f, f) else none
              plan := fun x l =>
                let n := x.val .w32 l c
                let fm := x.fmt f
                let (e, w) := x.engEnv r l true
                (x.plan2 l dseg sseg false (x.val .w64 l a) (x.val .w64 l b) (cvtLen dst fm n) (cvtLen src fm n)
                  (fun sr de => .convert sr de n src dst (BitVec.ofNat 32 fm) sat e)).map (fun p => { p with rng := w }) } s

/-! ## Remote operations (12 R257, 17 R347, R348) -/

/-- What reading a peer-table entry gives a leader: the entry with its poison, or the failure of its translation. -/
inductive EntGot where
  | got (e : PeerEnt) (pois : Bool)
  /-- an engine operation has still to write the line -/
  | wait
  | fail (x : Xl)
deriving DecidableEq, Repr

/-- What reading an entry needs: the table lies in ep, and its rights alone are checked (log 29). -/
def entNeed : Need := { rd := true, wr := false, pl := 2 }

/-- An entry read as a load of policy 0 by the leader of a remote operation (17 R347, 24 R452): its item's lane is `l`. -/
def State.readEntry (s : State) (d : Ld) (l va : Nat) (t : FaultRec) : EntGot × State :=
  match s.translate d.h d.gen d.ctx entNeed va with
  | (.hit pa c rp lo, s1) =>
    let e : Ld := { d with pol := polIn .shared c, repl := rp }
    if s1.claimBars .mem d.h.cr (lineOf pa) false && (s1.copyFor d.h.cr (lineOf pa) e.pol rp (s1.ptsOf d.h d.gen d.late)).isNone then (.wait, s)
    else
      let (bs, secs, s2) := (s1.mark d.ctx pa lo).loadLine e pa 16
      let buf := (s.core d.h.cr).cbuf
      let ws := overlay buf false pa bs
      let p := overlayPois buf false pa 16 (!secs.isEmpty)
      let s3 := s2.consumed d.ctx secs { t with va := va }
      (.got { w0 := ofBytes (ws.take 8), w1 := ofBytes (ws.drop 8) } p, if p then s3.consume d.h l else s3)
  | (x, s1) => (.fail x, s1)

/-- Whether an entry is valid, with a right, and its port belongs to the context's partition. -/
def State.peerOk (s : State) (ctx right : Nat) (e : PeerEnt) : Bool :=
  bitN e.w0 63 && bitN e.w0 (60 + right) && bitN (kGet {} (s.ctxD ctx).part s.parts).ports (fld e.w0 59 57)

/-- The message that an entry addresses. -/
def peerMsg (ctx entry off : Nat) (e : PeerEnt) : Msg :=
  { op := 0, ctx := ctx, entry := entry, port := fld e.w0 59 57, seq := 0, pctx := fld e.w1 63 56, pwin := fld e.w1 55 48
    mac := fld e.w0 47 0, off := BitVec.ofNat 64 off, body := .get 0, segs := [] }

/-- A remote instruction: `rem` and `n` are the remote offset and its length, `right` the right it needs. -/
structure RemI where
  e : EngI
  peer : Nat
  right : Nat
  rem : Iss → Nat → Nat
  n : Iss → Nat → Nat

/-- What a peer-table entry says to a remote operation: an entry it may not use, a segment fault of the leader, or its message. -/
inductive RemGo where
  | bad
  | fault (reason va : Nat)
  | go (m : Option Msg)

/-- The checks of a remote operation against its entry, then the one of its local range (12 R257, 17 R348, 23 R401). -/
def State.remCheck (s : State) (ctx : Nat) (w : RemWait) (e : PeerEnt) : RemGo :=
  if !s.peerOk ctx w.right e then .bad
  else if w.len ≠ 0 && decide (e.w1 % 2 ^ 48 < w.rem + w.len) then .fault 1 w.rem
  else match w.bad with
    | some (r, a) => .fault r a
    | none => .go (if w.empty then none else some (peerMsg ctx w.peer w.rem e))

/-- A remote instruction at issue: the operand checks, the entry, then the window and the local range. When the leader's read of the entry faults
replayably, the access is parked and the operation waits for it (24 R409). -/
def remIssue (i : RemI) (s : State) : Out :=
  let u : Use := { i.e.u with peg := some i.e.ps, event := true, now := true }
  issue u s (fun x =>
    match x.ex with
    | [] => (x.s.startOp x u.major i.e.ps [] .access true).advance x.r
    | l :: _ =>
      let fault (t : State) (r a : Nat) : State := ((t.startOp x u.major i.e.ps [] .access true).advance x.r).haltLanes x [(l, r, a)]
      x.control (x.leaderBad i.e.ops)
        (match i.e.check x l with
         | some (k, c, a, b) => x.trap u k c [l] a b
         | none =>
           if x.s.reg x.ctx 0x171 ≤ i.peer then x.trap u 5 3 [l] i.peer 0
           else
             let off := x.s.reg x.ctx 0x170 + 16 * i.peer
             match segCheck .ep x.ks.ep entNeed off 16 with
             | .error r => fault x.s r (x.ks.ep.base + off)
             | .ok va =>
               let p : Plan := match i.e.plan x l with | .ok p => p | .error _ => { kind := .signal 0, todo := [], total := 0, dstA := 0, srcA := 0 }
               let w : RemWait := { peer := i.peer, va := va, right := i.right, rem := i.rem x l, len := i.n x l, empty := p.empty, pos := x.u.pos
                                    bad := match i.e.plan x l with | .error f => some f | .ok _ => none }
               let t : FaultRec := { kind := 1, req := 0, acc := 0, fdie := x.r.die, item := (x.item l).item, who := x.s.whoOf x.r x.u.kern }
               match x.s.readEntry { h := x.h, gen := x.hd.gen, ctx := x.ctx } l va t with
               | (.wait, _) => x.stall .issuePoint []
               | (.fail (.miss lv en), s1) =>
                 let a : Access := { kind := .load false, sc := false, addr := va, len := 16, pol := .shared, dst := [], pl := 2 }
                 x.engAfter i.e ((s1.replayable x.ctx va lv en t).startOp x u.major i.e.ps [x.laneOp l 1 (.parked a)] (.remote w (x.engOf l p)) false)
               | (.fail (.fatal r), s1) => fault s1 r va
               | (.fail (.hit _ _ _ _), s1) | (.fail .busy, s1) => s1
               | (.got e pz, s1) =>
                 if pz then s1.killLanes x.r 1 [l]
                 else match s1.remCheck x.ctx w e with
                   | .bad => { x with s := s1 }.trap u 5 3 [l] i.peer 0
                   | .fault r a => fault s1 r a
                   | .go m => { x with s := s1 }.engine i.e l { p with msg := m }))

/-- The trap of a remote operation whose entry, read after a replay, is not one it may use: nothing of it is left, and its peg counts it. A leader that is
still in its suit enters trap mode there; one that has left it repeats the instruction alone, and traps (DEDUCED, log 55). -/
def State.remTrap (s : State) (id : Nat) (o : Op) (w : RemWait) (g : Eng) : State :=
  let s1 := { s with ops := kErase id s.ops }.pegDone o.h o.peg id
  let l := g.leader
  if !s1.holds o o.lead then s1
  else
    match (s1.lane o.h l).st with
    | .active n =>
      (match (s1.hand o.h).suit n with
       | some u => s1.trapEntry (o.h.sr n) 5 3 [l] ((s1.hand o.h).active n) u.pos w.peer 0
       | none => s1)
    | _ => s1.modLane o.h l (fun ln => { ln with st := .heldReady, pos := w.pos })

/-- A remote operation reads its entry again, once a replay-all has made it try. -/
def State.tryRemote (s : State) (id : Nat) : State :=
  match kFind id s.ops with
  | none => s
  | some o =>
    match o.kind, o.lanes.head? with
    | .remote w g, some lo =>
      if lo.st ≠ .pending then s
      else
        let t : FaultRec := { kind := 1, req := 0, acc := 0, fdie := o.h.die, item := lo.item, who := s.engWho o g }
        match s.readEntry { h := o.h, gen := o.gen, late := o.pts, ctx := o.ctx } g.leader w.va t with
        | (.wait, _) => s
        | (.fail (.miss lv en), s1) =>
          let a : Access := { kind := .load false, sc := false, addr := w.va, len := 16, pol := .shared, dst := [], pl := 2 }
          let s2 := s1.replayable o.ctx w.va lv en t
          { s2 with ops := kSet id { o with lanes := o.lanes.map (fun (x : LaneOp) => { x with st := LaneOpSt.parked a }) } s2.ops }
        | (.fail (.fatal r), s1) => s1.engFatal id o g r w.va
        | (.fail (.hit _ _ _ _), s1) | (.fail .busy, s1) => s1
        | (.got e pz, s1) =>
          if pz then s1.killIn o.ctx o.h lo.kern (lo.item / (s1.kernD o.ctx lo.kern).lrec.fan1) 1 [g.leader] lo.item (s1.engWho o g)
          else match s1.remCheck o.ctx w e with
            | .bad => s1.remTrap id o w g
            | .fault r a => s1.engFatal id o g r a
            | .go none => { s1 with ops := kSet id { o with kind := .access, lanes := o.lanes.map (fun (x : LaneOp) => x.arrive []) } s1.ops }.unhold o.h g.leader
            | .go (some m) =>
              let r := s1.engTicket o.h.die g (some m)
              (r.1.putEng id o r.2).unhold o.h g.leader
    | _, _ => s

/-- A parked read of a peer-table entry tries again after a replay-all. -/
def State.retryRemote (s : State) (id : Nat) : State :=
  match kFind id s.ops with
  | some o => (match o.kind with
    | .remote _ _ =>
      { s with ops := kSet id { o with lanes := o.lanes.map (fun (x : LaneOp) => match x.st with | .parked _ => { x with st := LaneOpSt.pending } | _ => x) } s.ops }.tryRemote id
    | _ => s)
  | none => s

/-- OP_COMPLETION: a counted operation completes in its arrived lanes (06 R153); a LAUNCH, a DEAL or the entry of a remote operation that waited for
engine claims is tried again. -/
def execOpCompletion (op : Nat) (s : State) : Out :=
  match kFind op s.ops with
  | some o => .next (if o.gen = swappedGen then s else if o.arrived then s.complete op o else if s.orphan op o then s.complete op o.allIn else (s.tryWork op).tryRemote op)
  | none => .next s

/-- RPUT: one message of local bytes (12 R257). -/
def execRput (g : Grd) (ps : Bool) (sseg : Seg) (peer : Nat) (a b c : Src) (s : State) : Out :=
  remIssue { peer := peer, right := 0, rem := fun x l => x.val .w64 l a, n := fun x l => x.val .w32 l c
             e := { u := engUse g 0x6b a b c, ps := ps, seals := true, ops := engOps a b c
                    check := fun x l =>
                      let n := x.val .w32 l c
                      engOp [(x.val .w64 l b % 16 ≠ 0, 1, x.val .w64 l b), (n % 16 ≠ 0 || decide (2 ^ 20 < n), 2, n)]
                    plan := fun x l =>
                      let n := x.val .w32 l c
                      (x.endpoint l sseg true false (x.val .w64 l b) n).map (fun src =>
                        { kind := .put src n, todo := [{ at_ := src, len := n, dst := false }], total := n, dstA := x.val .w64 l a, srcA := src.addr, empty := decide (n = 0) }) } } s

/-- RGET: bytes of the peer into a local range (12 R257). -/
def execRget (g : Grd) (ps : Bool) (dseg : Seg) (peer : Nat) (a b c : Src) (s : State) : Out :=
  remIssue { peer := peer, right := 1, rem := fun x l => x.val .w64 l b, n := fun x l => x.val .w32 l c
             e := { u := engUse g 0x6c a b c, ps := ps, seals := true, ops := engOps a b c
                    check := fun x l =>
                      let n := x.val .w32 l c
                      engOp [(x.val .w64 l a % 16 ≠ 0, 0, x.val .w64 l a), (n % 16 ≠ 0 || decide (2 ^ 20 < n), 2, n)]
                    plan := fun x l =>
                      let n := x.val .w32 l c
                      (x.endpoint l dseg false true (x.val .w64 l a) n).map (fun dst =>
                        { kind := .get dst n, todo := [{ at_ := dst, len := n, dst := true }], total := n, dstA := dst.addr, srcA := x.val .w64 l b, empty := decide (n = 0) }) } } s

/-- RSIG: an addition to the peer's event word (12 R257). -/
def execRsig (g : Grd) (ps : Bool) (peer : Nat) (a b : Src) (s : State) : Out :=
  remIssue { peer := peer, right := 2, rem := fun x l => x.val .w64 l a, n := fun _ _ => 8
             e := { u := useOf g 0x6d 0 .none [(2, a), (2, b)], ps := ps, seals := true, ops := [(.w64, a), (.w64, b)]
                    check := fun x l => engOp [(x.val .w64 l a % 8 ≠ 0, 0, x.val .w64 l a)]
                    plan := fun x l => .ok { kind := .signal (BitVec.ofNat 64 (x.val .w64 l b)), todo := [], total := 8, dstA := x.val .w64 l a, srcA := 0 } } } s

/-! ## What comes back (12 Table 12.7, 24 R417) -/

/-- The message of an operation is gone, and the operation goes on. -/
def State.msgGone (s : State) (m : Nat) (f : Eng → Eng) : State :=
  match kFind m s.msgs with
  | none => s
  | some x =>
    let s1 := { s with msgs := kErase m s.msgs }
    match kFind x.op s1.ops with
    | some o => (match o.kind with
      | .engine g => State.wakeAll ((s1.putEng x.op o (f { g with msg := none })).engDone x.op)
      | _ => s1)
    | none => s1

/-- Whether a message has been sent: its operation has issued. -/
def State.msgSent (s : State) (m : Nat) : Bool :=
  match (kFind m s.msgs).bind (fun x => kFind x.op s.ops) with
  | some o => (match o.kind with | .engine g => g.issued && g.msg = some m | _ => false)
  | none => false

def isGet : PeerOp → Bool
  | .get _ => true
  | _ => false

/-- PEER_ACK: the peer acknowledges that a put or signal has taken effect. -/
def execPeerAck (msg : Nat) (s : State) : Out :=
  match kFind msg s.msgs with
  | some m => .next (if s.msgSent msg && !isGet m.body then s.msgGone msg id else s)
  | none => .next s

/-- The local address of a remote operation: the source of a put, the destination of a get; for a signal the remote offset (DESIGN CHOICE, log 56). -/
def Eng.localVa (g : Eng) : Nat := match g.kind with | .put a _ => a.addr | .get a _ => a.addr | _ => g.dstA

/-- A remote operation refused or lost: it has no effect, its claims go, CX.RFAIL and a REMOTE record say so. -/
def State.remoteFail (s : State) (msg reason : Nat) : State :=
  match kFind msg s.msgs with
  | none => s
  | some m =>
    let t : FaultRec := { kind := 4, req := 2, acc := if isGet m.body then 0 else 1, arg := reason * 65536 + m.entry }
    let t1 : FaultRec := match kFind m.op s.ops with
      | some o => (match o.kind with
        | .engine g => { t with item := o.lead.item, who := s.engWho o g, fdie := o.h.die, va := g.localVa }
        | _ => t)
      | none => t
    let s1 := s.msgGone msg (fun g => if isGet m.body then { g with held := [] } else g)
    ((s1.bump m.ctx 0x19C 1).faultRecord m.ctx t1).1

/-- PEER_REFUSAL: the peer refuses the operation, for reason 1 to 4. -/
def execPeerRefusal (msg reason : Nat) (s : State) : Out :=
  .next (if s.msgSent msg && decide (1 ≤ reason) && decide (reason ≤ 4) then s.remoteFail msg reason else s)

/-- SEGMENT_RETRANSMISSION: a segment without acknowledgement is sent again, up to 8 times in all (17 R348). -/
def execSegmentRetransmission (msg seg : Nat) (s : State) : Out :=
  match kFind msg s.msgs with
  | some m =>
    (match kFind seg m.segs with
     | some n => .next (if s.msgSent msg && decide (n < 8) then { s with msgs := kSet msg { m with segs := kSet seg (n + 1) m.segs } s.msgs } else s)
     | none => .next s)
  | none => .next s

/-- LINK_LOSS: a segment unacknowledged after 8 transmissions. -/
def execLinkLoss (msg : Nat) (s : State) : Out :=
  match kFind msg s.msgs with
  | some m => .next (if s.msgSent msg && m.segs.any (fun e => decide (8 ≤ e.2)) then s.remoteFail msg 5 else s)
  | none => .next s

/-- Data with one poison mark per 16 bytes. -/
def withMarks (data : List Byte) (ms : List Bool) : PBytes := data.mapIdx (fun i b => (b, ms.getD (i / 16) false))

/-- RGET_DATA_RETURN: the peer's data is written to the local destination. -/
def execRgetDataReturn (msg : Nat) (data : List Byte) (pois : List Bool) (s : State) : Out :=
  match (kFind msg s.msgs).bind (fun m => (kFind m.op s.ops).map (fun o => (m, o))) with
  | some (m, o) => (match o.kind with
    | .engine g => (match g.kind with
      | .get dst len =>
        if s.msgSent msg && data.length = len then
          let s1 := s.eWrite o g g.pt dst (withMarks data pois)
          .next ((s1.msgGone msg id).endAt m.ctx o.kern g.pt)
        else .next s
      | _ => .next s)
    | _ => .next s)
  | none => .next s

/-! ## Messages from peers (12 R257, R258, 24 R416) -/

/-- The key of the order in which a sender's messages apply: its local context and peer entry (17 R348). -/
def msgKey (m : PeerMsg) : Nat × Nat × Nat × Nat := (m.port, m.sender, m.sctx, m.entry)

def seqOf (l : List ((Nat × Nat × Nat × Nat) × Nat)) (k : Nat × Nat × Nat × Nat) : Nat := ((l.find? (fun e => e.1 = k)).map Prod.snd).getD 0

/-- The inbound window entry of a message, read as the port's agent reads it: its translation, or the entry with its poison, the logical time and the state
after (log 29). -/
def State.winEntry (s : State) (m : PeerMsg) : Except DevErr (PeerEnt × DevGot) :=
  let x := s.ctxD m.ctx
  let off := s.reg m.ctx 0x172 + 16 * m.win
  match segCheck .ep (x.slot 0) entNeed off 16 with
  | .error r => .error (0, (x.slot 0).base + off, .fatal r)
  | .ok va => (s.runRead entNeed m.ctx 4 (kGet 0 m.port s.portPts) va 16).map (fun r =>
      ({ w0 := ofBytes (r.2.bytes.take 8), w1 := ofBytes (r.2.bytes.drop 8) },
       { r.2 with s := r.2.s.consumedAt m.ctx (s.badSecs va r.1) { kind := 0, req := 4, fdie := 4, who := m.port * 2 ^ 48 + m.sender % 2 ^ 48 } }))

/-- Length and right of a message. -/
def msgLen (m : PeerMsg) : Nat := match m.op with | .put d _ => d.length | .get n => n | .sig _ => 8
def msgRight (m : PeerMsg) : Nat := match m.op with | .put _ _ => 0 | .get _ => 1 | .sig _ => 2

/-- A refusal, with the DROP record that the receiving context writes of its own faults. -/
def State.refuseMsg (s : State) (m : PeerMsg) (reason : Nat) (va : Nat) : State :=
  let r : Reply := { port := m.port, sender := m.sender, seq := m.seq, st := reason, data := [], pois := [] }
  let s1 := { s with replies := s.replies ++ [r] }
  if reason = 3 then s1
  else (s1.faultRecord m.ctx { kind := 5, req := 4, acc := match m.op with | .get _ => 0 | .put _ _ => 1 | .sig _ => 2, va := va, fdie := 4
                               who := m.port * 2 ^ 48 + m.sender % 2 ^ 48 }).1

/-- Whether an engine claim bars a message, which then waits. -/
def State.msgBarred (s : State) (m : PeerMsg) (ps : List (Nat × Nat × Nat × Nat)) : Bool :=
  ps.any (fun p => (spanOf 64 p.1 p.2.1).any (fun l => s.claimBars .mem { die := 0, core := 0 } l (msgRight m ≠ 1)))

/-- Bytes with their own poison marks written at their homes at a logical time. -/
def State.putMarked (s : State) (ctx w : Nat) : List (Nat × Nat × Nat × Nat) → PBytes → State
  | [], _ => s
  | (pa, n, repl, _) :: ps, bs =>
    ((cut64 (n / 64 + 2) pa (bs.take n)).foldl (fun a c => a.eLine w c.1 c.2 { ctx := ctx, die := 4, repl := repl } false) s).putMarked ctx w ps (bs.drop n)

/-- The logical time of a port's agent, raised (12 R258). -/
def State.portTime (s : State) (port p : Nat) : State := { s with portPts := kSet port (maxN p (kGet 0 port s.portPts)) s.portPts }

/-- A message that has passed its window's checks, whose range has the pieces `ps` from address va on, takes effect no earlier than a logical time: as one
event, whose time its port keeps. -/
def State.msgEffect (s : State) (m : PeerMsg) (ps : List (Nat × Nat × Nat × Nat)) (va pts : Nat) : State :=
  let ok (t : State) (data : List Byte) (pz : List Bool) : State :=
    { t with replies := t.replies ++ [{ port := m.port, sender := m.sender, seq := m.seq, st := 0, data := data, pois := pz }] }
  match m.op with
  | .put d pz =>
    let w := s.writeTime pts (ps.flatMap (fun q => spanOf 64 q.1 q.2.1))
    ok ((s.putMarked m.ctx w ps (withMarks d pz)).portTime m.port w) [] []
  | .get _ =>
    let p := ps.foldl (fun v q => maxN v (s.wtsOf q.1 q.2.1)) pts
    let bs := ps.flatMap (fun q => secBytes (fun a n => s.memRead a n) s.secPois q.1 q.2.1)
    let t := ps.foldl (fun a q => a.homeReads q.1 q.2.1 { ctx := m.ctx, die := 4, repl := q.2.2.1 } p) s
    ok ((t.consumedAt m.ctx (s.badSecs va ps) { kind := 0, req := 4, fdie := 4, who := m.port * 2 ^ 48 + m.sender % 2 ^ 48 }).portTime m.port p) (bs.map Prod.fst) (marks bs)
  | .sig a =>
    match ps with
    | (pa, _, rp, _) :: _ =>
      let r := s.eventAdd pts pa a.toNat false { ctx := m.ctx, die := 4, repl := rp }
      ok (r.1.portTime m.port r.2) [] []
    | [] => ok s [] []

/-- One message applied as one event; none when it waits for a claim. A window whose entry reads as poisoned is not valid (DEDUCED, log 29). -/
def State.applyMsg (s : State) (m : PeerMsg) : Option State :=
  match s.ctx m.ctx with
  | none => some (s.refuseMsg m 3 0)
  | some x =>
    if x.state ≠ 1 then some (s.refuseMsg m 3 0)
    else if !bitN (kGet {} x.part s.parts).ports m.port ∨ s.reg m.ctx 0x173 ≤ m.win then some (s.refuseMsg m 1 0)
    else
      match s.winEntry m with
      | .error (_, _, .busy) => none
      | .error e => some (s.refuseMsg m 4 e.2.1)
      | .ok (e, g) =>
        let va := e.w0 % 2 ^ 57 + m.off.toNat
        let n := msgLen m
        let pages := pagesOf (n / 65536 + 2) va n
        if g.pois || !(bitN e.w0 63 && bitN e.w0 (60 + msgRight m)) then some (g.s.refuseMsg m 1 va)
        else if e.w1 % 2 ^ 48 < m.off.toNat + n then some (g.s.refuseMsg m 2 va)
        else
          let nd : Need := { rd := msgRight m ≠ 0, wr := msgRight m ≠ 1, pl := 2 }
          match g.s.xlateRun m.ctx nd pages with
          | .error (a, _) => some (g.s.refuseMsg m 4 a)
          | .ok ps =>
            if s.msgBarred m ps then none
            else
              let p := g.s.runTime m.ctx g.at_ pages
              some ((g.s.runWalked m.ctx 4 p pages ps).msgEffect m ps va p)

/-- The message of a key that is due: the lowest that has come, when none before it is missing but those that the link has lost. -/
def State.msgDue (s : State) : Option PeerMsg :=
  s.inbox.find? (fun m =>
    let mine := s.inbox.filter (fun q => msgKey q = msgKey m)
    mine.all (fun q => decide (m.seq ≤ q.seq)) && (m.seq = seqOf s.inSeq (msgKey m) || mine.any (fun q => decide (m.seq ≤ q.floor))))

/-- Messages that are due are applied in order. -/
def State.drainInbox (s : State) : Nat → State
  | 0 => s
  | n + 1 =>
    match s.msgDue with
    | none => s
    | some m =>
      match s.applyMsg m with
      | none => s
      | some t =>
        { t with inbox := t.inbox.filter (fun q => q ≠ m)
                 inSeq := (t.inSeq.filter (fun (e : (Nat × Nat × Nat × Nat) × Nat) => e.1 ≠ msgKey m)) ++ [((msgKey m), m.seq + 1)] }.drainInbox n

/-- PEER_MESSAGE_APPLY: a message whose every segment has arrived; it applies in the order of its sequence number (17 R348). One whose number has been
passed has been applied. -/
def execPeerMessageApply (m : PeerMsg) (s : State) : Out :=
  let s1 := if m.seq < seqOf s.inSeq (msgKey m) ∨ s.inbox.contains m then s else { s with inbox := s.inbox ++ [m] }
  .next (s1.drainInbox (s1.inbox.length + 1))

end Sys2Proof.Machine
end

