-- ==== Sys2Proof/Machine/Matrix.lean ====
section
/-! DEFINITION. Sys2Proof/Machine/Matrix.lean: the matrix array: images in the talon, the exact accumulator with its checksums, the
seven matrix instructions, and the start of a team (13, 05 R126 to R131, 12 R250, R251, 23 R402). -/

namespace Sys2Proof.Machine

/-! ## The accumulator (05 R128, R129, 13 R272, R273) -/

/-- The terms of one accumulator: their exact sum times 2^64, and whether a NaN, +∞ or −∞ flag is set. -/
structure Dot where
  sum : Int := 0
  nan : Bool := false
  pinf : Bool := false
  ninf : Bool := false
deriving DecidableEq, Repr

/-- One term (05 R129): the product of two scaled elements. -/
def Dot.term (d : Dot) (a b : FV) : Dot :=
  match FV.mul a b with
  | .nan => { d with nan := true }
  | .inf s => if s then { d with ninf := true } else { d with pinf := true }
  | .fin s n m => { d with sum := d.sum + sgnd s (n * 2 ^ 64 / m) }

/-- Every term of a row and a column. -/
def dotOf (r c : List FV) : Dot := (r.zip c).foldl (fun d p => d.term p.1 p.2) {}

def accKey (i j : Nat) : Nat := 64 * i + j

/-- A 192-bit word with an integer added, modulo 2^192. -/
def acc192 (k : Nat) (x : Int) (m : KMap (BitVec 192)) : KMap (BitVec 192) := kPut 0 k (kGet 0 k m + BitVec.ofInt 192 x) m

/-- The terms of acc[i][j] added to it and to both checksums; terms that set a flag add to neither. -/
def Slot.add (sl : Slot) (i j : Nat) (d : Dot) : Slot :=
  let k := accKey i j
  { sl with
    acc := acc192 k d.sum sl.acc, cr := acc192 j d.sum sl.cr, cc := acc192 i d.sum sl.cc
    nan := if d.nan then insN k sl.nan else sl.nan
    pinf := if d.pinf then insN k sl.pinf else sl.pinf
    ninf := if d.ninf then insN k sl.ninf else sl.ninf }

/-- Sum of the accumulators that a test on their keys picks. -/
def accSum (p : Nat → Bool) (m : KMap (BitVec 192)) : BitVec 192 := m.foldl (fun a e => if p e.1 then a + e.2 else a) 0

/-- The compare of R273: the slot after it, with its outcome in CSTAT. -/
def Slot.compare (sl : Slot) : Slot :=
  let rd (i : Nat) : BitVec 192 := accSum (fun k => k / 64 = i) sl.acc - kGet 0 i sl.cc
  let cd (j : Nat) : BitVec 192 := accSum (fun k => k % 64 = j) sl.acc - kGet 0 j sl.cr
  let rs := (List.range 32).filter (fun i => rd i ≠ 0)
  let cs := (List.range 64).filter (fun j => cd j ≠ 0)
  match rs, cs with
  | [], [] => { sl with cstat := 0 }
  | [i], [j] =>
    if rd i = cd j then { sl with acc := kPut 0 (accKey i j) (kGet 0 (accKey i j) sl.acc - rd i) sl.acc, cstat := 1 }
    else { sl with pois := true, cstat := 3 }
  | [i], [] => { sl with cc := kPut 0 i (kGet 0 i sl.cc + rd i) sl.cc, cstat := 2 }
  | [], [j] => { sl with cr := kPut 0 j (kGet 0 j sl.cr + cd j) sl.cr, cstat := 2 }
  | _, _ => { sl with pois := true, cstat := 3 }

def State.slot (s : State) (c : CoreRef) (n : Nat) : Slot := kGet {} n (s.core c).pot
def State.setSlot (s : State) (c : CoreRef) (n : Nat) (sl : Slot) : State := s.modCore c (fun x => { x with pot := kPut {} n sl x.pot })

/-- A compare of a slot of a core, with its device error record (24 R426). -/
def State.compare (s : State) (c : CoreRef) (n : Nat) : State :=
  let sl := (s.slot c n).compare
  let s1 := s.setSlot c n sl
  if sl.cstat = 0 then s1 else s1.devErr (if sl.cstat = 3 then 1 else 0) 2 (s.locCore c 6)

/-! ## Elements (05 R119, R124, R126, R127) -/

/-- The value of an element with its block scale. -/
def elemVal (fm code sb : Nat) : FV :=
  if nScale fm = 0 then nValue fm code
  else
    let sc := scaleValue fm sb
    if sc.isZero then FV.zero else if sc.isNan then FV.nan else FV.mul (nValue fm code) sc

/-- Words as one number, lowest first. -/
def ofWords : List W32 → Nat
  | [] => 0
  | w :: ws => w.toNat + 2 ^ 32 * ofWords ws

/-- Registers of a row of k elements. -/
def rowRegs (fm k : Nat) : Nat := k * nWidth fm / 32

/-- Registers of the scale bytes of a row of k elements (13 R268). -/
def scaleRegs (fm k : Nat) : Nat := if nScale fm = 0 then 0 else (k / blockLen fm + 3) / 4

/-- The planes of a row as numbers: width, offset in the code, and the bits of the plane. -/
def rowPlanes (k : Nat) : List (Nat × Nat) → List W32 → List (Nat × Nat × Nat)
  | [], _ => []
  | (p, off) :: ps, ws => (p, off, ofWords (ws.take (k * p / 32))) :: rowPlanes k ps (ws.drop (k * p / 32))

/-- Element t of planes. -/
def planeCode (ps : List (Nat × Nat × Nat)) (t : Nat) : Nat :=
  ps.foldl (fun a p => a + p.2.2 / 2 ^ (p.1 * t) % 2 ^ p.1 * 2 ^ p.2.1) 0

/-- The values of a row of A, from its registers and scale registers. -/
def rowVals (fm k : Nat) (ws sc : List W32) : List FV :=
  let ps := rowPlanes k (planesOf (nWidth fm)) ws
  let sb := ofWords sc
  (List.range k).map (fun t => elemVal fm (planeCode ps t) (sb / 2 ^ (8 * (t / blockLen fm)) % 256))

/-! ## Compressed images (12 R251) -/

/-- A word of a talon. -/
def Core.tlWord (c : Core) (a : Nat) : Nat := ofBytes (c.tlRead a 4)

/-- Words of the runs of a group with n stored elements of width w. -/
def runWords (w n : Nat) : Nat := (planesOf w).foldl (fun a p => a + (n * p.1 + 31) / 32) 0

/-- The end of n groups from a position on; none when one ends beyond the limit. -/
def Core.groupsEnd (c : Core) (w lim : Nat) : Nat → Nat → Option Nat
  | 0, pos => some pos
  | n + 1, pos =>
    if lim < pos + 4 then none
    else
      let e := pos + 4 + 4 * runWords w (bitList 32 (c.tlWord pos)).length
      if lim < e then none else c.groupsEnd w lim n e

/-- Planes of a group's runs. -/
def Core.groupPlanes (c : Core) (n : Nat) : List (Nat × Nat) → Nat → List (Nat × Nat × Nat)
  | [], _ => []
  | (p, off) :: ps, pos =>
    let m := 4 * ((n * p + 31) / 32)
    (p, off, ofBytes (c.tlRead pos m)) :: c.groupPlanes n ps (pos + m)

/-- The 32 codes of the group at a position, and where the next one lies. -/
def Core.group (c : Core) (w pos : Nat) : List Nat × Nat :=
  let es := bitList 32 (c.tlWord pos)
  let ps := c.groupPlanes es.length (planesOf w) (pos + 4)
  ((List.range 32).map (fun e => if es.contains e then planeCode ps (es.idxOf e) else 0), pos + 4 + 4 * runWords w es.length)

/-- The codes of n groups. -/
def Core.groups (c : Core) (w : Nat) : Nat → Nat → List (List Nat)
  | 0, _ => []
  | n + 1, pos => let g := c.group w pos; g.1 :: c.groups w n g.2

/-- Columns 0 to 63 of an image whose checks have passed. -/
def Core.columns (c : Core) (fm k o : Nat) : List (List FV) :=
  let gs := c.groups (nWidth fm) (k / 32 * 64) (o + 16)
  let h2 := c.tlWord (o + 8)
  (List.range 64).map (fun j =>
    ((List.range (k / 32)).flatMap (fun g => gs.getD (64 * g + j) [])).mapIdx (fun t code =>
      elemVal fm code (if nScale fm = 0 then 0 else ((c.tlRead (o + h2 + 64 * (t / blockLen fm) + j) 1).getD 0 0).toNat)))

/-- Whether a talon sector that an image's reading touches is poisoned. -/
def Core.imagePois (c : Core) (fm k o : Nat) : Bool :=
  let e := (c.groupsEnd (nWidth fm) (o + c.tlWord (o + 4)) (k / 32 * 64) (o + 16)).getD (o + 16)
  c.tlPois o (e - o) || (nScale fm ≠ 0 && c.tlPois (o + c.tlWord (o + 8)) (64 * (k / blockLen fm)))

/-! ## Who may use the array (13 R266, 23 R402) -/

/-- Checks 1 to 4: the first that fails. -/
def Iss.matBad (x : Iss) (whole : Bool) (tile : Nat) (team : Bool) : Option Nat :=
  if x.hd.st ≠ .dealt || !x.kern.lrec.hdeal then some 1
  else if whole && (x.act.length ≠ 32 || x.act.any (fun l => (x.item l).table ≠ (x.item 0).table)) then some 2
  else if x.kern.lrec.tiles ≤ tile || x.hd.tiles.length ≤ tile then some 3
  else if team && decide (x.kern.lrec.team < 2) then some 4
  else none

/-- The pot slot that TILE names. -/
def Iss.tile (x : Iss) (t : Nat) : Nat := x.hd.tiles.getD t 0

def Iss.matTrap (x : Iss) (u : Use) (code off : Nat) : State := x.trap u 6 code x.ex off 0

/-- Whether an engine has still to write talon bytes that it was given to write before (12 R250). -/
def State.tlBusy (s : State) (c : CoreRef) (a n : Nat) : Bool :=
  s.ops.any (fun e => decide (e.2.h.cr = c) && (match e.2.kind with
    | .engine g => !g.written && (g.todo.any (fun r => r.dst && r.at_.sp = .tl && overlaps r.at_.addr r.len a n)
        || g.held.any (fun k => k.dst && k.at_.sp = .tl && overlaps k.at_.addr k.len a n))
    | _ => false))

/-! ## MMA and MMAG (13 R268 to R274) -/

/-- What the checks of an MMA or MMAG come to. -/
inductive MmaGo where
  | trap (code off : Nat)
  /-- bytes of the talon, or of the group table, are still to be written -/
  | busy
  /-- a segment fault of the leader: reason and address -/
  | stop (reason va : Nat)
  /-- the groups, whether an operand is poisoned, the words that a team compares, and the talon bytes to be read -/
  | go (groups : List RowGrp) (pois : Bool) (words : List Nat) (reads : List (Nat × Nat))

def MmaI.k (i : MmaI) : Nat := 32 * (i.m.km1 + 1)

/-- Groups of a table of ten words, those with rows. -/
def tableGroups (tw : List Nat) : List RowGrp :=
  let n (g : Nat) : Nat := tw.getD (g / 4) 0 / 2 ^ (8 * (g % 4)) % 256
  ((List.range 8).filter (fun g => n g ≠ 0)).map (fun g =>
    { g := g, first := ((List.range g).map n).foldl (· + ·) 0, n := n g, off := tw.getD (2 + g) 0 })

/-- Checks 9 to 13 of the image of one group, K and width being those of the first. -/
def Core.imageBad (c : Core) (fb k : Nat) (first : Nat) (r : RowGrp) : List (Nat × Nat × Nat) :=
  let h0 := c.tlWord r.off
  let h1 := c.tlWord (r.off + 4)
  let w := fld h0 23 16
  let f0 := c.tlWord first
  ([(9, decide (h0 % 65536 ≠ k) || decide (fld h0 23 0 ≠ fld f0 23 0)), (10, decide (w ≠ nWidth fb)),
    (11, decide (c.tlWord (r.off + 8) ≠ 0) != decide (nScale fb ≠ 0)), (12, decide (524288 < r.off + h1)),
    (13, w = nWidth fb && (c.groupsEnd w (r.off + h1) (k / 32 * 64) (r.off + 16)).isNone)].filter (fun p => p.2)).map (fun p => (p.1, r.g, r.off))

/-- The failing check that comes first in Table 23.7, and among equals the lowest group's. -/
def firstBad (l : List (Nat × Nat × Nat)) : Option (Nat × Nat) := (leastBy (fun p => 8 * p.1 + p.2.1) l).map (fun p => (p.1, p.2.2))

/-- The leader: the lowest executing lane (12 R244). -/
def Iss.leader (x : Iss) : Nat := x.ex.headD 0

/-- The group table of an MMAG: ten words and their poison, or why it cannot be read. -/
def Iss.groupTable (x : Iss) (i : MmaI) : Except MmaGo (List Nat × Bool) :=
  if !i.gsrc then .ok ((List.range 10).map (fun q => x.val .w32 x.leader (match i.b with | .k n => .k (n + q) | b => b)), false)
  else
    let off := x.val .w32 x.leader i.b
    let d := x.s.laneDesc x.h x.leader x.u.kern .sc
    match segCheck .sc d { rd := true, wr := false, pl := x.pl } off 40 with
    | .error r => .error (.stop r (d.base + off))
    | .ok va =>
      if (spanOf 64 va 40).any (fun u => x.s.claimBars .sc x.h.cr u false) then .error .busy
      else
        let r := (x.s.core x.h.cr).scRead va 40
        .ok ((List.range 10).map (fun q => ofBytes ((r.1.drop (4 * q)).take 4)), r.2)

/-- Checks 7 to 13 of the groups: an image is looked at once its bytes are there. -/
def Iss.images (x : Iss) (fb k : Nat) (sumBad : Bool) (gs : List RowGrp) (pois : Bool) (words : List Nat) : MmaGo :=
  let c := x.s.core x.h.cr
  match firstBad (((gs.filter (fun r => r.off % 16 ≠ 0)).map (fun r => (7, r.g, r.off))) ++ (if sumBad then [(8, 0, 0)] else [])) with
  | some (code, off) => .trap code off
  | none =>
    if gs.any (fun r => x.s.tlBusy x.h.cr r.off 16 || x.s.tlBusy x.h.cr r.off (c.tlWord (r.off + 4))) then .busy
    else
      match firstBad (gs.flatMap (c.imageBad fb k ((gs.head?.map RowGrp.off).getD 0))) with
      | some (code, off) => .trap code off
      | none => .go gs pois words (gs.map (fun r => (r.off, c.tlWord (r.off + 4))))

/-- Every check of an MMA or MMAG, in the order of Table 23.7. -/
def Iss.mmaGo (x : Iss) (i : MmaI) : MmaGo :=
  let fa := x.fmt i.m.fa
  let fb := x.fmt i.m.fb
  match x.matBad true i.m.tile i.m.team with
  | some c => .trap c 0
  | none =>
    if !nLegal fa || !nLegal fb then .trap 5 0
    else if decide (x.seat < i.a + rowRegs fa i.k) || (decide (nScale fa = 0) == i.c.isSome)
        || (match i.c with | some c => decide (x.seat < c + scaleRegs fa i.k) | none => false) then .trap 6 0
    else if !i.mmag then
      x.images fb i.k false [{ g := 0, first := 0, n := 32, off := x.val .w32 x.leader i.b }] (x.pois .w32 x.leader i.b) [x.val .w32 x.leader i.b]
    else if i.gsrc && x.val .w32 x.leader i.b % 16 ≠ 0 then .trap 7 (x.val .w32 x.leader i.b)
    else
      match x.groupTable i with
      | .error e => e
      | .ok (tw, p) =>
        let gs := tableGroups tw
        x.images fb i.k (decide ((gs.map RowGrp.n).foldl (· + ·) 0 ≠ 32)) gs (p || (i.gsrc && x.pois .w32 x.leader i.b)) tw

/-- A and scale registers of an MMA, without those past v639. -/
def mmaKeys (fa k a : Nat) (c : Option Nat) : List Nat :=
  (rngKeys a (rowRegs fa k) ++ (match c with | some r => rngKeys r (scaleRegs fa k) | none => [])).filter (fun n => decide (n < 640))

/-- The products of every row by its group's tile, into the slot (13 R270, R274). -/
def Iss.multiply (x : Iss) (i : MmaI) (gs : List RowGrp) (sl : Slot) : Slot :=
  let fa := x.fmt i.m.fa
  let fb := x.fmt i.m.fb
  let c := x.s.core x.h.cr
  gs.foldl (fun sl r =>
    let cols := c.columns fb i.k r.off
    (List.range r.n).foldl (fun sl d =>
      let l := r.first + d
      let row := rowVals fa i.k ((x.regs l i.a (rowRegs fa i.k)).map Prod.fst)
        (match i.c with | some q => (x.regs l q (scaleRegs fa i.k)).map Prod.fst | none => [])
      (cols.mapIdx (fun j col => (j, col))).foldl (fun sl p => sl.add l p.1 (dotOf row p.2)) sl) sl) sl

/-- Lanes of an MMA that read a poisoned register. -/
def Iss.mmaEats (x : Iss) (i : MmaI) : List Nat :=
  let ks := mmaKeys (x.fmt i.m.fa) i.k i.a i.c
  x.ex.filter (fun l => ks.any (fun q => (x.reg l q).2))

/-- The array works: the slot, and the poison that its lanes consume; a poisoned talon sector poisons the slot (13 R270, 24 R425). -/
def Iss.array (x : Iss) (i : MmaI) (gs : List RowGrp) (pois : Bool) : State :=
  let n := x.tile i.m.tile
  let eats := x.mmaEats i
  let sl := x.multiply i gs (x.s.slot x.h.cr n)
  let img := gs.any (fun r => (x.s.core x.h.cr).imagePois (x.fmt i.m.fb) i.k r.off)
  let s1 := x.s.setSlot x.h.cr n { sl with pois := sl.pois || pois || img || !eats.isEmpty }
  let lead := if (i.gsrc || !i.mmag) && x.pois .w32 x.leader i.b then [x.leader] else []
  (eats ++ lead).foldl (fun s l => s.consume x.h l) s1

/-- Lane entries of a counted matrix operation. -/
def Iss.matLanes (x : Iss) (st : LaneOpSt) : List LaneOp := x.ex.map (fun l => x.laneOp l 1 st)

/-- The use of an MMA or MMAG. -/
def mmaUse (i : MmaI) (fa : Nat) : Use :=
  { major := if i.mmag then 0x70 else 0x6f, wins := srcWin 1 i.b, keys := mmaKeys fa i.k i.a i.c ++ srcKeys 1 i.b, peg := some i.ps
    now := i.gsrc }

/-- An MMA or MMAG at issue. A team instruction arrives and waits; its operation is in flight from then on. -/
def mmaIssue (i : MmaI) (s : State) : Out :=
  let u := mmaUse i (s.fmtNow i.m.fa)
  issue u s (fun x =>
    match x.mmaGo i with
    | .trap code off => x.matTrap u code off
    | .busy => x.stall .unit []
    | .stop r off => ((x.s.startOp x u.major i.ps [] .access true).advance x.r).haltLanes x [(x.leader, r, off)]
    | .go gs pois ws reads =>
      let span := (0, (gs.head?.map RowGrp.off).getD 0, 0)
      if i.m.team then
        ((x.s.startOp x u.major i.ps (x.matLanes .pending) .matrix false span).sealLanes x.h x.ex).modSuit x.r (fun v =>
          { v with stall := .team { i := i, op := x.s.nextOp, npc := x.s.npc, groups := gs, pois := pois, words := ws, reads := reads }, wait := 0 })
      else (((x.array i gs pois).startOp x u.major i.ps (x.matLanes (.arrived [])) .matrix false span).sealLanes x.h x.ex).advance x.r)

/-- MMA (13 R268 to R270). -/
def execMma (ps : Bool) (m : MmaF) (a : Nat) (b : Src) (c : Option Nat) (s : State) : Out :=
  mmaIssue { mmag := false, ps := ps, gsrc := false, m := m, a := a, b := b, c := c } s

/-- MMAG (13 R274). -/
def execMmag (ps gsrc : Bool) (m : MmaF) (a : Nat) (b : Src) (c : Option Nat) (s : State) : Out :=
  mmaIssue { mmag := true, ps := ps, gsrc := gsrc, m := m, a := a, b := b, c := c } s

/-! ## Teams (13 R275) -/

/-- Hands of a core that are still Dealt with a block of a team. -/
def State.members (s : State) (c : CoreRef) (ctx kern team : Nat) : List HandRef :=
  (((s.core c).hands.filter (fun e => e.2.st = .dealt && e.2.ctx = ctx && (match e.2.block with
    | some (k, b) => k = kern && b / maxN 1 (s.kernD ctx kern).lrec.team = team
    | none => false))).map (fun e => c.hr e.1))

/-- A member that has arrived: its suit, and what it waits with. -/
structure Arrived where
  r : SuitRef
  w : TeamW

def State.arrivedAt (s : State) (h : HandRef) : Option Arrived :=
  (s.hand h).suits.findSome? (fun e => match e.2.stall with
    | .team w => some { r := h.sr e.1, w := w }
    | _ => none)

/-- A member's instruction where it stands. -/
def State.member (s : State) (a : Arrived) : Option Iss := (State.look { s with cur := a.r, npc := a.w.npc }).map (fun x => { x with ex := x.act })

/-- What the members must name alike: the mnemonic, K, the contents of fmtB, and the offset or the group table, as each read them at its issue. -/
def Iss.teamKey (x : Iss) (w : TeamW) : Bool × Nat × Nat × List Nat := (w.i.mmag, w.i.k, x.fmt w.i.m.fb, w.words)

/-- The operation of a member has its result. -/
def Iss.teamOut (x : Iss) (w : TeamW) (s : State) : State := x.ex.foldl (fun t l => t.arrive w.op l []) s

/-- One member's operation completes and its suit goes on. -/
def State.teamDone (s : State) (a : Arrived) (x : Iss) : State :=
  ((x.teamOut a.w s).modHand a.r.hr (fun d => { d with teamN := d.teamN + 1 })).modSuit a.r (fun v =>
    { v with pos := v.pos.after a.w.npc, stall := .ready, wait := 0 })

/-- One member's part of the array operation: its own A into its own slot; or the trap of members that differ. -/
def State.teamOne (bad : Bool) (s : State) (a : Arrived) : State :=
  match s.member a with
  | none => s
  | some x =>
    let t := if bad then x.teamOut a.w (x.matTrap { mmaUse a.w.i 0 with peg := none } 14 (if a.w.i.mmag then 0 else a.w.words.headD 0))
      else (x.array a.w.i a.w.groups a.w.pois).teamDone a x
    { t with cur := s.cur, npc := s.npc }

/-- Members that have arrived, when every one has. -/
def State.teamReady (s : State) (c : CoreRef) (ctx kern team : Nat) : List Arrived :=
  let ms := s.members c ctx kern team
  let as := ms.filterMap s.arrivedAt
  if s.runs ctx && as.length = ms.length then as else []

/-- TEAM_START: the array multiplies each member's A into its own slot; members that differ are trapped. -/
def execTeamStart (c : CoreRef) (ctx kern team : Nat) (s : State) : Out :=
  let as := s.teamReady c ctx kern team
  let keys := as.filterMap (fun a => (s.member a).map (fun x => x.teamKey a.w))
  let bad := keys.any (fun k => some k ≠ keys.head?)
  .next (as.foldl (State.teamOne bad) s)

/-! ## MZERO and MSCALE (13 R276) -/

/-- MZERO: the slot is zero but for its column scales. -/
def execMzero (tile : Nat) (s : State) : Out :=
  let u : Use := { major := 0x6e }
  issue u s (fun x =>
    match x.matBad false tile false with
    | some c => x.matTrap u c 0
    | none =>
      let n := x.tile tile
      (x.s.setSlot x.h.cr n { scale := (x.s.slot x.h.cr n).scale }).advance x.r)

/-- The column scale that a slot holds when none was set: 1.0. -/
def scaleOne : W32 × Bool := (0x3F800000, false)

/-- MSCALE: the column scales of the executing lanes. -/
def execMscale (g : Grd) (tile : Nat) (a b : Src) (s : State) : Out :=
  let u := useOf g 0x73 0 .none [(1, a), (1, b)]
  issue u s (fun x =>
    match x.ex, x.matBad false tile false with
    | [], _ => x.s.advance x.r
    | _ :: _, some c => x.matTrap u c 0
    | _ :: _, none =>
      let n := x.tile tile
      let sl := x.s.slot x.h.cr n
      let put (m : KMap (W32 × Bool)) (j l : Nat) (y : Src) : KMap (W32 × Bool) := kPut scaleOne j (lo32 (x.rd .w32 l y).1, (x.rd .w32 l y).2) m
      let s1 := x.s.setSlot x.h.cr n { sl with scale := x.ex.foldl (fun m l => put (put m l l a) (32 + l) l b) sl.scale }
      ((x.ex.filter (fun l => x.pois .w32 l a || x.pois .w32 l b)).foldl (fun t l => t.consume x.h l) s1).advance x.r)

/-! ## MDRAIN and MDST (13 R277, R278, 05 R130, R131) -/

/-- The value of an accumulator times a scale, by Table 5.8. -/
def Slot.drain (sl : Slot) (i j : Nat) (g : FV) : FV :=
  let k := accKey i j
  let p := sl.pinf.contains k
  let n := sl.ninf.contains k
  let v := (kGet 0 k sl.acc).toInt
  if sl.nan.contains k || (p && n) then .nan
  else if p || n then
    (match g with
     | .nan => .nan
     | .inf s => .inf (s != n)
     | .fin s m _ => if m = 0 then .nan else .inf (s != n))
  else
    match g with
    | .nan => .nan
    | .inf s => if v = 0 then .nan else .inf (s != decide (v < 0))
    | .fin s m d => if v = 0 ∨ m = 0 then FV.zero else .fin (s != decide (v < 0)) (v.natAbs * m) (2 ^ 64 * d)

def outFmt : OFmt → FFmt
  | .f32 => f32
  | .bf16 => bf16
  | _ => f16

/-- Bytes of one drained row with their poison, and the lane's generator after (05 R131). -/
def Iss.drainRow (x : Iss) (sl : Slot) (om : OFmt) (smode : Bool) (fm : Nat) (r : Rnd) (sat : Bool) (b : Src) (l : Nat) : PBytes × W32 :=
  let e := x.fp r 64 l
  let g0 := e.arg f32 (x.val .w32 l b)
  let sc (j : Nat) : W32 × Bool := kGet scaleOne j sl.scale
  let vs := (List.range 64).map (fun j =>
    (sl.drain l j (if smode then FV.mul g0 (e.arg f32 (sc j).1.toNat) else g0), smode && (sc j).2))
  let bs : PBytes := match om with
    | .nar => cvtOut .nar fm sat { rnd := e.rm, r0 := (x.lane l).rng, daz := e.daz, ftz := e.ftz, satf := e.satf } vs
    | f => unelems (if f = OFmt.f32 then 4 else 2) (vs.mapIdx (fun j v => (e.res (outFmt f) j (sat || e.satf) v.1, v.2)))
  let base := sl.pois || x.pois .w32 l b
  (bs.map (fun c => (c.1, c.2 || base)), e.g)

/-- Register words of bytes, each with the poison of its bytes. -/
def regWords (fuel k : Nat) (bs : PBytes) : List (Nat × W32 × Bool) :=
  match fuel with
  | 0 => []
  | n + 1 =>
    if bs.isEmpty then []
    else (k, BitVec.ofNat 32 (ofBytes ((bs.take 4).map Prod.fst)), pAny (bs.take 4)) :: regWords n (k + 1) (bs.drop 4)

/-- Registers of a drained row (13 Table 13.6). -/
def drainRegs (om : OFmt) (fm : Nat) : Nat :=
  match om with
  | .f32 => 64
  | .nar => if nScale fm = 0 then 16 else 17
  | _ => 32

/-- The generators of the executing lanes after their draws, and the poison that they read. -/
def Iss.drained (x : Iss) (b : Src) (rows : List (Nat × PBytes × W32)) (s : State) : State :=
  rows.foldl (fun t q =>
    let t1 := t.modLane x.h q.1 (fun ln => { ln with rng := q.2.2 })
    if x.pois .w32 q.1 b then t1.consume x.h q.1 else t1) s

/-- MDRAIN: the compare, then one row to each executing lane. -/
def execMdrain (g : Grd) (ps : Bool) (tile : Nat) (om : OFmt) (smode : Bool) (fo : Nat) (r : Rnd) (sat : Bool) (d : Nat) (b : Src) (s : State) : Out :=
  let fm := s.fmtNow fo
  let keys := rngKeys d (drainRegs om fm)
  let u : Use := { g := g, major := 0x71, wins := rngWin d (drainRegs om fm) ++ srcWin 1 b, keys := keys ++ srcKeys 1 b, peg := some ps }
  issue u s (fun x =>
    let bad : Option Nat := match x.matBad false tile false with
      | some c => some c
      | none => if om = OFmt.nar && !nLegal fm then some 5 else none
    match x.ex, bad with
    | [], some _ => (x.s.startOp x 0x71 ps [] .access true).advance x.r
    | _ :: _, some c => x.matTrap u c 0
    | ex, none =>
      let n := x.tile tile
      let s1 := x.s.compare x.h.cr n
      let rows := ex.map (fun l => (l, x.drainRow (s1.slot x.h.cr n) om smode fm r sat b l))
      let op := x.s.nextOp
      let s2 := (x.drained b rows s1).startOp x 0x71 ps (rows.map (fun q => x.laneOp q.1 1 (.arrived (regWords 64 d q.2.1))))
        .access ex.isEmpty
      (ex.foldl (fun t l => t.leaseRegs x.h l op keys) s2).advance x.r)

/-- What the rows of an MDST leave at issue. -/
structure RowsSent where
  s : State
  ops : List LaneOp := []
  ids : List Nat := []
  bad : List (Nat × Nat × Nat) := []

/-- One row of an MDST sent, after the check of R84 on the whole of it; a row that holds any poison is written poisoned whole (13 R278). -/
def Iss.sendDrain (x : Iss) (seg : Seg) (pol : Pol) (a : Src) (op : Nat) (t : RowsSent) (q : Nat × PBytes × W32) : RowsSent :=
  let l := q.1
  let off := x.val .w64 l a
  let n := q.2.1.length
  let it := x.item l
  let d := x.s.laneDesc x.h l x.u.kern seg
  match segCheck seg d { rd := false, wr := true, pl := x.pl } off n with
  | .error r => { t with ops := t.ops ++ [x.laneOp l 1 .pending], bad := t.bad ++ [(l, r, d.base + off)] }
  | .ok va =>
    let pz := (marks q.2.1).map (fun _ => pAny q.2.1)
    let acc : Access := { kind := .store, sc := seg = .sc, addr := va, len := n, pol := pol, dst := [], data := q.2.1.map Prod.fst, rowPois := pz, pl := x.pl }
    let r : Req := { op := op, lane := l, h := x.h, gen := x.hd.gen, ctx := x.ctx, kern := it.kern, item := it.item, acc := acc, pa := 0, pol := pol, repl := 0 }
    match t.s.sendRow r pz with
    | .sent s1 ids => { t with s := s1, ops := t.ops ++ [x.laneOp l ids.length .pending], ids := t.ids ++ ids }
    | .park s1 pva lv en =>
      { t with s := s1.replayable x.ctx pva lv en { kind := 1, req := 0, acc := 1, fdie := x.r.die, item := it.item, who := t.s.whoOf x.r x.u.kern }
               ops := t.ops ++ [x.laneOp l 0 (.parked acc)] }
    | .stop s1 rs pva => { t with s := s1, ops := t.ops ++ [x.laneOp l 1 .pending], bad := t.bad ++ [(l, rs, pva)] }

/-- MDST: the compare, then one row stored by each executing lane. -/
def execMdst (g : Grd) (ps : Bool) (tile : Nat) (om : OFmt) (smode : Bool) (seg : Seg) (pol : Pol) (r : Rnd) (sat : Bool) (a b : Src) (s : State) : Out :=
  let u := memUse g 0x72 ps 0 .none [(2, a), (1, b)]
  issue u s (fun x =>
    x.control (x.ex.filter (fun l => x.pois .w64 l a))
      (match x.ex.filter (fun l => x.val .w64 l a % 16 ≠ 0), x.ex, x.matBad false tile false with
       | l :: ls, _, _ => x.trap u 4 16 (l :: ls) (x.val .w64 l a) 0
       | [], [], some _ => (x.s.startOp x 0x72 ps [] .access true).advance x.r
       | [], _ :: _, some c => x.matTrap u c 0
       | [], ex, none =>
         let n := x.tile tile
         let s1 := x.s.compare x.h.cr n
         let rows := ex.map (fun l => (l, x.drainRow (s1.slot x.h.cr n) om smode 0 r sat b l))
         let t := rows.foldl (x.sendDrain seg pol a x.s.nextOp) { s := x.drained b rows s1 }
         let dst := match ex with | l :: _ => (x.s.laneDesc x.h l x.u.kern seg).base + x.val .w64 l a | [] => 0
         (((t.s.startOp x 0x72 ps t.ops .access ex.isEmpty (dst, 0, sumBy (fun q => q.2.1.length) rows)).serve t.ids).advance x.r).haltLanes x t.bad))

/-! ## MSTAT (13 R279) -/

/-- The word of Table 13.7 for row i. -/
def Slot.stat (sl : Slot) (i : Nat) : Nat :=
  let f (l : List Nat) : Bool := l.any (fun k => k / 64 = i)
  sl.cstat * 2 ^ 10 + (if sl.pois then 2 ^ 9 else 0) + (if f sl.ninf then 4 else 0) + (if f sl.pinf then 2 else 0) + (if f sl.nan then 1 else 0)

/-- MSTAT. -/
def execMstat (g : Grd) (ps : Bool) (tile : Nat) (chk : Bool) (d : Dst) (s : State) : Out :=
  let u := { useOf g 0x74 1 d [] with peg := some ps }
  issue u s (fun x =>
    match x.ex, x.matBad false tile false with
    | [], some _ => (x.s.startOp x 0x74 ps [] .access true).advance x.r
    | _ :: _, some c => x.matTrap u c 0
    | ex, none =>
      let n := x.tile tile
      let s1 := if chk then x.s.compare x.h.cr n else x.s
      let ks := dstKeys 1 d
      let op := x.s.nextOp
      let s2 := s1.startOp x 0x74 ps (ex.map (fun l => x.laneOp l 1 (wordIn ((s1.slot x.h.cr n).stat l) ks))) .access ex.isEmpty
      (ex.foldl (fun t l => t.leaseRegs x.h l op ks) s2).advance x.r)

end Sys2Proof.Machine
end

