-- ==== Sys2Proof/Machine/Preempt.lean ====
section
/-! DEFINITION. Sys2Proof/Machine/Preempt.lean: saving a context and restoring it (15 R318 to R322, 07 R172, 24 R427). -/

namespace Sys2Proof.Machine

/-! ## Flashback (07 R172) -/

/-- A lane rewound to its cut: its live set, its cut PC, levels 1 and 2 zero; the rest of its seat is undefined. -/
def Lane.rewind (l : Lane) (ep : Nat) (c : Cut) : Lane :=
  let ks := c.ranges.flatMap (fun r => rngKeys r.start r.len)
  { l with
    st := .heldReady, pos := c.pos, l0 := 0, l1 := 0, l0p := false, l1p := false, preds := 0, predp := 0, leases := [], saved := none, heldSince := none
    regs := { vals := ks.foldl (fun m k => kSet k (rfVal l.regs k) m) [], pois := l.regs.pois.filter ks.contains, epoch := some ep } }

/-- The cut that an unsealed lane goes back to. -/
def Lane.back (l : Lane) : Option Cut := if l.isSealed || l.item.isNone then none else l.cut

/-- Whether a lane is in a suit in Trap, which is saved whole (15 R320, R322). -/
def Hand.inTrap (d : Hand) (l : Nat) : Bool :=
  match (d.lane l).st with
  | .active n => (match d.suit n with | some u => u.trap.isSome | none => false)
  | _ => false

/-- The cut that a lane of a hand goes back to at a save. -/
def Hand.back (d : Hand) (l : Nat) : Option Cut := if d.inTrap l then none else (d.lane l).back

/-- An operation's lane entry that belongs to a lane of a hand still holding the item. -/
def Hand.owns (d : Hand) (x : LaneOp) : Bool :=
  match (d.lane x.lane).item with | some it => it.item = x.item && it.kern = x.kern | none => false

/-! ## When a save can complete (15 R318) -/

/-- Whether a LAUNCH or DEAL waits for engine claims. -/
def State.workBarred (s : State) (o : Op) : Bool :=
  let lo := o.lead
  let bar (sc : Bool) (a pl n : Nat) : Bool := match s.workRead o (s.workRec o lo) sc a pl n with | .ok none => true | _ => false
  match o.kind with
  | .launch sc a pl _ => bar sc a pl 512
  | .deal sc a pl n _ _ => bar sc a pl (64 * n)
  | _ => false

/-- An operation that the save waits for: it has arrived in some lane, or will go on of itself; an engine goes on to its unit (15 R319). -/
def State.moving (s : State) (o : Op) : Bool :=
  o.gen ≠ swappedGen && (o.arrived || (match o.kind with
    | .engine g => !g.stopped && !g.atUnit
    | .remote _ _ | .matrix | .access | .claim | .estat _ => false
    | .scrub _ _ => true
    | .launch _ _ _ _ | .deal _ _ _ _ _ _ => o.lead.st = .pending && !s.pubBars o.h.cr && !s.workBarred o))

/-- Hands of a context with unpublished stores of it on their core that no claim bars: a save makes every store that it finds take effect (15 Table
15.7). -/
def State.toPublish (s : State) (ctx : Nat) : List HandRef :=
  (s.handsOf ctx).filter (fun h => (s.core h.cr).cbuf.any (fun x => x.ctx = ctx) && !s.pubBars h.cr)

/-- Whether everything of a context that the save waits for has happened: requests that no claim bars, claims of estates,
results on their way, and what other contexts do for it. -/
def State.saveReady (s : State) (ctx : Nat) : Bool :=
  !s.ops.any (fun e => e.2.ctx = ctx && s.moving e.2) &&
    !s.reqs.any (fun e => e.2.ctx = ctx && (if e.2.acc.kind.isAtomic then s.groupReady e.2 else s.reqReady e.1 e.2)) &&
    !s.claims.any (fun e => e.2.ctx = ctx && s.claimReady e.1 e.2) &&
    !s.ctxs.any (fun x => x.2.keyz.any (fun k => (s.hand k.h).ctx = ctx))

/-! ## The save -/

/-- Estates of a hand that step 3 evicts. -/
def State.evictAll (s : State) (h : HandRef) : State :=
  (List.range 32).foldl (fun a l => if a.mayEvict h l then a.evict h l else a) s

/-- An estate, a seal or a probate of a context that waits for a replay-all or for an engine claim. -/
def Ctx.estateWaits (x : Ctx) : Bool := x.pending.any (fun w => match w with | .evict _ _ | .seal_ _ _ | .probate _ => true | _ => false)

/-- One lane at its save, with the cut that it goes back to, if it does; estates that stay keep the age of their window. -/
def Lane.save (l : Lane) (b : Option Cut) (u : Option Suit) (clk ep : Nat) (keep : List Nat) : Lane :=
  match b with
  | some c => l.rewind ep c
  | none =>
    { l with leases := l.leases.filter (fun e => keep.contains e.2), heldSince := none
             pos := match u with | some v => v.pos | none => l.pos
             estate := l.estate.map (fun e => { e with sealClk := clk - e.sealClk })
             regs := if l.item.isSome || l.estate.isSome then l.regs else { epoch := some ep } }

/-- A suit at its save: waits other than a team's end. -/
def Suit.save (u : Suit) : Suit := { u with wait := 0, clause := none, stall := match u.stall with | .team w => .team w | _ => .ready }

/-- A hand at its save; `keep` are the operations that go on after the restore, `ep` the first of 32 fresh epochs. -/
def Hand.save (d : Hand) (clk ep : Nat) (keep : List Nat) : Hand :=
  Hand.sweep { d with
    st := .swapped, pegs := [], passOver := [], filled := false, suits := d.suits.map (fun e => (e.1, e.2.save))
    lanes := (List.range 32).map (fun l => (l, (d.lane l).save (d.back l) (match (d.lane l).st with | .active n => d.suit n | _ => none) clk (ep + l) keep)) }

/-- Bytes of cells within some runs. -/
def cellsIn (m : List Host.Cell) (runs : List (Nat × Nat)) : List Host.Cell := m.filter (fun c => runs.any (fun r => decide (r.1 ≤ c.1) && decide (c.1 < r.1 + r.2)))

/-- A context's scratchpad allocations on a core. -/
def State.allocs (s : State) (ctx : Nat) (c : CoreRef) : List (Nat × Nat) :=
  (s.ctxD ctx).kerns.flatMap (fun k => (k.2.tables.filter (fun t => decide (t.2.core = c) && decide (t.2.len ≠ 0))).map (fun t => (t.2.base, t.2.len)))

/-- What a save holds of one core. -/
def State.saveCore (s : State) (ctx : Nat) (c : CoreRef) (keep : List Nat) : SavedCore :=
  let x := s.core c
  let mine := x.hands.filter (fun e => e.2.st ≠ .unformed && e.2.ctx = ctx)
  let runs := s.allocs ctx c
  { core := c, hands := mine.map (fun e => (e.1, e.2.save s.clk (s.nextEpoch + 32 * e.1) keep))
    slots := (mine.flatMap (fun e => e.2.tiles)).foldl (fun m t => kSet t (kGet {} t x.pot) m) []
    scr := cellsIn x.scr runs, scrPois := x.scrPois.filter (fun k => runs.any (fun r => overlaps (16 * k) 16 r.1 r.2))
    tal := x.tal, talPois := x.talPois }

/-- An operation of a saved hand: lanes that went back take no more part in it, and what returns to them is dropped (07 R172); the rest waits for the restore. -/
def Op.swap (o : Op) (d : Hand) : Op :=
  { o with gen := swappedGen, peg := none
           lanes := o.lanes.map (fun x => match o.kind with
             | .engine _ => x
             | _ => if d.owns x && (d.back x.lane).isNone then x
                    else match x.st with | .pending => { x with void := x.void || d.owns x } | _ => { x with st := .done }) }

/-- Whether an operation has nothing left to do. -/
def Op.over (o : Op) : Bool := o.lanes.all (fun x => x.st = .done)

/-- The hand of an operation, when it is one of the context's and the operation is its own. -/
def State.swaps (s : State) (ctx : Nat) (h : HandRef) (gen : Nat) : Bool := s.sameGen h gen && (s.hand h).ctx = ctx

/-- Whether what a lane issued goes on after the restore: its lane keeps the item and its seat. -/
def State.stays (s : State) (ctx : Nat) (h : HandRef) (gen lane kern item : Nat) : Bool :=
  s.swaps ctx h gen && (match (s.lane h lane).item with | some it => it.item = item && it.kern = kern | none => false) && ((s.hand h).back lane).isNone

/-- Cores whose talon may hold what the context left there: it may use them, and no hand of another context is on them. -/
def State.talonsOf (s : State) (ctx : Nat) : List CoreRef :=
  (s.cores.filter (fun c => !c.2.tal.isEmpty && bitN (kGet 0 (c.1 / 64) (s.ctxD ctx).cores) (c.1 % 64) &&
    !c.2.hands.any (fun e => e.2.st ≠ .unformed && e.2.ctx ≠ ctx))).map (fun c => coreOf c.1)

/-- Cores that a save covers: those with a hand, a scratchpad allocation or a talon of the context (15 R320; log 32). -/
def State.savedCores (s : State) (ctx : Nat) : List CoreRef :=
  ((s.handsOf ctx).map HandRef.cr ++ (s.ctxD ctx).kerns.flatMap (fun k => k.2.tables.map (fun t => t.2.core)) ++ s.talonsOf ctx).foldl
    (fun a c => if a.contains c then a else a ++ [c]) []

/-- Steps 3 to 5 of a save, once nothing is in the way. Parked requests of lanes that go back are discarded (24 R427). -/
def State.swapOut (s : State) (ctx : Nat) : State :=
  let hs := s.handsOf ctx
  let s0 := (hs.foldl State.keepPts s).dropParked (fun r => r.ctx = ctx && !s.stays ctx r.h r.gen r.lane r.kern r.item)
  let ops := (s0.ops.map (fun e => (e.1, if s0.swaps ctx e.2.h e.2.gen then
      (match e.2.kind with
       | .engine g => { e.2 with gen := swappedGen, peg := none, kind := .engine { g with stopped := true } }
       | _ => e.2.swap (s0.hand e.2.h))
    else match e.2.kind with
      | .engine g => if e.2.ctx = ctx then { e.2 with kind := .engine { g with stopped := true } } else e.2
      | _ => e.2))).filter (fun e => !(e.2.gen = swappedGen && e.2.over))
  let keep := (ops.filter (fun e => e.2.gen = swappedGen)).map Prod.fst ++ (s0.claims.filterMap (fun e => e.2.op))
  let saves := (s0.savedCores ctx).map (fun c => s0.saveCore ctx c keep)
  let top := hs.foldl (fun p h => maxN p (s0.hand h).pts) 0
  let s1 := { s0 with
    ops := ops
    reqs := s0.reqs.map (fun (e : Nat × Req) => (e.1, if s0.stays ctx e.2.h e.2.gen e.2.lane e.2.kern e.2.item then { e.2 with gen := swappedGen } else e.2))
    claims := s0.claims.map (fun (e : Nat × ClaimReq) => (e.1, if s0.stays ctx e.2.h e.2.gen e.2.lane e.2.kern e.2.item then { e.2 with gen := swappedGen } else e.2))
    nextEpoch := s0.nextEpoch + 32 * 96 }
  (hs.foldl State.letGo s1).modCtx ctx (fun x => { x with pstat := .saved, saves := saves, savePts := top })

/-- SAVE written to CX.PCTL: the context's hands stop issuing and drawing, and its engines stop at their units (log 14). -/
def execPctlSave (ctx : Nat) (s : State) : Out :=
  let x := s.ctxD ctx
  .next (if x.state = 1 ∧ x.pstat = .running then s.modCtx ctx (fun x => { x with pstat := .saving }) else s)

/-- The save goes on once everything else has completed: estates are evicted, then the hands are saved. -/
def State.saveOn (s : State) (ctx : Nat) : State :=
  let s1 := (s.handsOf ctx).foldl State.evictAll s
  if (s1.ctxD ctx).state ≠ 1 || (s1.ctxD ctx).estateWaits then s1 else s1.swapOut ctx

/-- Base and bytes of a context's save area. -/
def State.saveArea (s : State) (ctx : Nat) : Nat × Nat := (s.reg ctx 0x127, (s.ctxD ctx).savesz * 262144)

/-- The location code of an offline channel that holds a line of a run of bytes. -/
def State.offIn (s : State) (a n : Nat) : Option Nat :=
  if s.offChans.isEmpty then none
  else ((spanOf 64 a n).find? (fun l => s.offChans.contains (s.home (64 * l)).chan)).map (fun l => locChan (s.home (64 * l)).chan)

/-- A save or restore that fails: the context halts (24 R427). -/
def State.saveFail (s : State) (ctx loc : Nat) : State := (s.halt ctx 0x24 { kind := 0x24, arg0 := loc }).modCtx ctx (fun x => { x with pstat := .lost, saves := [] })

/-- SAVE_COMPLETE: the rest of R318. Stores that the save finds are published, so that they complete; then steps 3 to 5 follow. A save area that a channel
cannot hold ends the save (24 R427). -/
def execSaveComplete (ctx : Nat) (s : State) : Out :=
  let x := s.ctxD ctx
  .next (if !(x.state = 1 && x.pstat = .saving && !x.estateWaits) then s
    else match s.toPublish ctx with
      | h :: hs => (h :: hs).foldl State.publish s
      | [] =>
        if !s.saveReady ctx then s
        else match s.offIn (s.saveArea ctx).1 (s.saveArea ctx).2 with
          | some loc => s.saveFail ctx loc
          | none => s.saveOn ctx)

/-! ## The restore (15 R321) -/

/-- RESTORE written to CX.PCTL. -/
def execPctlRestore (ctx : Nat) (s : State) : Out :=
  let x := s.ctxD ctx
  .next (if x.state = 1 ∧ x.pstat = .saved then s.modCtx ctx (fun x => { x with pstat := .restoring }) else s)

/-- Whether a core is free for a context's saved hands: no hand and no allocation of another context is in their way, and no
other context holds it. -/
def State.coreFree (s : State) (ctx : Nat) (v : SavedCore) : Bool :=
  !(s.core v.core).hands.any (fun e => e.2.st ≠ .unformed) && !s.heldFrom ctx v.core &&
    (s.allocs ctx v.core).all (fun a => s.ctxs.all (fun x => x.1 = ctx || x.2.pstat = .saved || (s.allocs x.1 v.core).all (fun b => !overlaps a.1 a.2 b.1 b.2)))

/-- Whether the save area cannot be read back: the location code of its offline channel, or 0 when a sector of it is poisoned. -/
def State.areaBad (s : State) (a n : Nat) : Option Nat :=
  match s.offIn a n with
  | some loc => some loc
  | none =>
    if s.frames.any (fun e => e.2.q && overlaps (65536 * e.1) 65536 a n) || s.pois.any (fun c => c.2.any (fun e => overlaps (16 * e.sector) 16 a n)) then some 0 else none

/-- A saved hand put back. -/
def Hand.restore (d : Hand) (gen pts clk : Nat) : Hand :=
  { d with
    st := if d.block.isSome then .dealt else .opened
    gen := gen, pts := pts, ptsClk := clk, suits := d.suits.map (fun e => (e.1, { e.2 with since := clk }))
    lanes := d.lanes.map (fun e => (e.1, { e.2 with estate := e.2.estate.map (fun x => { x with sealClk := clk - x.sealClk }) })) }

/-- One core of a save put back. -/
def State.restoreCore (s : State) (ctx pts : Nat) (v : SavedCore) : State :=
  let runs := s.allocs ctx v.core
  let s1 := s.modCore v.core (fun c => { c with
    hands := v.hands.foldl (fun m e => kSet e.1 (e.2.restore (kGet {} e.1 m).gen pts s.clk) m) c.hands
    pot := v.slots.foldl (fun p e => kPut {} e.1 e.2 p) c.pot
    scr := v.scr.foldl (fun m b => kPut 0 b.1 b.2 m) (c.scr.filter (fun b => !(cellsIn [b] runs).contains b))
    scrPois := v.scrPois.foldl (fun m k => insN k m) (c.scrPois.filter (fun k => !runs.any (fun r => overlaps (16 * k) 16 r.1 r.2)))
    tal := v.tal, talPois := v.talPois })
  v.hands.foldl (fun a e => (e.2.lanes.filter (fun l => l.2.item.isSome)).foldl (fun b l => b.reseed (v.core.hr e.1) l.1) a) s1

/-- What waited for the restore belongs to the hands again. -/
def State.rejoin (s : State) (ctx : Nat) : State :=
  let gen (h : HandRef) : Nat := (s.hand h).gen
  { s with
    ops := s.ops.map (fun e => (e.1, if e.2.ctx ≠ ctx then e.2 else
      let o := if e.2.gen = swappedGen then { e.2 with gen := gen e.2.h } else e.2
      match o.kind with | .engine g => { o with kind := .engine { g with stopped := false } } | _ => o))
    reqs := s.reqs.map (fun (e : Nat × Req) => (e.1, if e.2.ctx = ctx && e.2.gen = swappedGen then { e.2 with gen := gen e.2.h } else e.2))
    claims := s.claims.map (fun (e : Nat × ClaimReq) => (e.1, if e.2.ctx = ctx && e.2.gen = swappedGen then { e.2 with gen := gen e.2.h } else e.2)) }

/-- Insertion by a measure, after equals. -/
def insKey (k : Nat) (x : α) : List (Nat × α) → List (Nat × α)
  | [] => [(k, x)]
  | e :: es => if k < e.1 then (k, x) :: e :: es else e :: insKey k x es

/-- Lanes of an operation with a parked access, or a parked request, of the item that they hold. -/
def State.parkedLanes (s : State) (id : Nat) (o : Op) : List Nat :=
  (List.range 32).filter (fun l => o.lanes.any (fun x => x.lane = l && (match x.st with | .parked _ => true | _ => false) && s.holds o x) ||
    s.reqs.any (fun e => e.2.parked && e.2.op = id && e.2.lane = l))

/-- What one lane of an operation has parked, tried again, with the faults anew. -/
def State.retryLane (t : State × List Park) (id l : Nat) : State × List Park :=
  let r := t.1.retryAccess id l
  (r.1.reqs.filter (fun e => e.2.parked && e.2.op = id && e.2.lane = l)).foldl (fun (a : State × List Park) e =>
    let q := a.1.renew e.1 e.2
    (q.1, a.2 ++ q.2)) (r.1, t.2 ++ r.2)

/-- What an operation has parked, tried again: the accesses of one instruction reach the fault buffer together (25 R429). -/
def State.retryOp (s : State) (id : Nat) : State :=
  match kFind id s.ops with
  | none => s
  | some o =>
    match o.kind with
    | .launch _ _ _ _ | .deal _ _ _ _ _ _ => s.retryWork id
    | .remote _ _ => s.retryRemote id
    | _ =>
      let r := (s.parkedLanes id o).foldl (fun t l => State.retryLane t id l) (s, [])
      r.1.parkAll o.ctx r.2.length r.2

/-- Parked accesses of a context tried again, in ascending die, core, hand and lane; engines follow them (24 R412, R427, 25 R429). -/
def State.retryAll (s : State) (ctx : Nat) : State :=
  let parked := (s.ops.filter (fun e => e.2.ctx = ctx && e.2.gen ≠ swappedGen)).filterMap (fun e =>
    (s.parkedLanes e.1 e.2).head?.map (fun l => ((coreKey e.2.h.cr * 128 + e.2.h.hand) * 32 + l, e.1)))
  ((parked.foldl (fun a p => insKey p.1 p.2 a) []).map Prod.snd).foldl (fun a id => if (a.ctxD ctx).state ≠ 1 then a else a.retryOp id) s

/-- The hands of a save put back, and what was parked tried again. -/
def State.swapIn (s : State) (ctx : Nat) : State :=
  let x := s.ctxD ctx
  let s1 := (x.saves.foldl (fun a v => a.restoreCore ctx (x.savePts + 64) v) s).rejoin ctx
  (s1.modCtx ctx (fun x => { x with pstat := .running, saves := [] })).retryAll ctx

/-- RESTORE_PROCEED: every hand returns to its core and number, once those cores are free (15 R321). -/
def execRestoreProceed (ctx : Nat) (s : State) : Out :=
  let x := s.ctxD ctx
  .next (if !(x.state = 1 && x.pstat = .restoring && x.saves.all (s.coreFree ctx)) then s
    else match s.areaBad (s.saveArea ctx).1 (s.saveArea ctx).2 with
      | some loc => s.saveFail ctx loc
      | none => s.swapIn ctx)

end Sys2Proof.Machine
end

