-- ==== Sys2Proof/Machine/System.lean ====
section
/-! DEFINITION. Sys2Proof/Machine/System.lean: the privileged registers, MOVP, the end of a halt, the destruction and creation of
contexts, replay-all, KEYZ and SCRUB (14 R295 to R298, R453, 17 R352, R353, 22 R385, R386, 24 R412, 26 R434 to R436). -/

namespace Sys2Proof.Machine

/-! ## Reading a privileged register -/

/-- The sharing entry of the region that CX.SHQ names, when it lies in a pool of the context's partition (16 R333). -/
def State.shqEntry (s : State) (ctx : Nat) : Option Share :=
  let pa := s.reg ctx 0x140
  match (kGet {} (s.ctxD ctx).part s.parts).place pa with
  | none => none
  | some _ => kFind (shareKey (s.home pa).die (regionOf pa)) s.share

/-- CX.SHR0 and CX.SHR1 (16 Table 16.4). A region without an entry reads 0 in every field (DESIGN CHOICE, log 33). -/
def Share.word0 (e : Share) : Nat := (List.range 4).foldl (fun a d => a + kGet 0 d e.rr * 2 ^ (16 * d)) 0
def Share.word1 (e : Share) : Nat := 2 ^ 25 + (if e.bar then 2 ^ 24 else 0) + maskOf e.rset * 2 ^ 20 + e.g * 2 ^ 16 + e.w

/-- A pool register (16 Table 16.1). -/
def poolWord (p : Nat × Nat) : Nat := if p.2 = 0 then 0 else p.1 / 2 ^ 30 % 2 ^ 22 * 2 ^ 30 + p.2 % 2 ^ 22

/-- CX.PSTAT (15 Table 15.5). -/
def pstatCode : PStat → Nat
  | .running => 0 | .saving => 1 | .saved => 2 | .restoring => 3 | .lost => 4

/-- A privileged register read; every register of a free context reads 0 (14 R295, 26 R438). -/
def State.pregRead (s : State) (ctx prn : Nat) : Nat :=
  match s.ctx ctx with
  | none => 0
  | some x =>
    let p := kGet {} x.part s.parts
    if prn = 0x020 then x.kstate
    else if prn = 0x021 then x.scrubP
    else if prn = 0x022 then (if x.scrubOk then 1 else 0)
    else if prn = 0x126 then pstatCode x.pstat
    else if prn = 0x131 then poolWord p.ipool
    else if 0x132 ≤ prn ∧ prn ≤ 0x135 then poolWord (kGet (0, 0) (prn - 0x132) p.dpools)
    else if prn = 0x141 then (match s.shqEntry ctx with | some e => e.word0 | none => 0)
    else if prn = 0x142 then (match s.shqEntry ctx with | some e => e.word1 | none => 0)
    else if prn = 0x143 then p.rthr
    else if prn = 0x180 then x.state
    else if prn = 0x181 then 0
    else if prn = 0x197 then x.hstat
    else (x.reg prn).toNat

/-! ## Values that a register can hold (14 R296) -/

/-- A bucket setting (16 Table 16.7). -/
def bucketOk (rate v : Nat) : Bool :=
  Nat.land v (2 ^ 64 - 1 - 0x9FFF0FFF) = 0 && decide (1 ≤ fld v 28 16) && decide (fld v 28 16 ≤ 4096) && decide (fld v 11 0 ≤ rate)

/-- What a plain RW register takes from a value: none when it cannot hold it. -/
def rwTakes (prn v : Nat) : Option Nat :=
  let only (mask : Nat) : Option Nat := if Nat.land v mask = v then some v else none
  if prn = 0x001 ∨ prn = 0x191 ∨ prn = 0x195 ∨ prn = 0x172 then some v
  else if prn = 0x011 ∨ prn = 0x170 then only 0x01FFFFFFFFFFFFF0
  else if prn = 0x012 then some (v % 2 ^ 32)
  else if 0x100 ≤ prn ∧ prn ≤ 0x11F then some (if prn % 2 = 0 then fld v 56 6 * 64 else v % 2 ^ 51)
  else if prn = 0x120 then only 0x01FFFFFFFFFFFE00
  else if prn = 0x121 then (if lqLegal v then some v else none)
  else if prn = 0x124 then only 0x01FFFFFFFFFFFFFC
  else if prn = 0x130 then only 0x000FFFFFFFFFF000
  else if prn = 0x140 then only 0x000FFFFFFFE00000
  else if prn = 0x150 then (if bucketOk 2285 v then some v else none)
  else if prn = 0x151 then (if bucketOk 2048 v then some v else none)
  else if prn = 0x160 then some (v % 2 ^ 16)
  else if prn = 0x171 then (if v ≤ 4096 then some v else none)
  else if prn = 0x173 then (if v ≤ 256 then some v else none)
  else if prn = 0x174 then (if 1 ≤ fld v 15 8 ∧ fld v 15 8 ≤ 64 ∧ fld v 7 0 < fld v 15 8 then some (v % 2 ^ 16) else none)
  else if prn = 0x198 then only 0x000FFFFFFFFF0000
  else none

/-! ## STOP and DESTROY (17 R353) -/

/-- STOP: the halt line with cause 0. -/
def State.stop (s : State) (ctx : Nat) : State := s.halt ctx 0 { kind := 0 }

/-- Zeroing the storage of a core: talon, seats that no hand holds, scratchpad and pot slots but for those allotted to the tables and hands of
another context (17 R353; log 35). -/
def State.zeroCore (s : State) (ctx : Nat) (c : CoreRef) : State :=
  let keep := s.ctxs.flatMap (fun x => if x.1 = ctx then [] else s.allocs x.1 c)
  s.modCore c (fun x => { x with
    scr := cellsIn x.scr keep, scrPois := x.scrPois.filter (fun k => keep.any (fun r => overlaps (16 * k) 16 r.1 r.2))
    tal := [], talPois := [], pot := x.pot.filter (fun e => !x.freeSlots.contains e.1), touched := false })

/-- The cores that a context's descriptor names, rising. -/
def Ctx.coreRefs (x : Ctx) : List CoreRef := x.cores.flatMap (fun e => (bitList 48 e.2).map (fun c => { die := e.1, core := c }))

/-- A context number becomes free: nothing of the context is left; what it dirtied belongs to no context (16 Table 16.9). -/
def State.freeCtx (s : State) (ctx : Nat) : State :=
  let mine (k : Nat) : Bool := k / 65536 = ctx
  { s with
    ctxs := kErase ctx s.ctxs
    cores := s.cores.map (fun (c : Nat × Core) => (c.1, { c.2 with
      kpsum := c.2.kpsum.filter (fun k => !mine k), lastDraw := c.2.lastDraw.filter (fun e => !mine e.1), tlb := c.2.tlb.filter (fun t => t.ctx ≠ ctx) }))
    slices := s.slices.map (fun (e : Nat × SliceLine) => (e.1, { e.2 with dirty := e.2.dirty.map (fun d => (d.1, if d.2 = ctx then 256 else d.2)) }))
    frames := s.frames.map (fun (e : Nat × Frame) => (e.1, { e.2 with told := e.2.told.filter (fun c => c ≠ ctx) }))
    pois := s.pois.map (fun e => (e.1, e.2.map (fun (x : PoisEnt) => { x with told := x.told.filter (fun c => c ≠ ctx) }))) }

/-- DESTROY: acts on a Stopped context that is unprotected or scrubbed; waits for a scrub that runs. -/
def State.destroy (s : State) (ctx : Nat) : State :=
  match s.ctx ctx with
  | none => s
  | some x =>
    if x.state ≠ 3 then s
    else if x.scrub.isSome then s.modCtx ctx (fun x => { x with destroyDue := true })
    else if !x.prot || x.scrubOk then (if x.prot then s else x.coreRefs.foldl (fun a c => a.zeroCore ctx c) s).freeCtx ctx
    else s

/-! ## Replay-all (24 R412) -/

/-- Held lanes that a replay-all lets make their test again where they stand: a SUSPEND that faulted, or that found no wait record. -/
def Hand.replay (d : Hand) : Hand :=
  { d with
    lanes := d.lanes.map (fun (e : Nat × Lane) => (e.1, match e.2.st with
      | .heldFault .suspend | .heldFault (.waitRecord _ _ _) => { e.2 with st := LaneSt.heldReady }
      | _ => e.2)) }

/-- The fetch that a lane waits for: its address and its kernel. -/
def Hand.fetchOf (d : Hand) (l : Nat) : Option (Nat × Nat) :=
  match (d.lane l).st, (d.lane l).item with
  | .heldFault (.fetch va), some it => some (va, it.kern)
  | _, _ => none

/-- The fetches that the lanes of a hand wait for, each once. -/
def Hand.fetches (d : Hand) : List (Nat × Nat) :=
  (List.range 32).foldl (fun a l => match d.fetchOf l with | some k => if a.contains k then a else a ++ [k] | none => a) []

/-- The fetch of held lanes tries its translation again: they are Held-ready, or fault anew, or the context halts. -/
def State.refetch (h : HandRef) (s : State) (k : Nat × Nat) : State :=
  let d := s.hand h
  let ls := (List.range 32).filter (fun l => d.fetchOf l = some k)
  let who := s.whoOf (h.sr 0) k.2
  match s.translate h d.gen d.ctx { rd := true, wr := false, pl := (s.kernD d.ctx k.2).lrec.pl } k.1 with
  | (.hit pa _ _ lo, s1) => (s1.mark d.ctx pa lo).modHand h (fun d => d.modLanes ls (fun _ l => { l with st := .heldReady }))
  | (.miss lv en, s1) => s1.replayable d.ctx k.1 lv en { kind := 1, req := 1, fdie := h.die, item := d.itemOf ls, who := who }
  | (.fatal rs, s1) =>
    s1.halt d.ctx 0x22 { kind := 0x22, code := rs, pc := (d.lane (ls.headD 0)).pos.pc, cmask := ls, item := d.itemOf ls, who := who, arg0 := k.1, die := h.die }
  | (.busy, s1) => s1

/-- The fetch of a suit in Trap tries its translation again. -/
def State.refetchTrap (h : HandRef) (s : State) (n : Nat) : State :=
  let d := s.hand h
  match d.suit n with
  | some u => (match u.stall with
    | .fault va =>
      (match s.translate h d.gen d.ctx { rd := true, wr := false, pl := (s.kernD d.ctx u.kern).lrec.pl } va with
       | (.hit pa _ _ lo, s1) => (s1.mark d.ctx pa lo).modSuit (h.sr n) (fun v => { v with stall := .ready })
       | (e, s1) => s1.fetchFault (h.sr n) va e)
    | _ => s)
  | none => s

/-- Everything that waits in a hand for a fetch or for SUSPEND's test. -/
def State.replayHand (s : State) (h : HandRef) : State :=
  let d := s.hand h
  (d.suits.map Prod.fst).foldl (State.refetchTrap h) (d.fetches.foldl (State.refetch h) (s.modHand h Hand.replay))

/-- What the device waits to do again, once; an estate whose deck's probate has begun is left to its visit (20 R365). -/
def State.redo (s : State) (ctx : Nat) (w : DevWait) : State :=
  let s1 := s.unwait ctx w
  match w with
  | .seal_ h l => s1.seal ctx h l
  | .evict h l => if (match (s1.lane h l).estate with | some e => !e.self && s1.inProbate ctx e.deck | none => true) then s1 else s1.evict h l
  | .probate kn => s1.probateOn ctx kn
  | _ => s1

/-- Whether a hand holds something that a replay-all retries. -/
def State.parkedHand (s : State) (h : HandRef) : Bool :=
  (s.hand h).lanes.any (fun e => match e.2.st with | .heldFault _ => true | _ => false) ||
    (s.hand h).suits.any (fun e => match e.2.stall with | .fault _ => true | _ => false) || !(s.parkedIn h (List.range 32)).isEmpty

/-- What a replay-all retries stands after it in T (24 R412): the hands that hold it, and what is under way for them, take a logical time no earlier than
its own. -/
def State.replayTime (s : State) (ctx p : Nat) : State :=
  let t := ((s.handsOf ctx).filter s.parkedHand).foldl (fun a h => a.modHand h (fun d => { d with pts := maxN d.pts p })) s
  { t with
    reqs := t.reqs.map (fun (e : Nat × Req) => (e.1, if e.2.ctx = ctx && e.2.parked then { e.2 with pts := maxN e.2.pts p } else e.2))
    ops := t.ops.map (fun (e : Nat × Op) => (e.1, if e.2.ctx = ctx then { e.2 with pts := maxN e.2.pts p } else e.2)) }

/-- One replay-all, at a logical time. A context that is saved or halted ignores it. -/
def State.replay (s : State) (ctx p : Nat) : State :=
  let x := s.ctxD ctx
  if x.state ≠ 1 ∨ x.pstat = .saved then s
  else
    let s1 := (s.replayTime ctx p).modCtx ctx (fun x => { x with pend := [], waitFull := [] })
    let s2 := { s1 with ops := s1.ops.map (fun (e : Nat × Op) => (e.1, match e.2.kind with
      | .engine g => if e.2.ctx = ctx then { e.2 with kind := .engine { g with parked := false } } else e.2
      | _ => e.2)) }
    let s3 := (s2.handsOf ctx).foldl (fun a h => if (a.ctxD ctx).state ≠ 1 then a else a.replayHand h) s2
    x.waits.foldl (fun a w => if (a.ctxD ctx).state ≠ 1 then a else a.redo ctx w) (s3.retryAll ctx)

/-! ## Writing a privileged register (14 R295, R296) -/

/-- CX.CTL: STOP, DESTROY and REPLAY, at the logical time of the write. -/
def State.ctlWrite (s : State) (ctx v p : Nat) : State :=
  let s1 := if bitN v 0 then s.stop ctx else s
  let s2 := if bitN v 1 then s1.destroy ctx else s1
  if bitN v 2 then s2.replay ctx p else s2

/-- CX.PCTL: SAVE and RESTORE. -/
def State.pctlWrite (s : State) (ctx v : Nat) : State :=
  let s1 := s.setReg ctx 0x125 (v % 4)
  let x := s1.ctxD ctx
  let s2 := if bitN v 0 ∧ x.state = 1 ∧ x.pstat = .running then s1.modCtx ctx (fun x => { x with pstat := .saving }) else s1
  if bitN v 1 ∧ x.state = 1 ∧ x.pstat = .saved then s2.modCtx ctx (fun x => { x with pstat := .restoring }) else s2

/-- A write of a privileged register at a logical time; a free context ignores it. -/
def State.pregWrite (s : State) (ctx prn v p : Nat) : State :=
  match s.ctx ctx with
  | none => s
  | some x =>
    if prn = 0x181 then s.ctlWrite ctx v p
    else if prn = 0x125 then s.pctlWrite ctx v
    else if prn = 0x002 ∨ prn = 0x192 then s.setReg ctx prn (if bitN v 0 then 0 else s.reg ctx prn)
    else if prn = 0x130 ∧ x.state ≠ 3 then s
    else match rwTakes prn v with
      | some w => s.setReg ctx prn w
      | none => s

/-- STOP (17 R353). -/
def execStop (ctx : Nat) (s : State) : Out := .next (s.stop ctx)

/-- DESTROY (17 R353). -/
def execDestroy (ctx : Nat) (s : State) : Out := .next (s.destroy ctx)

/-- DEFERRED_DESTROY: the DESTROY that waited for a scrub. -/
def execDeferredDestroy (ctx : Nat) (s : State) : Out :=
  let x := s.ctxD ctx
  .next (if x.destroyDue && x.scrub.isNone then s.destroy ctx else s)

/-- The latest logical time of a host requester. -/
def State.hostTop (s : State) : Nat := s.hosts.foldl (fun p e => maxN p e.2.pts) 0

/-- REPLAY (24 R412), after what the host has written. -/
def execReplay (ctx : Nat) (s : State) : Out := .next (s.replay ctx s.hostTop)

/-- SHQ_LOOKUP: a write to CX.SHQ (16 R333). -/
def execShqLookup (ctx : Nat) (addr : W64) (s : State) : Out := .next (s.pregWrite ctx 0x140 addr.toNat 0)

/-- WAITFULL_RETRY: the slice lets the oldest SUSPEND that found no wait record make its test anew (24 R418). -/
def execWaitfullRetry (die slice : Nat) (s : State) : Out :=
  let held := s.handList.flatMap (fun h => (List.range 32).filterMap (fun l => match (s.lane h l).st with
    | .heldFault (.waitRecord d sl o) => if d = die ∧ sl = slice ∧ s.runs (s.hand h).ctx then some (h, l, o) else none
    | _ => none))
  match leastBy (fun e => e.2.2) held with
  | some (h, l, _) =>
    .next (if s.waitCount die slice < 2048 then
      let ctx := (s.hand h).ctx
      let s1 := s.modLane h l (fun ln => { ln with st := .heldReady })
      if (held.filter (fun e => (s.hand e.1).ctx = ctx)).length ≤ 1 then s1.modCtx ctx (fun x => { x with waitFull := x.waitFull.filter (fun k => k ≠ 32 * die + slice) }) else s1
    else s)
  | none => .next s

/-! ## The end of a halt (22 R385, R386) -/

/-- ENG and MAJOR of an operation that writes a stop record; none when it is no engine operation. -/
def Op.engCode (o : Op) : Option Nat :=
  match o.kind with
  | .engine g => some (match g.kind with
    | .put _ _ | .get _ _ | .signal _ => 5
    | k => if k.baseDie then 4 else if o.major = 0x66 then 2 else 1)
  | .remote _ _ => some 5
  | _ => if o.onArray then some 3 else none

/-- Bytes that an operation has written, as its stop record counts them: those of a remote operation with its whole message. -/
def Eng.doneBytes (g : Eng) : Nat :=
  match g.kind with
  | .put _ _ | .get _ _ | .signal _ => if g.issued && g.msg.isNone then g.total else 0
  | _ => if g.written then g.total else 0

/-- A lane of an operation that is parked. -/
def LaneOp.isParked (x : LaneOp) : Bool := match x.st with | .parked _ => true | _ => false

/-- Bytes of the stores of a matrix operation that have still to take effect: on their way, or parked. -/
def State.bytesDue (s : State) (id : Nat) (o : Op) : Nat :=
  sumBy (fun e => if e.2.op = id && e.2.acc.kind.isStore then e.2.acc.len else 0) s.reqs + sumBy (fun x => match x.st with | .parked a => a.len | _ => 0) o.lanes

/-- What an engine stop record holds of its operation (22 Table 22.6): leader, FAULT, ISSUED, DONE, TOTAL, DST and SRC. -/
def State.stopOf (s : State) (id : Nat) (o : Op) : Nat × Bool × Bool × Nat × Nat × Nat × Nat :=
  match o.kind with
  | .engine g => (g.leader, g.parked, g.issued, g.doneBytes, g.total, g.dstA, g.srcA)
  | .remote _ g => (g.leader, o.lanes.any LaneOp.isParked, false, 0, g.total, g.dstA, g.srcA)
  | .matrix => (o.lead.lane, false, !o.lanes.all (fun x => x.st = .pending), 0, o.span.2.2, o.span.1, o.span.2.1)
  | _ => (o.lead.lane, o.lanes.any LaneOp.isParked, true, o.span.2.2 - s.bytesDue id o, o.span.2.2, o.span.1, o.span.2.1)

/-- An engine stop record (22 Table 22.6). -/
def State.stopWords (s : State) (id : Nat) (o : Op) (eng : Nat) (tmo : Bool) : List Nat :=
  let (lane, parked, issued, done, total, dst, src) := s.stopOf id o
  [eng * 2 ^ 56 + o.major % 256 * 2 ^ 48 + o.kern % 65536 * 2 ^ 32 + o.h.die * 2 ^ 27 + o.h.core * 2 ^ 21 + o.h.hand * 2 ^ 14 + lane * 2 ^ 9
     + (if tmo then 4 else 0) + (if parked then 2 else 0) + (if issued then 1 else 0),
   o.lead.item, done, total, dst, src, 0, s.clk]

/-- A stop record written at its place, which CX.STOPB gives as a physical address (22 Table 22.2); false when its line cannot be reached (log 35). -/
def State.stopWrite (s : State) (ctx i : Nat) (ws : List Nat) : State × Bool :=
  let pa := s.reg ctx 0x198 + 64 * i
  if s.offChans.contains (s.home pa).chan then (s, false)
  else (s.putLate { ctx := ctx, die := 4, pts := 0, pa := pa, data := (ws.map (bytesOf 8)).flatten }, true)

/-- The engine operations of a halted context release their claims (22 R385). -/
def State.dropClaims (s : State) (ctx : Nat) : State :=
  { s with ops := s.ops.map (fun (e : Nat × Op) => (e.1, match e.2.kind with
      | .engine g => if e.2.ctx = ctx then { e.2 with kind := .engine { g with held := [], todo := [] } } else e.2
      | _ => e.2)) }

/-- The stop records of a context's engine operations, then the summary. -/
def State.stopRecords (s : State) (ctx : Nat) : State :=
  match (s.ctxD ctx).halt with
  | none => s
  | some h =>
    if s.reg ctx 0x198 = 0 then s
    else
      let os := s.ops.filterMap (fun e => if e.2.ctx = ctx then e.2.engCode.map (fun c => (c, e.1, e.2)) else none)
      let r := os.foldl (fun (a : State × Nat × Nat) o =>
        if 1023 ≤ a.2.1 then (a.1, a.2.1, a.2.2 + 1)
        else
          let w := a.1.stopWrite ctx (a.2.1 + 1) (s.stopWords o.2.1 o.2.2 o.1 h.tmo)
          if w.2 then (w.1, a.2.1 + 1, a.2.2) else (w.1, a.2.1, a.2.2 + 1)) (s.dropClaims ctx, 0, 0)
      let h1 : Halt := { h with done := true }
      let s1 := r.1.modCtx ctx (fun x => { x with halt := some h1 })
      (s1.stopWrite ctx 0 [h.cause * 2 ^ 56 + r.2.1, r.2.2, (s1.ctxD ctx).hstat, 0, 0, 0, 0, h.clk]).1

/-- Every deck of a halted context cancelled, each kernel in the state that it had at the halt point. -/
def State.haltDecks (s : State) (ctx : Nat) : State :=
  let s1 := s.modCtx ctx (fun x => { x with kerns := x.kerns.map (fun (k : Nat × Kernel) => (k.1, { k.2 with cst := s.kernState ctx k.1 })) })
  (s1.ctxD ctx).kerns.foldl (fun a k => if k.2.cst = .complete then a else (a.probate ctx k.1 2 k.2.pts).cancelDeck ctx k.1 k.2.pts) s1

/-- What a halted context leaves behind goes: hands, operations, claims, parked requests, wait records, continuations and messages. Stores on
their way complete as after EXIT. -/
def State.haltClear (s : State) (ctx : Nat) : State :=
  let s2 := (s.handsOf ctx).foldl (fun a h => (a.keepPts h).letGo h) (s.dropParked (fun r => r.ctx = ctx))
  let reqs := s2.reqs.filter (fun e => !(e.2.ctx = ctx && e.2.gen = swappedGen))
  { s2 with
    reqs := reqs
    claims := s2.claims.filter (fun e => e.2.ctx ≠ ctx)
    msgs := s2.msgs.filter (fun e => e.2.ctx ≠ ctx)
    waitRecs := s2.waitRecs.filter (fun w => w.cont.ctx ≠ ctx)
    ops := (s2.ops.filter (fun e => e.2.ctx ≠ ctx || reqs.any (fun r => r.2.op = e.1))).map (fun (e : Nat × Op) => (e.1, if e.2.ctx ≠ ctx then e.2 else
      { e.2 with lanes := e.2.lanes.map (fun (x : LaneOp) => match x.st with | .parked _ => { x with st := LaneOpSt.done } | _ => x) }))
    cores := s2.cores.map (fun (c : Nat × Core) => (c.1, { c.2 with
      contq := c.2.contq.filter (fun k => k.ctx ≠ ctx)
      serves := match c.2.serves with | some (x, k) => if x = ctx then none else some (x, k) | none => none })) }

/-- Whether a request of a context can still take its place. -/
def State.settling (s : State) (ctx : Nat) : Bool :=
  s.reqs.any (fun e => e.2.ctx = ctx && e.2.gen ≠ swappedGen && (if e.2.acc.kind.isAtomic then s.groupReady e.2 else s.reqReady e.1 e.2))

/-- Whether an unpublished store of a halted context waits for an engine of another context to be done with its line. -/
def State.pubWaits (s : State) (ctx : Nat) : Bool :=
  let t := { s with ops := s.ops.filter (fun e => e.2.ctx ≠ ctx) }
  (s.handsOf ctx).any (fun h => (s.core h.cr).cbuf.any (fun x => x.ctx = ctx) && t.pubBars h.cr)

/-- Whether the halt line of a context has reached every hand (22 R385). -/
def Ctx.lineThere (x : Ctx) : Bool := match x.halt with | some h => h.ahead.isEmpty | none => true

/-- The halt line reaches a hand of a halting context, which issues no more. -/
def State.lineReach (s : State) (ctx : Nat) (h : HandRef) : State :=
  match (s.ctxD ctx).halt with
  | some k => s.modCtx ctx (fun x => { x with halt := some { k with ahead := k.ahead.filter (fun g => g ≠ h) } })
  | none => s

/-- HALT_DONE: steps 3 to 5 of the halt. The stores that the context has issued complete, so those of its cores are published (log 35). -/
def State.haltDone (s : State) (ctx : Nat) : State :=
  let s1 := (((s.handsOf ctx).foldl (fun a h => a.publish h) s).haltDecks ctx).stopRecords ctx
  ((s1.haltClear ctx).modCtx ctx (fun x => { x with
    state := 3, saves := [], waits := [], busy := [], waitFull := [], halt := x.halt.map (fun h => { h with done := true })
    kerns := x.kerns.map (fun (k : Nat × Kernel) => (k.1, { k.2 with tables := [] })) })).wakeAll

/-- HALT_DONE (22 R385): engines stop, hands are released, and CX.STATE reads 3. -/
def execHaltDone (ctx : Nat) (s : State) : Out := .next (if (s.ctxD ctx).state = 2 && (s.ctxD ctx).lineThere && !s.settling ctx && !s.pubWaits ctx then s.haltDone ctx else s)

/-- SKID_TIMEOUT (22 R385): engine operations that have not stopped 2,048 clocks after the halt point are abandoned. -/
def execSkidTimeout (ctx : Nat) (s : State) : Out :=
  match (s.ctxD ctx).halt with
  | some h =>
    .next (if (s.ctxD ctx).state = 2 && decide (h.clk + 2048 ≤ s.clk) && s.ops.any (fun e => e.2.ctx = ctx && e.2.engCode.isSome) then
      s.modCtx ctx (fun x => { x with halt := some { h with tmo := true } }) else s)
  | none => .next s

/-! ## Creating a context (17 R352, 14 R453) -/

/-- Whether a run of physical bytes lies in a partition's pools. -/
def Part.holds (p : Part) (pa n : Nat) : Bool := (p.place pa).isSome && (n = 0 || (p.place (pa + n - 1)).isSome)

/-- The reason for which a descriptor of words w is refused; 0 when it is not. -/
def State.createBad (s : State) (part : Nat) (w : Nat → Nat) : Nat :=
  let p := kGet {} part s.parts
  let ds := List.range 4
  let n := sumBy (fun d => (bitList 48 (w (5 + d))).length) ds
  let base (i : Nat) : Nat := w i % 2 ^ 57
  if (s.ctx (fld (w 0) 63 56)).isSome then 1
  else if !ds.all (fun d => (bitList 48 (w (5 + d))).all (bitN (kGet 0 d p.cores))) || !p.holds (fld (w 4) 51 12 * 4096) (fld (w 4) 63 52 * 262144)
      || !p.holds (fld (w 9) 51 12 * 4096) 4096 then 2
  else if fld (w 0) 55 54 = 3 || decide (9 < fld (w 1) 63 60) || decide (9 < fld (w 2) 63 60) || decide (12 < fld (w 3) 63 60)
      || base 1 % 64 ≠ 0 || base 2 % 64 ≠ 0 || base 3 % 64 ≠ 0 || (rwTakes 0x130 (w 9)).isNone then 3
  else if fld (w 4) 63 52 < 9 * n + 1 then 4
  else 0

/-- A context as created. -/
def newCtx (part : Nat) (w : Nat → Nat) : Ctx :=
  let prot := bitN (w 0) 53
  { maxpl := fld (w 0) 55 54, prot := prot, part := part
    fbq := fld (w 1) 63 60, fbuf := w 1 % 2 ^ 57, tqq := fld (w 2) 63 60, tq := w 2 % 2 ^ 57, lq := fld (w 3) 63 60, ulog := w 3 % 2 ^ 57
    savesz := fld (w 4) 63 52, kstate := if prot then 2 else 0
    cores := (List.range 4).foldl (fun m d => kPut 0 d (w (5 + d) % 2 ^ 48) m) []
    regs := [(0x127, fld (w 4) 51 12 * 4096), (0x130, w 9), (0x174, 0x100)].foldl (fun m e => kPut 0 e.1 (BitVec.ofNat 64 e.2) m) [] }

/-- Partition of a PCIe function (17 R339, R340). -/
def partOfFn (fn : Nat) : Nat := fn - 1

/-- CREATE written by a function of a partition. Every resource lies outside a partition that is not valid (DEDUCED, log 57). -/
def State.create (s : State) (fn pa : Nat) : State :=
  let put (c : Nat) (t : State) : State := { t with cresult := kPut 0 fn c t.cresult }
  let part := partOfFn fn
  if s.power = .recovery then put 3 s
  else
    match (kFind part s.parts).bind (fun p => if p.valid then some p else none) with
    | none => put 2 s
    | some p =>
      let b := s.memRead pa 256
      let w := recWord b
      if !p.holds pa 256 then put 2 s
      else if s.memPois pa 256 then put 3 s
      else
        match s.createBad part w with
        | 0 => put 0 { s with ctxs := kSet (fld (w 0) 63 56) (newCtx part w) s.ctxs }
        | c => put c s

/-- CREATE (17 R352). -/
def execCreate (fn : Nat) (addr : W64) (s : State) : Out := .next (s.create fn addr.toNat)

/-! ## MOVP (14 R295, 23 R404) -/

/-- The level that a privileged register requires. -/
def prnLevel (wr other : Bool) (prn : Nat) : Nat :=
  if other || (decide (0x140 ≤ prn) && decide (prn ≤ 0x143)) || (wr && (prn = 0x150 || prn = 0x151)) then 2 else 1

/-- Whether a context is of another partition than the issuing one; a free number counts as of its own (26 R438). -/
def State.foreign (s : State) (own ctx : Nat) : Bool :=
  match s.ctx ctx with
  | some x => x.part ≠ (s.ctxD own).part
  | none => false

/-- The use of a MOVP. -/
def State.movpUse (s : State) (u : Use) (wr other : Bool) (ctx prn : Nat) : Use :=
  { u with pl := prnLevel wr other prn, tgt := if other then ctx else 0xFF, foreign := other && s.foreign (s.hand s.cur.hr).ctx ctx, event := true, now := true }

/-- MOVP, DIR 0: a register of a context into D of every executing lane. -/
def execMovpRead (g : Grd) (other : Bool) (ctx prn : Nat) (d : Dst) (s : State) : Out :=
  issue (s.movpUse (useOf g 0x7c 2 d []) false other ctx prn) s (fun x =>
    let v := x.s.pregRead (if other then ctx else x.ctx) prn
    ((x.commit (fun _ => out64 d v false)).sealLanes x.h x.ex).advance x.r)

/-- MOVP, DIR 1: B of the leader into a register of a context. The buckets are written under OTHER 1 only (16 R335). -/
def execMovpWrite (g : Grd) (other : Bool) (ctx prn : Nat) (b : Src) (s : State) : Out :=
  issue (s.movpUse (useOf g 0x7c 0 .none [(2, b)]) true other ctx prn) s (fun x =>
    match x.ex with
    | [] => x.s.advance x.r
    | l :: _ =>
      x.control (if x.pois .w64 l b then [l] else [])
        (let t := (x.s.sealLanes x.h x.ex).advance x.r
         if !other && (prn = 0x150 || prn = 0x151) then t
         else t.pregWrite (if other then ctx else x.ctx) prn (x.val .w64 l b) x.hd.pts))

/-! ## KEYZ (14 R297) -/

/-- The context that the leader names, for the record of a privilege fault. -/
def State.named (s : State) (g : Grd) (a : Src) : Nat :=
  match s.look with
  | none => 0
  | some x => match x.act.filter (fun l => guardOn g (x.lane l)) with
    | l :: _ => x.val .w32 l a
    | [] => 0

/-- The use of KEYZ and SCRUB. -/
def State.teardownUse (s : State) (u : Use) (g : Grd) (a : Src) : Use := { u with pl := 2, tgt := s.named g a, event := true, now := true }

/-- Status of a KEYZ that changes nothing; 0 when it zeroises the slot (14 Table 14.7). -/
def State.keyzStatus (s : State) (c : Nat) : Nat :=
  match s.ctx c with
  | none => 3
  | some x => if x.state ≠ 3 then 1 else if !x.prot then 2 else 0

/-- D of a KEYZ that has ended, in the lanes of its suit, which goes on; nothing when the suit that issued it is gone. -/
def State.keyzEnd (s : State) (k : Keyz) (st : Nat) : State :=
  match (s.hand k.h).suit k.suit with
  | some u =>
    if u.stall = .keyz k.id then
      let ls := k.lanes.filter (fun l => (s.lane k.h l).st = .active k.suit)
      (ls.foldl (fun a l => a.laneOut k.h l (out32 k.dst st false)) s).modSuit (k.h.sr k.suit) (fun v => { v with pos := v.pos.after (v.pos.pc + 12), stall := .ready, wait := 0 })
    else s
  | none => s

/-- The rest of a KEYZ or SCRUB of the context that the leader names: the fault of a foreign one, which comes before the index trap of its own operands
(23 R396), then that trap, then `k`. -/
def Iss.teardown (x : Iss) (u : Use) (wins : List (Nat × Nat)) (a : Src) (l : Nat) (k : Nat → State) : State :=
  let c := x.val .w32 l a
  if x.s.foreign x.ctx c then x.trap u 9 2 x.ex c 0 else (x.winTrap u wins).getD (k c)

/-- KEYZ: the key slot of a context zeroised at every channel; the suit waits until every channel has acknowledged. -/
def execKeyz (g : Grd) (d : Dst) (a : Src) (s : State) : Out :=
  let w := useOf g 0x7d 1 d [(1, a)]
  let u := s.teardownUse { w with wins := [] } g a
  issue u s (fun x =>
    x.control (x.leaderBad [(.w32, a)])
      (match x.ex with
       | [] => x.s.advance x.r
       | l :: _ => x.teardown u w.wins a l (fun c =>
           match x.s.keyzStatus c with
           | 0 =>
             let k : Keyz := { id := x.s.nextOp, h := x.h, suit := x.r.suit, dst := d, lanes := x.ex, deadline := s.clk + 2048 }
             (((x.s.newOp.2.sealLanes x.h x.ex).modSuit x.r (fun v => { v with stall := .keyz x.s.nextOp, wait := 0 })).modCtx c (fun y => { y with kstate := 2, keyz := y.keyz ++ [k] }))
           | st => ((x.commit (fun _ => out32 d st false)).sealLanes x.h x.ex).advance x.r)))

/-- Whether an offline channel, whose slots no path can reach, still holds a context's key. -/
def State.slotLeft (s : State) (x : Ctx) : Bool := x.slots.any (fun e => s.offChans.contains e.1)

/-- KEYZ_DONE: every channel has acknowledged the oldest KEYZ of a context's slot, which is zero everywhere. -/
def execKeyzDone (ctx : Nat) (s : State) : Out :=
  match (s.ctxD ctx).keyz with
  | k :: ks => .next (if s.slotLeft (s.ctxD ctx) then s else (s.modCtx ctx (fun x => { x with keyz := ks, slots := [] })).keyzEnd k 0)
  | [] => .next s

/-- A context whose save area, pinned at its creation, has a line in a channel that goes offline (22 R390). -/
def State.savedOn (s : State) (ctx ch : Nat) : Bool :=
  (spanOf 64 (s.saveArea ctx).1 (s.saveArea ctx).2).any (fun l => (s.home (64 * l)).chan = ch)

/-- A channel taken offline until the next boot: the record of class 2 and mechanism 3, and the halt of contexts whose state it held. -/
def State.chanOffline (s : State) (ch : Nat) : State :=
  let s1 := { s with offChans := insN ch s.offChans }.devErr 2 3 (locChan ch)
  ((s.ctxs.map Prod.fst).filter (fun c => s.savedOn c ch)).foldl (fun a c => a.halt c 0x25 { kind := 0x25, arg0 := locChan ch }) s1

/-- KEYZ_ACK_TIMEOUT: channels that have not acknowledged within 2,048 clocks are taken offline; the slot is zero on the others. A channel that is offline
already cannot acknowledge. -/
def execKeyzAckTimeout (ctx : Nat) (chans : List Nat) (s : State) : Out :=
  let cs := chans.foldl (fun a c => if c < 256 ∧ s.dies.contains (c / 64) ∧ !s.offChans.contains c ∧ !s.badChans.contains c then insN c a else a) []
  match (s.ctxD ctx).keyz with
  | k :: ks =>
    .next (if (!cs.isEmpty || s.slotLeft (s.ctxD ctx)) && decide (k.deadline < s.clk) then
      let s1 := cs.foldl State.chanOffline s
      (s1.modCtx ctx (fun x => { x with keyz := ks, slots := x.slots.filter (fun e => s1.offChans.contains e.1) })).keyzEnd k 4
    else s)
  | [] => .next s

/-! ## SCRUB (14 R298, 26 R435) -/

/-- Status of a SCRUB that ends at once; 0 when it scrubs. It is 1 for a context that runs, its keys installed or not (DESIGN CHOICE, log 34). -/
def State.scrubStatus (s : State) (c : Nat) : Nat :=
  match s.ctx c with
  | none => 3
  | some x => if x.state ≠ 3 then 1 else if x.prot && x.kstate ≠ 2 then 2 else 0

/-- A scrub started, or joined. -/
def State.scrubStart (s : State) (c op pts : Nat) : State :=
  let x := s.ctxD c
  match x.scrub with
  | some b => s.modCtx c (fun y => { y with scrub := some { b with ops := b.ops ++ [op] } })
  | none =>
    let b : Scrub := { cores := (x.coreRefs.filter (fun r => s.dies.contains r.die)).map (fun r => (r, 0))
                       ops := [op], pts := pts }
    s.modCtx c (fun y => { y with scrub := some b, scrubP := 0 })

/-- SCRUB: everything that a stopped context owned is zeroed, unit by unit. -/
def execScrub (g : Grd) (ps : Bool) (d : Dst) (a : Src) (s : State) : Out :=
  let w := useOf g 0x7e 1 d [(1, a)]
  let u := { s.teardownUse { w with wins := [] } g a with peg := some ps }
  issue u s (fun x =>
    x.control (x.leaderBad [(.w32, a)])
      (match x.ex with
       | [] => x.oneOp x.s 0x7e ps d .access (wordIn 0)
       | l :: _ => x.teardown u w.wins a l (fun c =>
           match x.s.scrubStatus c with
           | 0 => (x.oneOp x.s 0x7e ps d (.scrub c (dstKeys 1 d).head?) (fun _ => .pending)).scrubStart c x.s.nextOp x.hd.pts
           | st => x.oneOp x.s 0x7e ps d .access (wordIn st))))

/-- A scrub ends: its issuer reads 0, or 4 when frames were skipped; those that joined it read 0. -/
def State.scrubEnd (s : State) (c : Nat) (b : Scrub) : State :=
  let s1 := s.modCtx c (fun x => { x with scrub := none, scrubOk := true })
  b.ops.foldl (fun a op => match kFind op a.ops with
    | some o =>
      let v := if !b.skipped.isEmpty && b.ops.head? = some op then 4 else 0
      (match o.kind with
       | .scrub _ dst => (a.setPts o.h o.gen b.pts).workDone op o dst v
       | _ => a)
    | none => a) s1

/-- Cells outside a run of bytes. -/
def cellsOut (m : List Host.Cell) (a n : Nat) : List Host.Cell := m.filter (fun c => !(decide (a ≤ c.1) && decide (c.1 < a + n)))

/-- Unit j of a core zeroed: main register file (12 units), scratchpad (4), talon (8), pot (6). -/
def Core.scrubUnit (x : Core) (j : Nat) : Core :=
  let k := 65536
  if j < 12 then { x with touched := x.touched && decide (j < 11) }
  else if j < 16 then { x with scr := cellsOut x.scr (k * (j - 12)) k, scrPois := x.scrPois.filter (fun q => !overlaps (16 * q) 16 (k * (j - 12)) k) }
  else if j < 24 then { x with tal := cellsOut x.tal (k * (j - 16)) k, talPois := x.talPois.filter (fun q => !overlaps (16 * q) 16 (k * (j - 16)) k) }
  else if j < 29 then x
  else { x with pot := [] }

/-- One frame zeroed, and its mark cleared; a quarantined frame stays quarantined. -/
def State.scrubFrame (s : State) (c f pts : Nat) : State × Nat :=
  let r := s.homeWrite pts (65536 * f) (List.replicate 65536 0) false { ctx := c, die := 4, repl := 0 }
  (r.1.modFrame f (fun x => { x with req := none }), r.2)

/-- Whether a frame has a line on an offline channel. -/
def State.frameOff (s : State) (f : Nat) : Bool :=
  !s.offChans.isEmpty && (List.range 1024).any (fun i => s.offChans.contains (s.home (65536 * f + 64 * i)).chan)

/-- The lowest frame that is marked for a context and that its scrub has not passed over. -/
def State.nextFrame (s : State) (c : Nat) (b : Scrub) : Option Nat :=
  (s.frames.find? (fun e => e.2.req = some c && !b.skipped.contains e.1)).map Prod.fst

/-- The next unit of a scrub; a core whose hands are in use holds the scrub back. Frames are visited as they are marked when the scrub reaches them. -/
def State.scrubStep (s : State) (c : Nat) (b : Scrub) : State :=
  let put (t : State) (b : Scrub) (n : Nat) : State :=
    let t1 := t.modCtx c (fun x => { x with scrub := some b, scrubP := x.scrubP + n })
    if b.cores.isEmpty && (t1.nextFrame c b).isNone then t1.scrubEnd c b else t1
  match b.cores, s.nextFrame c b with
  | (r, j) :: rest, _ =>
    if (s.core r).hands.any (fun h => h.2.st ≠ .unformed) then s
    else put (s.modCore r (fun x => x.scrubUnit j)) { b with cores := if j + 1 < 30 then (r, j + 1) :: rest else rest } 1
  | [], some f =>
    if s.frameOff f then put s { b with skipped := b.skipped ++ [f] } 0
    else if s.runBars (65536 * f) 65536 true then s
    else let z := s.scrubFrame c f b.pts; put z.1 { b with pts := z.2 } 1
  | [], none => put s b 0

/-- SCRUB_UNIT: the scrub of a context zeroes its next unit. -/
def execScrubUnit (ctx : Nat) (s : State) : Out :=
  match (s.ctxD ctx).scrub with
  | some b => .next (s.scrubStep ctx b)
  | none => .next s

end Sys2Proof.Machine
end

