-- ==== Sys2Proof/Machine/Outside.lean ====
section
/-! DEFINITION. Sys2Proof/Machine/Outside.lean: the windows of the sharing tables and the buckets, the registers of BAR0, and the
host requests that enter at the XD ordering point (16 R331, R336, 17 R340 to R346, R350, R351, 21 R369 to R371, 22 Table 22.9). -/

namespace Sys2Proof.Machine

/-! ## The sampling window (16 R331) -/

/-- One sharing entry at the end of a window: no raise when a write of the region falls on the same clock (16 Table 16.6). -/
def State.shareEnd (s : State) (key : Nat) (e : Share) : Share :=
  let home := key % 4
  let thr (d : Nat) : Nat := if e.max.contains d then 0 else (s.partOf (key / 4 * 2 ^ 21)).rthr
  let rr (d : Nat) : Nat := kGet 0 d e.rr
  let r := sumBy rr (List.range 4)
  let cand := s.dies.filter (fun d => d ≠ home && !e.rset.contains d && decide (thr d < rr d))
  let e0 := { e with rr := [], w := 0, max := [], bar := false }
  if e.bar || e.wclk = some s.clk || decide (e.w + r ≤ 64 * e.w) then e0
  else
    match leastBy (fun d => 0xFFFF - rr d) cand with
    | none => e0
    | some d =>
      let set := if e.max.isEmpty then insN d e.rset else s.dies.filter (fun x => x ≠ home)
      { e0 with rset := set, g := 1 + set.length }

/-- The end of the sampling window, when it is due. -/
def State.sampleEnd (s : State) : State :=
  if s.sampleAt < s.clk / 65536 then { s with share := s.share.map (fun e => (e.1, s.shareEnd e.1 e.2)), sampleAt := s.clk / 65536 } else s

/-- SAMPLING_WINDOW_END: every 65,536 clocks. -/
def execSamplingWindowEnd (s : State) : Out := .next s.sampleEnd

/-! ## The bandwidth window (16 R335, R336) -/

def quotaDepth (q : W64) : Nat := fld q.toNat 28 16
def quotaRate (q : W64) : Nat := fld q.toNat 11 0

/-- Channels and slice ports of the enabled dies. -/
def State.chanList (s : State) : List Nat := s.dies.flatMap (fun d => (List.range 64).map (fun c => 64 * d + c))
def State.portList (s : State) : List Nat := s.dies.flatMap (fun d => (List.range 32).map (fun p => 32 * d + p))

/-- A bucket refilled. -/
def refill (q : W64) (m : KMap Nat) (k : Nat) : KMap Nat := kPut 0 k (minN (kGet 0 k m + quotaRate q) (quotaDepth q)) m

/-- A context's buckets at a window start, under the settings last written. -/
def State.refillCtx (s : State) (x : Ctx) : Ctx :=
  let h := x.reg 0x150
  let l := x.reg 0x151
  { x with
    hbmq := h, l2q := l
    tokH := if quotaOn h then s.chanList.foldl (refill h) x.tokH else x.tokH
    tokP := if quotaOn l then s.portList.foldl (refill l) x.tokP else x.tokP }

/-- Overflow tokens of a port: what full buckets cannot take. -/
def State.overflowAt (s : State) (k : Nat) : Nat :=
  sumBy (fun x => let l := x.2.reg 0x151; if quotaOn l then kGet 0 k x.2.tokP + quotaRate l - quotaDepth l else 0) s.ctxs

/-- BANDWIDTH_WINDOW: every 2,048 clocks. -/
def execBandwidthWindow (s : State) : Out :=
  .next (if s.bandAt < s.clk / 2048 then
    { s with overflow := s.portList.foldl (fun m k => kPut 0 k (s.overflowAt k) m) []
             ctxs := s.ctxs.map (fun x => (x.1, s.refillCtx x.2)), bandAt := s.clk / 2048 } else s)

/-! ## Descriptors and device registers (17 Tables 17.2, 17.6, 22 Table 22.9) -/

/-- Word i of a partition descriptor. -/
def Part.descWord (p : Part) (i : Nat) : Nat :=
  if i = 0 then (if p.valid then 2 ^ 63 else 0) + p.ports % 256 * 2 ^ 48 + p.acs % 65536 * 2 ^ 32
  else if i ≤ 4 then kGet 0 (i - 1) p.cores
  else if i ≤ 8 then kGet 0 (i - 5) p.chans
  else 0

def State.partWord (s : State) (part i : Nat) : Nat := match kFind part s.parts with | some p => p.descWord i | none => 0

/-- Passing sites of a die, rising. -/
def passing (bad : KMap (List Nat)) (die : Nat) : List Nat := (List.range 52).filter (fun t => !(kGet [] die bad).contains t)

/-- Number of cores of a die. -/
def coreCount (bad : KMap (List Nat)) (die : Nat) : Nat := minN 48 (passing bad die).length

/-- A mask of the n units that a list does not name. -/
def maskBut (n : Nat) (bad : List Nat) : Nat := maskOf ((List.range n).filter (fun i => !bad.contains i))

/-- The enabled units as one descriptor (17 R351). -/
def State.devPart (s : State) : Part :=
  { valid := true, ports := maskBut 8 s.badPorts, acs := maskBut 16 s.badAcs
    cores := s.dies.map (fun d => (d, 2 ^ coreCount s.badSites d - 1))
    chans := s.dies.map (fun d => (d, maskOf ((List.range 64).filter (fun c => !s.badChans.contains (64 * d + c))))) }

/-- Byte s of CMAPd: core number, 0xFD offline, 0xFE failed, 0xFF spare. The passing sites of a disabled die, which have no core number, read as spare
(DESIGN CHOICE, log 58). -/
def State.cmapByte (s : State) (die site : Nat) : Nat :=
  let ps := passing s.badSites die
  if 52 ≤ site then 0
  else if !ps.contains site then 0xFE
  else if !s.dies.contains die then 0xFF
  else
    let n := ps.idxOf site
    if 48 ≤ n then 0xFF else if (s.core { die := die, core := n }).offline then 0xFD else n

/-- FWSTAT (22 Table 22.9). -/
def State.fwstat (s : State) : Nat := (if s.fwRecovery then 1 else 0) + s.fwReason % 16 * 2 ^ 8 + s.fwVersion % 2 ^ 32 * 2 ^ 32

/-- A register that the PF and the Broisk port read, at an offset from 0x100_0000. -/
def State.devReg (s : State) (o : Nat) : Nat :=
  if 0x800 ≤ o ∧ o < 0x900 then ofBytes ((List.range 8).map (fun i => BitVec.ofNat 8 (s.cmapByte ((o - 0x800) / 64) (o % 64 / 8 * 8 + i))))
  else if o = 0x900 then s.fwstat
  else if o = 0xA00 then s.bist.length
  else if 0xA08 ≤ o ∧ o < 0xC08 then (match s.bist[(o - 0xA08) / 8]? with | some f => f.loc % 2 ^ 32 * 2 ^ 32 + f.test % 65536 * 65536 | none => 0)
  else if o = 0xC08 then s.derrt
  else if o = 0xC10 then s.quarn
  else if 0x1000 ≤ o ∧ o < 0x2000 then
    let r := kGet (0#64, 0#64) ((o - 0x1000) / 16) s.derr
    if o % 16 = 0 then r.1.toNat else r.2.toNat
  else 0

/-! ## BAR0 (17 R340, R341) -/

/-- Whether a context page answers a function. -/
def State.ownPage (s : State) (fn c : Nat) : Bool :=
  match s.ctx c with | some x => x.part = partOfFn fn | none => false

/-- A 64-bit register of BAR0 read by a function. The recovery image answers the PF alone (22 R392). -/
def State.barReg (s : State) (fn off : Nat) : Nat :=
  if s.power = .recovery ∧ fn ≠ 0 then 0
  else if off < 0x1000000 then
    let c := off / 65536
    let o := off % 65536
    if s.ownPage fn c && decide (0x1000 ≤ o) && decide (o < 0x9000) then s.pregRead c ((o - 0x1000) / 8) else 0
  else
    let o := off - 0x1000000
    if o < 0x20 then (kGet 0 (4 * fn + o / 8) s.hwin).toNat
    else if 0x100 ≤ o ∧ o < 0x180 then s.partWord (partOfFn fn) ((o - 0x100) / 8)
    else if 0x200 ≤ o ∧ o < 0x280 then s.devPart.descWord ((o - 0x200) / 8)
    else if o = 0x308 then kGet 0 fn s.cresult
    else if fn ≠ 0 then 0
    else if 0x400 ≤ o ∧ o < 0x800 then s.partWord ((o - 0x400) / 128) (o % 128 / 8)
    else s.devReg o

/-- Bytes of BAR0 from an offset on. -/
def State.barRead (s : State) (fn : Nat) : Nat → Nat → List Byte
  | _, 0 => []
  | off, n + 1 => BitVec.ofNat 8 (s.barReg fn (off / 8 * 8) / 2 ^ (8 * (off % 8))) :: s.barRead fn (off + 1) n

/-- A partition descriptor word written by firmware through the PF, before the partitions are sealed (17 R350). -/
def State.ptabWrite (s : State) (part i v : Nat) : State :=
  if s.partsSealed then s
  else
    let p := kGet {} part s.parts
    let put (q : Part) : State := { s with parts := kSet part q s.parts }
    if i = 0 then put { p with valid := bitN v 63, ports := fld v 55 48, acs := fld v 47 32 }
    else if i ≤ 4 then put { p with cores := kPut 0 (i - 1) (v % 2 ^ 48) p.cores }
    else if i ≤ 8 then put { p with chans := kPut 0 (i - 5) v p.chans }
    else s

/-- A 64-bit write of a function to BAR0, at a logical time. -/
def State.barWrite (s : State) (fn off v pts : Nat) : State :=
  if s.power = .recovery ∧ fn ≠ 0 then s
  else if off < 0x1000000 then
    let c := off / 65536
    let o := off % 65536
    if !s.ownPage fn c then s
    else if o = 0 then s.launchWrite c v pts
    else if 0x1000 ≤ o ∧ o < 0x9000 then s.pregWrite c ((o - 0x1000) / 8) v pts
    else s
  else
    let o := off - 0x1000000
    if o < 0x20 then { s with hwin := kPut 0 (4 * fn + o / 8) (BitVec.ofNat 64 (Nat.land v 0x81FFFFFC000000FF)) s.hwin }
    else if o = 0x300 then s.create fn v
    else if fn = 0 ∧ 0x400 ≤ o ∧ o < 0x800 then s.ptabWrite ((o - 0x400) / 128) (o % 128 / 8) v
    else s

/-- REGISTER_WRITE: a host write of 64 bits to a register of BAR0 (14 R296, 17 R341), taken when the four route counters of its requester are zero, at its
logical time (21 R370, R371). -/
def execRegisterWrite (w : HostFn) (off : Nat) (v : W64) (s : State) : Out :=
  .next (if off % 8 = 0 && s.hostClear w.req then s.barWrite w.fn off v.toNat (s.host w.req).pts else s)

/-! ## Host requests (17 R342 to R344, 21 R369 to R371) -/

def State.putHost (s : State) (r : Nat) (a : HostAgent) : State := { s with hosts := kSet r a s.hosts }

/-- The context and virtual address that an offset of BAR2 names; none for a disabled window or a context of another
partition. -/
def State.window (s : State) (fn off : Nat) : Option (Nat × Nat) :=
  let w := (kGet 0 (4 * fn + off / 2 ^ 34) s.hwin).toNat
  let c := fld w 7 0
  if bitN w 63 && decide (off < 2 ^ 36) && s.ownPage fn c then some (c, fld w 56 34 * 2 ^ 34 + off % 2 ^ 34) else none

/-- A host access that faults is dropped and reported (17 R343, 24 R416). -/
def State.hostDrop (s : State) (ctx va req : Nat) (wr : Bool) : State :=
  let s1 := if wr then s.bump ctx 0x161 1 else s
  (s1.faultRecord ctx { kind := 5, req := 3, acc := if wr then 1 else 0, fdie := 4, va := va, who := req % 65536 }).1

/-- A run cut at multiples of 16. -/
def cutPieces (fuel a : Nat) (bs : List (Option Byte)) : List (Nat × List (Option Byte)) :=
  match fuel with
  | 0 => []
  | k + 1 => if bs.isEmpty then [] else let n := 16 - a % 16; (a, bs.take n) :: cutPieces k (a + n) (bs.drop n)

/-- The pieces of a write's payload from a virtual address on, each with the die of its home. -/
def State.piecesOf (s : State) (va pa : Nat) (bs : List (Option Byte)) : List Piece :=
  (cutPieces (bs.length / 16 + 2) va bs).map (fun c => { die := (s.home (pa + (c.1 - va))).die, va := c.1, data := c.2 })

/-- Unacknowledged pieces of a requester on a route. -/
def HostAgent.count (a : HostAgent) (die : Nat) : Nat :=
  sumBy (fun t => (t.pieces.filter (fun p => p.die = die && !p.acked)).length) a.live

/-- A walk made for a requester, which reads the entries as loads at its logical time (16 R327). What the requester does next follows the writes that the walk
saw, unless the walk is unordered with what it has done (25 R430). -/
def State.hostWalk (s : State) (r ctx va : Nat) (ordered : Bool) : State :=
  let a := s.host r
  let t := s.walked ctx va 4 a.pts
  if ordered then t.putHost r { a with pts := maxN a.pts (s.walkTime ctx va) } else t

/-- A host read through a window of a page of 2^lo bytes: bytes from the homes at the requester's logical time; none while an engine has still to write a line
of it. -/
def State.hostRead (s : State) (q : HostReq) (ctx pa repl lo : Nat) : Option State :=
  if s.runBars pa q.len false then none
  else
    let a := s.host q.req
    let s1 := (s.homeReads pa q.len { ctx := ctx, die := 4, repl := repl } a.pts).mark ctx pa lo
    let c : Cpl := { req := q.req, st := if s.memPois pa q.len then .poisoned else .ok, data := s.memRead pa q.len }
    some ({ s1 with cpls := s1.cpls ++ [c] }.putHost q.req { a with pts := maxN a.pts (s.wtsOf pa q.len) })

/-- A read of a requester at its place in T; none when it must wait. -/
def State.takeRead (s : State) (q : HostReq) : Option State :=
  let answer (t : State) (st : CplSt) (bs : List Byte) : State := { t with cpls := t.cpls ++ [{ req := q.req, st := st, data := bs }] }
  if !(s.host q.req).live.isEmpty then none
  else if q.bar = 0 then some (answer s .ok (s.barRead q.fn q.off q.len))
  else
    match s.window q.fn q.off with
    | none => some (answer s .unsupported [])
    | some (ctx, va) =>
      match s.xlate ctx (devNeed false) va with
      | .hit pa _ rp lo => (s.hostWalk q.req ctx va true).hostRead q ctx pa rp lo
      | _ => some (answer ((s.hostWalk q.req ctx va true).hostDrop ctx va q.req false) .abort [])

/-- The 64-bit words of a register write; one that is not whole writes nothing (log 36). -/
def State.barWords (s : State) (q : HostReq) (pts : Nat) : State :=
  if q.off % 8 ≠ 0 then s
  else (List.range (q.data.length / 8)).foldl (fun t i =>
    let w := (q.data.drop (8 * i)).take 8
    if w.all Option.isSome then t.barWrite q.fn (q.off + 8 * i) (ofBytes (w.map (fun b => b.getD 0))) pts else t) s

/-- Whether the pieces of a request would take a route counter past 4,096 (21 R371). -/
def HostAgent.overflows (a : HostAgent) (ps : List Piece) : Bool :=
  (List.range 4).any (fun d => decide (4096 < a.count d + (ps.filter (fun p => p.die = d)).length))

/-- A write of a requester taken at the ordering point; none when it must wait. The walk of a write without Relaxed Ordering
stands after every earlier write of its requester (24 R430). -/
def State.takeWrite (s : State) (q : HostReq) : Option State :=
  let a := s.host q.req
  if q.bar = 0 then (if a.live.isEmpty then some (s.barWords q a.pts) else none)
  else if !q.ro && a.live.any (fun x => x.pieces.any (fun p => !p.applied)) then none
  else
    match s.window q.fn q.off with
    | none => some s
    | some (ctx, va) =>
      match s.xlate ctx (devNeed true) va with
      | .hit pa _ _ lo =>
        let ps := s.piecesOf va pa q.data
        if a.overflows ps then none
        else
          let t := (s.hostWalk q.req ctx va (!q.ro)).mark ctx pa lo
          some (t.putHost q.req { t.host q.req with live := a.live ++ [{ ro := q.ro, ctx := ctx, pieces := ps }] })
      | _ => some ((s.hostWalk q.req ctx va (!q.ro)).hostDrop ctx va q.req true)

/-- Whether a request holds back the requests behind it: it waits for room in a route counter (21 R371). -/
def State.holdsBack (s : State) (q : HostReq) : Bool :=
  !q.data.isEmpty && q.bar ≠ 0 && (match s.window q.fn q.off with
    | some (ctx, va) => (match s.xlate ctx (devNeed true) va with
      | .hit pa _ _ _ => (s.host q.req).overflows (s.piecesOf va pa q.data)
      | _ => false)
    | none => false)

/-- A request that waits at XD, when it can be taken; only a write with Relaxed Ordering passes those before it (17 R344). -/
def State.takeReq (s : State) (first : Bool) (q : HostReq) : Option State :=
  if q.data.isEmpty then (if first then s.takeRead q else none)
  else if first || (q.ro && q.bar ≠ 0) then s.takeWrite q else none

/-- The first of the requests that wait which can be taken: the state once it is, and those that still wait; `before` stand before it. -/
def State.takeNext (s : State) (before : List HostReq) : List HostReq → Option (State × List HostReq)
  | [] => none
  | q :: rest =>
    match s.takeReq before.isEmpty q with
    | some t => some (t, before ++ rest)
    | none => if s.holdsBack q then none else s.takeNext (before ++ [q]) rest

/-- Requests that wait at XD taken, as far as they can be. -/
def State.pump (s : State) (r : Nat) : Nat → State
  | 0 => s
  | n + 1 =>
    match s.takeNext [] (s.host r).waiting with
    | none => s
    | some (t, ws) => (t.putHost r { t.host r with waiting := ws }).pump r n

/-- A request put behind those of its requester that wait. -/
def State.enter (s : State) (q : HostReq) : State :=
  let a := s.host q.req
  (s.putHost q.req { a with waiting := a.waiting ++ [q] }).pump q.req (a.waiting.length + 1)

/-- HOST_WRITE_REQUEST: no request crosses a 4 KiB boundary (21 R369). -/
def execHostWriteRequest (q : HostReq) (s : State) : Out :=
  .next (if q.data.isEmpty || decide (4096 < q.off % 4096 + q.data.length) then s else s.enter q)

/-- HOST_READ_REQUEST. -/
def execHostReadRequest (q : HostReq) (s : State) : Out :=
  .next (if !q.data.isEmpty || decide (4096 < q.off % 4096 + q.len) then s else s.enter q)

/-! ## Pieces (17 R344, 21 R369 to R371) -/

/-- Pieces of a requester in order: number of the request, number of the piece, Relaxed Ordering, and the piece. -/
def HostAgent.flat (a : HostAgent) : List (Nat × Nat × Bool × Piece) :=
  (a.live.mapIdx (fun t x => x.pieces.mapIdx (fun i p => (t, i, x.ro, p)))).flatten

/-- Routes with pieces that have been sent and are not acknowledged, whose counters are not zero (21 R371). -/
def HostAgent.outRoutes (a : HostAgent) : List Nat := a.live.flatMap (fun t => (t.pieces.filter (fun p => p.ord.isSome && !p.acked)).map Piece.die)

/-- Whether XD may send a piece after those before it: pieces of its request stand in order, and a write without Relaxed Ordering
follows every earlier write on another route once that is acknowledged, and goes when the counters of the other routes, `out` those that are not zero, are
zero. -/
def maySend (out : List Nat) (before : List (Nat × Piece)) (t : Nat) (ro : Bool) (p : Piece) : Bool :=
  p.ord.isNone && (ro || out.all (fun d => d = p.die)) && before.all (fun q =>
    if q.1 = t then q.2.ord.isSome && (q.2.die = p.die || q.2.acked)
    else ro || (if q.2.die = p.die then q.2.ord.isSome else q.2.acked))

/-- The first piece that may be sent. -/
def nextSend (out : List Nat) (before : List (Nat × Piece)) : List (Nat × Nat × Bool × Piece) → Option (Nat × Nat)
  | [] => none
  | (t, i, ro, p) :: rest => if maySend out before t ro p then some (t, i) else nextSend out (before ++ [(t, p)]) rest

/-- A change of one piece. -/
def HostAgent.modPiece (a : HostAgent) (t i : Nat) (f : Piece → Piece) : HostAgent :=
  { a with live := a.live.mapIdx (fun j x => if j = t then { x with pieces := x.pieces.mapIdx (fun k p => if k = i then f p else p) } else x) }

/-- XD_PIECE_SEND: a piece leaves with the requester's logical time; when none can, the requests that wait are tried. -/
def execXdPieceSend (req : Nat) (s : State) : Out :=
  let a := s.host req
  match nextSend a.outRoutes [] a.flat with
  | some (t, i) => .next ({ s with order := s.order + 1 }.putHost req (a.modPiece t i (fun p => { p with ord := some s.order, p := a.pts })))
  | none => .next (s.pump req (a.waiting.length + 1))

/-- The translation of a piece at its place in T: where its bytes go, with REPL and the page size. -/
def State.piecePlace (s : State) (ctx : Nat) (p : Piece) : Option (Nat × Nat × Nat) :=
  match s.xlate ctx (devNeed true) p.va with
  | .hit pa _ rp lo => some (pa, rp, lo)
  | _ => none

/-- Whether an engine claim bars a piece. -/
def State.pieceBarred (s : State) (ctx : Nat) (p : Piece) : Bool :=
  match s.piecePlace ctx p with
  | some (pa, _, _) => s.claimBars .mem { die := 0, core := 0 } (lineOf pa) true
  | none => false

/-- The piece that is applied next on a route: of those sent and not yet applied, the first that no claim bars; without Relaxed Ordering it waits for
every earlier one of the route, else for those of its own request (21 R370). -/
def State.arriving (s : State) (a : HostAgent) (die : Nat) : Option (Nat × Nat × Bool × Piece) :=
  let ps := a.flat.filter (fun e => e.2.2.2.die = die && e.2.2.2.ord.isSome && !e.2.2.2.applied)
  leastBy (fun e => e.2.2.2.ord.getD 0) (ps.filter (fun e =>
    ps.all (fun b => decide (e.2.2.2.ord.getD 0 ≤ b.2.2.2.ord.getD 0) || (e.2.2.1 && b.1 ≠ e.1))
      && !s.pieceBarred (match a.live[e.1]? with | some x => x.ctx | none => 0) e.2.2.2))

/-- Runs of enabled bytes, each with its place. -/
def enabledRuns (i : Nat) : List (Option Byte) → List (Nat × List Byte)
  | [] => []
  | none :: bs => enabledRuns (i + 1) bs
  | some b :: bs =>
    match enabledRuns (i + 1) bs with
    | (j, r) :: rs => if j = i + 1 then (i, b :: r) :: rs else (i, [b]) :: (j, r) :: rs
    | [] => [(i, [b])]

/-- The enabled bytes of a piece written at their home, as one event at a logical time. -/
def State.pieceWrite (s : State) (w pa : Nat) (data : List (Option Byte)) (f : From) : State :=
  match enabledRuns 0 data with
  | [] => s
  | r :: rs => rs.foldl (fun a q => (a.memPut (pa + q.1) q.2).secWrite (pa + q.1) q.2.length false (sectorOf pa)) (s.lineWrite w (pa + r.1) r.2 false f)

/-- HOST_PIECE_APPLY: the next piece of a route is applied at its home; one whose page is no longer mapped for writing is dropped (17 R343). -/
def execHostPieceApply (req die : Nat) (s : State) : Out :=
  let a := s.host req
  match s.arriving a die with
  | none => .next s
  | some (t, i, ro, p) =>
    let x := a.live.getD t { ro := ro, ctx := 0, pieces := [] }
    let done (u : State) (w q : Nat) : State :=
      let a1 := a.modPiece t i (fun p => { p with applied := true, p := w })
      u.putHost req { a1 with q := kSet die q a1.q, live := a1.live.mapIdx (fun j y => if j = t then { y with qreq := maxN y.qreq w } else y) }
    let q := kGet 0 die a.q
    .next (match s.piecePlace x.ctx p with
      | none => done ((s.walked x.ctx p.va 4 p.p).hostDrop x.ctx p.va req true) 0 q
      | some (pa, rp, lo) =>
        let w := s.writeTime (maxN (if ro then maxN p.p x.qreq else maxN (maxN p.p q) x.qreq) (s.walkTime x.ctx p.va)) [lineOf pa]
        done (((s.walked x.ctx p.va 4 p.p).mark x.ctx pa lo).pieceWrite w pa p.data { ctx := x.ctx, die := 4, repl := rp }) w (maxN q w))

/-- Pieces of a request that one acknowledgement covers: a part is a run of pieces on one route, applied to its last. -/
def ackRun (die : Nat) (ps : List Piece) : List Nat :=
  let idx := List.range ps.length
  let on (i : Nat) : Bool := match ps[i]? with | some p => p.die = die | none => false
  let waits (i : Nat) : Bool := match ps[i]? with | some p => p.die = die && !p.applied | none => false
  let due (i : Nat) : Bool := match ps[i]? with | some p => p.die = die && p.applied && !p.acked | none => false
  idx.filter (fun i => due i && !idx.any (fun j => decide (i < j) && waits j && (List.range (j - i)).all (fun k => on (i + k))))

/-- ROUTE_ACK: the home acknowledges a part, and the requester's logical time follows its writes. -/
def execRouteAck (req die : Nat) (s : State) : Out :=
  let a := s.host req
  match (a.live.mapIdx (fun t x => (t, ackRun die x.pieces))).find? (fun e => !e.2.isEmpty) with
  | none => .next s
  | some (t, is) =>
    let w := is.foldl (fun v i => match a.flat.find? (fun e => e.1 = t && e.2.1 = i) with | some e => maxN v e.2.2.2.p | none => v) a.pts
    let a1 := is.foldl (fun (b : HostAgent) i => b.modPiece t i (fun p => { p with acked := true })) a
    .next ((s.putHost req { a1 with pts := w, live := a1.live.filter (fun x => !x.pieces.all (fun p => p.acked)) }).pump req (a.waiting.length + 1))

/-! ## Keys, reports and frames (17 R346, R354) -/

/-- Channels that can be reached: of the enabled dies, neither failed nor offline. -/
def State.liveChans (s : State) : List Nat := s.chanList.filter (fun c => !s.badChans.contains c && !s.offChans.contains c)

/-- KEY_LOAD: the application cores load a protected context's key into its slot at every channel (01 R19, 17 R354). -/
def execKeyLoad (k : SlotKey) (s : State) : Out :=
  .next (if (s.ctxD k.ctx).prot && (s.ctx k.ctx).isSome then
    s.modCtx k.ctx (fun x => { x with kstate := 1, slots := s.liveChans.foldl (fun m c => kPut 0 c k.key m) x.slots }) else s)

/-- ATTESTATION_REPORT: firmware measurements, the partition descriptor and the context's KSTATE, signed (log 19). -/
def execAttestationReport (ctx : Nat) (s : State) : Out :=
  match if s.power = .off || s.power = .held then none else s.ctx ctx with
  | none => .next s
  | some x =>
    let ws := [s.fwstat] ++ (List.range 16).map (s.partWord x.part) ++ [x.kstate]
    .next { s with reports := s.reports ++ [{ ctx := ctx, words := ws, sig := attest ws }] }

/-- ETHERNET_FRAME_DELIVER: a frame of another EtherType goes to the application cores of the partition that owns the port. -/
def execEthernetFrameDeliver (port : Nat) (data : List Byte) (s : State) : Out :=
  match s.parts.find? (fun e => e.2.valid && bitN e.2.ports port) with
  | some e => .next (if port < 8 && !s.badPorts.contains port then { s with frameOut := s.frameOut ++ [(e.1, port, data)] } else s)
  | none => .next s

end Sys2Proof.Machine
end

