-- ==== Sys2Proof/Machine/Failure.lean ====
section
/-! DEFINITION. Sys2Proof/Machine/Failure.lean: errors that the hardware finds in registers, hands, cores and cached copies, and
what a boot does with the units that fail and with the state that survives (22 R376, R388 to R392, 24 R421, R424, R425, 17 R357,
26 R437). -/

namespace Sys2Proof.Machine

/-! ## Register errors (24 R424) -/

/-- The file of a failing register (22 Table 22.7): l0 and l1 belong with the operand file (log 30). -/
def siteSub : RegSite → Nat
  | .v _ => 1
  | .o _ | .l _ => 2

/-- Whether a register is in the live set of a cut. -/
def Cut.keeps (c : Cut) : RegSite → Bool
  | .v n => c.ranges.any (fun r => decide (r.start ≤ n) && decide (n < r.start + r.len))
  | _ => false

/-- What is still due to a lane of a hand is dropped when it returns, and what it has parked is discarded (06 R156). -/
def State.voidLane (s : State) (h : HandRef) (l : Nat) : State :=
  let gen := (s.hand h).gen
  let t := s.dropParked (fun r => decide (r.h = h) && r.gen = gen && r.lane = l)
  { t with
    ops := t.ops.map (fun (e : Nat × Op) => (e.1, if e.2.h = h && e.2.gen = gen then
      { e.2 with lanes := e.2.lanes.map (fun (x : LaneOp) => if x.lane = l && s.holds e.2 x then x.voided e.2.kind else x) } else e.2))
    claims := t.claims.map (fun (e : Nat × ClaimReq) => (e.1, if e.2.h = h && e.2.gen = gen && e.2.lane = l then { e.2 with void := true } else e.2)) }

/-- An unsealed lane rewinds alone. -/
def State.rewindLane (s : State) (h : HandRef) (l : Nat) (c : Cut) (sub : Nat) : State :=
  (((({ s with nextEpoch := s.nextEpoch + 1 }.voidLane h l).modHand h (fun d =>
    Hand.sweep (d.modLane l (fun ln => { ln.rewind s.nextEpoch c with claimsDue := 0 })))).reseed h l).wake h).devErr 1 0 (s.locCore h.cr sub)

/-- W4 of the record of a kill for an error in a lane: its suit, where it is Active in one. -/
def State.laneWho (s : State) (h : HandRef) (l kern : Nat) : Nat :=
  let d := s.hand h
  whoWord kern d.gen (h.sr (match (d.lane l).st with | .active n => n | _ => 0)) (s.kernD d.ctx kern).lrec.pl

/-- The kill of a table that has ended already, of which a lane is still Pinned: its estates are discarded, and the record is written (24 R424, R428). -/
def State.killEnded (s : State) (h : HandRef) (l kern table : Nat) : State :=
  let ctx := (s.hand h).ctx
  let f1 := (s.kernD ctx kern).lrec.fan1
  let s1 := s.modCore h.cr (fun c => { c with hands := c.hands.map (fun x => (x.1, if x.2.ctx = ctx then
    Hand.sweepSets { x.2 with lanes := x.2.lanes.map (fun n => (n.1, match n.2.st, n.2.estate with
      | .pinned, some e => if e.kern = kern && e.item / f1 = table then n.2.idle else n.2
      | _, _ => n.2)) } else x.2)) })
  (s1.report ctx { kind := 0x10, code := 1, cmask := [l], item := (s.hand h).itemOf [l], who := s.laneWho h l kern, arg0 := table, arg1 := s.locCore h.cr 0, die := h.die }).1

/-- The table of a lane killed for an error in what it holds. -/
def State.killLane (s : State) (h : HandRef) (l : Nat) : State :=
  let d := s.hand h
  match (d.lane l).item, (d.lane l).estate with
  | some it, _ => s.killTable h it.kern it.table 1 [l] (s.laneWho h l it.kern)
  | none, some e =>
    let t := e.item / (s.kernD d.ctx e.kern).lrec.fan1
    if (kFind t (s.kernD d.ctx e.kern).tables).isSome then s.killTable h e.kern t 1 [l] (s.laneWho h l e.kern) else s.killEnded h l e.kern t
  | none, none => s

/-- Whether a save reads a register of a lane: the live set of one that goes back, all of one that is saved whole, and the data of an estate (15 R320). -/
def State.saveReads (s : State) (h : HandRef) (l : Nat) (r : RegSite) : Bool :=
  match (s.hand h).back l with
  | some c => c.keeps r
  | none => (s.lane h l).item.isSome || (s.lane h l).estate.isSome

/-- What reading a failing register of a lane does. -/
def State.regError (s : State) (h : HandRef) (lane : Nat) (r : RegSite) : State :=
  match (s.lane h lane).back with
  | some c => if c.keeps r then s.killLane h lane else s.rewindLane h lane c (siteSub r)
  | none => s.killLane h lane

/-- REGISTER_ERROR: a failing register of a lane is read: by an instruction of its suit or, of a Pinned lane, by a claim or an eviction; a held lane is read no
sooner than it resumes (24 R428). A save that reads it ends (24 R427). -/
def execRegisterError (h : HandRef) (lane : Nat) (r : RegSite) (s : State) : Out :=
  let ctx := (s.hand h).ctx
  .next (if s.saving ctx then (if s.saveReads h lane r then s.saveFail ctx (s.locCore h.cr (siteSub r)) else s)
    else match (s.lane h lane).st with
      | .active _ | .pinned => s.regError h lane r
      | _ => s)

/-! ## A hand's own state (24 R425) -/

/-- A table killed that holds a lane of a hand Reserved for its items. -/
def State.killReserved (s : State) (h : HandRef) (l : Nat) : State :=
  let d := s.hand h
  match (d.lane l).st with
  | .reserved kn t => s.killTable h kn t 1 [l] (s.laneWho h l kn)
  | _ => s

/-- HAND_STATE_ERROR: every table with a lane in the hand is killed, by what the lanes hold and then by what they are Reserved for. A save that the hand's state is
read for ends (24 R427). -/
def execHandStateError (h : HandRef) (s : State) : Out :=
  .next (if s.saving (s.hand h).ctx && (s.hand h).st ≠ .unformed then s.saveFail (s.hand h).ctx (s.locCore h.cr 0)
    else (List.range 32).foldl (fun a l => a.killReserved h l) ((List.range 32).foldl (fun a l => a.killLane h l) s))

/-! ## A core that goes offline (22 R390, R393) -/

/-- Tables of a context on a core killed for reason 2. -/
def State.killOn (s : State) (ctx : Nat) (c : CoreRef) : State :=
  ((s.ctxD ctx).kerns.flatMap (fun k => (k.2.tables.filter (fun t => t.2.core = c)).map (fun t => (k.1, t.1)))).foldl (fun a p =>
    a.killIn ctx (c.hr 0) p.1 p.2 2 [] 0 (whoWord p.1 0 ((c.hr 0).sr 0) (a.kernD ctx p.1).lrec.pl)) s

/-- Contexts with state in a core that no hand holds: a saved hand, or a claim on its scratchpad or talon (22 R390, R393; log 37). -/
def State.lostIn (s : State) (c : CoreRef) : List Nat :=
  (s.ctxs.filter (fun x => x.2.saves.any (fun v => v.core = c && !v.hands.isEmpty) ||
    s.ops.any (fun e => e.2.ctx = x.1 && e.2.h.cr = c && (match e.2.kind with | .engine g => g.held.any (fun k => k.at_.sp ≠ .mem) | _ => false)))).map Prod.fst

/-- CORE_OFFLINE: the core's tables are killed, its hands released, and it draws nothing more. -/
def execCoreOffline (c : CoreRef) (s : State) : Out :=
  if (s.core c).offline then .next s
  else
    let loc := s.locCore c 0
    let lost := s.lostIn c
    let s1 := (s.modCore c (fun x => { x with offline := true })).devErr 2 0 loc
    let s2 := s1.ctxs.foldl (fun a x => a.killOn x.1 c) s1
    let hs := (s2.handList.filter (fun h => h.cr = c))
    let s3 := (hs.foldl (fun a h => (a.keepPts h).letGo h) s2).modCore c (fun x => { x with contq := [], serves := none, l1 := [], tlb := [] })
    .next (lost.foldl (fun a x => a.halt x 0x25 { kind := 0x25, arg0 := loc }) s3)

/-! ## Errors that are corrected or contained (22 R376, 24 R419, R421, R425) -/

/-- The data of a sector lost: what its bytes now hold is unknown, and it is poisoned at its home (log 3). -/
def State.loseSector (s : State) (sec : Nat) : State :=
  let bs := (List.range 4).flatMap (fun i => bytesOf 4 (Config.undefWord s.nextEpoch i).toNat)
  ({ s with nextEpoch := s.nextEpoch + 1 }.memPut (16 * sec) bs).poison sec

/-- Sectors of a line under a core's unpublished stores. -/
def Core.storedIn (x : Core) (line : Nat) : List Nat := (List.range 4).map (fun j => 4 * line + j) |>.filter (fun k => x.cbuf.any (fun c => overlaps c.pa c.data.length (16 * k) 16))

/-- CACHE_ERROR: a clean copy is dropped; a dirty sector is lost and poisoned at its home. Other errors poison what they are found in, or are recorded as
corrected. -/
def execCacheError (x : CacheSite) (s : State) : Out :=
  match x with
  | .l1 c line =>
    let secs := (s.core c).storedIn line
    let s0 := s.modCore c (fun y => { y with l1 := kErase line y.l1, cbuf := y.cbuf.filter (fun b => lineOf b.pa ≠ line) })
    let s1 := ((s.core c).cbuf.filter (fun b => lineOf b.pa = line)).foldl (fun (a : State) b => a.arrive b.op b.lane []) s0
    .next (if !secs.isEmpty then secs.foldl State.loseSector s1
      else if (kFind line (s.core c).l1).isSome then s1.devErr 0 0 (s.locCore c 3) else s)
  | .replica die line =>
    .next (if (kFind (replicaKey die line) s.replicas).isSome then
      { s with replicas := kErase (replicaKey die line) s.replicas }.devErr 0 0 (locSlice die (s.home (64 * line)).slice) else s)
  | .home line sector =>
    let h := s.home (64 * line)
    .next (match kFind line s.slices with
      | none => s
      | some e =>
        if (kFind sector e.dirty).isSome && sector < 4 then { s with slices := kSet line { held := e.held.filter (fun k => k ≠ sector), dirty := kErase sector e.dirty } s.slices }.loseSector (4 * line + sector)
        else { s with slices := kErase line s.slices }.devErr 0 0 (locSlice h.die h.slice))
  | .hbm sector => .next (s.loseSector sector)
  | .checksum c n => .next (s.setSlot c n { s.slot c n with pois := true })
  | .scale c n col =>
    .next (if col < 64 then s.setSlot c n { s.slot c n with scale := kPut scaleOne col ((kGet scaleOne col (s.slot c n).scale).1, true) (s.slot c n).scale } else s)
  | .talon c sector => .next (s.modCore c (fun y => { y with talPois := insN sector y.talPois }))
  | .corrected loc mech => .next (if mech < 2 then s.devErr 0 mech loc else s)

/-! ## Device-fatal errors (22 R376) -/

/-- DEVICE_FATAL_ERROR: the record of class 3, the report, and the wait for a reset. -/
def execDeviceFatalError (loc : Nat) (s : State) : Out :=
  let s1 := s.devErr 3 0 loc
  .next { s1 with fatalOut := s1.fatalOut ++ [loc], power := .awaitReset }

end Sys2Proof.Machine
end

