-- ==== Sys2Proof/Machine/Boot.lean ====
section
/-! DEFINITION. Sys2Proof/Machine/Boot.lean: cold and warm resets, the boot of firmware or of the recovery image, self-test, and the
loss of power (01 R20, R21, 17 R357, 22 R388, R389, R392, 26 R437). -/

namespace Sys2Proof.Machine

/-! ## Self-test (22 Table 22.8) -/

/-- Failing units of one TYPE as (place, site, sub). -/
def unitsOf (ty : Nat) (fs : List UnitFail) : List (Nat × Nat × Nat) :=
  (fs.filter (fun f => fld f.loc 31 28 = ty)).map (fun f => (fld f.loc 27 24, fld f.loc 23 16, fld f.loc 15 0))

/-- Numbers of failing units, rising. -/
def numsOf (f : Nat × Nat × Nat → Nat) (l : List (Nat × Nat × Nat)) : List Nat := l.foldl (fun a u => insN (f u) a) []

/-- What self-test finds, by kind of unit. -/
structure SelfTest where
  sites : KMap (List Nat)
  slices : List Nat
  chans : List Nat
  links : List Nat
  engines : List Nat
  ports : List Nat
  acs : List Nat
  /-- the host port, the ordering point, the key port or the package flash failed -/
  unusable : Bool

def selfTest (fs : List UnitFail) : SelfTest :=
  let xd := unitsOf 5 fs
  { sites := (unitsOf 0 fs).foldl (fun m u => kSet u.1 (insN u.2.1 (kGet [] u.1 m)) m) []
    slices := numsOf (fun u => 32 * u.1 + u.2.1) (unitsOf 1 fs)
    chans := numsOf (fun u => 32 * (u.1 - 8) + u.2.1) (unitsOf 2 fs)
    links := numsOf (fun u => 2 * u.1 + u.2.1) (unitsOf 3 fs)
    engines := numsOf (fun u => 4 * (u.1 - 8) + u.2.1) (unitsOf 4 fs)
    ports := numsOf (fun u => u.2.2) (xd.filter (fun u => u.2.1 = 1))
    acs := numsOf (fun u => u.2.2) (xd.filter (fun u => u.2.1 = 2))
    unusable := xd.any (fun u => u.2.1 = 0 || u.2.1 = 3 || u.2.1 = 4 || u.2.1 = 5) }

/-- Whether a die has what it needs of its own: its link to XD, a passing site, a channel, one slice of each pair and one engine
of each kind. -/
def SelfTest.dieOk (t : SelfTest) (d : Nat) : Bool :=
  !t.links.contains (2 * d + 1) && coreCount t.sites d ≠ 0 && (List.range 64).any (fun c => !t.chans.contains (64 * d + c)) &&
    (List.range 16).all (fun p => !(t.slices.contains (32 * d + 2 * p) && t.slices.contains (32 * d + 2 * p + 1))) &&
    (List.range 3).all (fun e => !(t.engines.contains (8 * d + e) && t.engines.contains (8 * d + 4 + e)))

/-- Dies that a set of dies reaches in one more step over working ring links. -/
def SelfTest.spread (t : SelfTest) (ds r : List Nat) : List Nat :=
  ds.filter (fun d => r.contains d || (r.contains ((d + 1) % 4) && !t.links.contains (2 * d)) || (r.contains ((d + 3) % 4) && !t.links.contains (2 * ((d + 3) % 4))))

/-- Whether dies can all reach one another through enabled dies. -/
def SelfTest.joined (t : SelfTest) (ds : List Nat) : Bool :=
  match ds with
  | [] => true
  | d :: _ => t.spread ds (t.spread ds (t.spread ds [d])) = ds

/-- Dies disabled, the one with the fewest cores and then the lowest first, until the others are joined. -/
def SelfTest.prune (t : SelfTest) : Nat → List Nat → List Nat
  | 0, ds => ds
  | n + 1, ds => if t.joined ds then ds else match leastBy (coreCount t.sites) ds with | some d => t.prune n (ds.filter (fun x => x ≠ d)) | none => ds

def SelfTest.dies (t : SelfTest) : List Nat := t.prune 4 ((List.range 4).filter t.dieOk)

/-! ## Partitions and pools (17 R350, 16 R324; logs 7, 59) -/

/-- Cores, or channels, of a partition on a die. -/
def Part.coresOn (p : Part) (d : Nat) : List Nat := bitList 48 (kGet 0 d p.cores)
def Part.chansOn (p : Part) (d : Nat) : List Nat := bitList 64 (kGet 0 d p.chans)

/-- Whether every resource of a partition is one of another. -/
def Part.within (p q : Part) : Bool :=
  (bitList 8 p.ports).all (bitN q.ports) && (bitList 16 p.acs).all (bitN q.acs) &&
    (List.range 4).all (fun d => (p.coresOn d).all (bitN (kGet 0 d q.cores)) && (p.chansOn d).all (bitN (kGet 0 d q.chans)))

/-- Whether two partitions share no resource. -/
def Part.apart (p q : Part) : Bool :=
  !(bitList 8 p.ports).any (bitN q.ports) && !(bitList 16 p.acs).any (bitN q.acs) &&
    (List.range 4).all (fun d => !(p.coresOn d).any (bitN (kGet 0 d q.cores)) && !(p.chansOn d).any (bitN (kGet 0 d q.chans)))

/-- Whether a descriptor holds what R350 asks of partition n: a core, a channel, port En, and application cores AC(2n) and AC(2n+1), all of them enabled. -/
def Part.lawful (p : Part) (dev : Part) (n : Nat) : Bool :=
  p.within dev && (List.range 4).any (fun d => !(p.coresOn d).isEmpty) && (List.range 4).any (fun d => !(p.chansOn d).isEmpty) &&
    bitN p.ports n && bitN p.acs (2 * n) && bitN p.acs (2 * n + 1)

/-- GiB of a partition's interleaved pool, two for each channel, and of its die pools, one for each. -/
def Part.poolSize (p : Part) (dies : List Nat) : Nat := 2 * sumBy (fun d => (p.chansOn d).length) dies

/-- A partition with its pools, which lie behind those of the partitions before it. -/
def State.withPools (s : State) (before : List Part) (p : Part) : Part :=
  let base (d : Nat) : Nat := if d = 3 then 0xC000000000 else 0x1000000000 * (d + 1)
  { p with
    ipool := (0x4000000000 + 2 ^ 30 * sumBy (fun q => q.poolSize s.dies) before, p.poolSize s.dies)
    dpools := s.dies.map (fun d => (d, base d + 2 ^ 30 * sumBy (fun q => (q.chansOn d).length) before, (p.chansOn d).length)) }

/-- The descriptors as they are sealed, in rising order: one that claims V and breaches R350 is left with V 0 (log 59). -/
def State.sealParts (s : State) : State :=
  let step (a : KMap Part × List Part) (n : Nat) : KMap Part × List Part :=
    match kFind n s.parts with
    | none => a
    | some p =>
      if p.valid && p.lawful s.devPart n && a.2.all p.apart then (let q := s.withPools a.2 p; (kSet n q a.1, a.2 ++ [q]))
      else (kSet n { p with valid := false } a.1, a.2)
  { s with parts := ((List.range 8).foldl step ([], [])).1, partsSealed := true }

/-- A partition with its interleave tables as firmware writes them: a table of the right length whose entries all name enabled dies, or channels, of the
partition; another leaves the boot default (04 R88; log 59). -/
def State.withTables (s : State) (b : BootIn) (n : Nat) (p : Part) : Part :=
  let die := (b.dietabs.filter (fun t => t.1 = n && t.2.length = 96 && t.2.all (s.partDies p).contains)).getLast?
  { p with
    dietab := die.map Prod.snd
    chtab := (b.chtabs.filter (fun t => t.1 = n && t.2.2.length = 1024 && t.2.2.all (s.partChans p t.2.1).contains)).foldl (fun m t => kSet t.2.1 t.2.2 m) [] }

/-- The writes that firmware makes to the partition descriptors before it seals them; without any, one partition of every enabled unit. The interleave tables follow. -/
def State.bootParts (s : State) (b : BootIn) : State :=
  let s1 := { s with partsSealed := false, parts := if b.ptab.isEmpty then [(0, s.devPart)] else [] }
  let s2 := ((b.ptab.filter (fun w => decide (w.1 < 8))).foldl (fun a w => a.ptabWrite w.1 w.2.1 w.2.2) s1).sealParts
  { s2 with parts := s2.parts.map (fun (e : Nat × Part) => (e.1, s2.withTables b e.1 e.2)) }

/-! ## Boot (17 R357, 22 R392) -/

/-- Whether an image verifies: the hash of its key is the one in the fuses, and its signature over its SHA-384 verifies (17 R357; log 41). -/
def Flash.verifies (f : Flash) (i : FwImage) : Bool :=
  decide (sha384 i.key = f.keyHash) && ecdsaVerify i.key (sha384 i.image) i.sig

/-- Why the primary image is not booted; 0 when it is. -/
def Flash.reason (f : Flash) (unusable : Bool) : Nat :=
  if f.request then 5
  else if !f.primary.readable then 3
  else if !f.verifies f.primary then 1
  else if f.primary.version < f.rollback then 2
  else if unusable then 4
  else 0

/-- Whether the recovery image boots: it is verified as the primary is. -/
def Flash.recoveryGood (f : Flash) : Bool := f.recovery.readable && f.verifies f.recovery && decide (f.rollback ≤ f.recovery.version)

/-- What a reset leaves, before anything boots: package flash and fuses, HBM with its records after a warm reset, and what has
left the device. -/
def State.residue (s : State) (cold : Bool) : State :=
  { State.reset with
    flash := s.flash
    mem := if cold then [] else s.mem
    frames := if cold then [] else s.frames.map (fun (e : Nat × Frame) => (e.1, { e.2 with told := [] }))
    pois := if cold then [] else s.pois.map (fun e => (e.1, e.2.map (fun (x : PoisEnt) => { x with told := [] })))
    quarn := if cold then 0 else s.quarn
    cpls := s.cpls, msis := s.msis, replies := s.replies, reports := s.reports, frameOut := s.frameOut, fatalOut := s.fatalOut
    agenda := s.agenda, leaseChoices := s.leaseChoices, grantChoices := s.grantChoices, freeCount := s.freeCount, nextEpoch := s.nextEpoch }

/-- A boot after a reset. -/
def State.boot (s : State) (cold : Bool) (b : BootIn) : State :=
  let t := selfTest b.failing
  let why := s.flash.reason t.unusable
  let r := { s.residue cold with
    dies := t.dies, badSites := t.sites, badChans := t.chans, badSlices := t.slices, badLinks := t.links, badEngines := t.engines
    badPorts := t.ports, badAcs := t.acs, bist := b.failing }
  if why = 0 then
    { r with
      fwVersion := s.flash.primary.version, flash := { s.flash with rollback := maxN s.flash.rollback s.flash.primary.minVersion } }.bootParts b
  else
    { r with
      flash := { s.flash with request := false }, fwRecovery := true, fwReason := why, fwVersion := if s.flash.recoveryGood then s.flash.recovery.version else 0, parts := []
      power := if s.flash.recoveryGood then .recovery else .held }

/-- COLD_RESET: package flash and the fuses alone survive, and the boot scrubs memory. -/
def execColdReset (b : BootIn) (s : State) : Out := .next (s.boot true b)

/-- WARM_RESET: HBM is kept in self-refresh, and everything on the dies is lost. -/
def execWarmReset (b : BootIn) (s : State) : Out := .next (if s.power = .off then s else s.boot false b)

/-- POWER_LOSS: nothing is left but package flash and the fuses. -/
def execPowerLoss (s : State) : Out := .next { s.residue true with power := .off, parts := [] }

/-- FIRMWARE_UPDATE: an image that comes over the Broisk port, which works whenever the module is powered, is verified, written to flash, and a warm reset is
requested (17 R358, 22 R392). -/
def execFirmwareUpdate (f : FwImage) (s : State) : Out :=
  .next (if s.power ≠ .off && s.power ≠ .held && f.readable && s.flash.verifies f && decide (s.flash.rollback ≤ f.version) then
    { s with flash := { s.flash with primary := f }, agenda := .event (.warmReset { failing := s.bist }) :: s.agenda } else s)

/-- RECOVERY_REQUEST: the recovery image is booted, for reason 5. The port of a device that is held answers only with FWSTAT (22 R392). -/
def execRecoveryRequest (s : State) : Out :=
  .next (if s.power = .off || s.power = .held then s else { s with flash := { s.flash with request := true } }.boot false { failing := s.bist })

end Sys2Proof.Machine
end

