-- ==== Sys2Proof/Machine/Lanes.lean ====
section
/-! DEFINITION. Sys2Proof/Machine/Lanes.lean: the lane and collective instructions (10). -/

namespace Sys2Proof.Machine

/-! ## Groups (10 R215) -/

/-- P: the executing lanes, cut down by the mask of the lowest one. -/
def Iss.members (x : Iss) (k : Coll) (c : Src) : List Nat :=
  if k.msk then
    match x.ex with
    | [] => []
    | l :: _ => let m := x.val .w32 l c; x.ex.filter (bitN m)
  else x.ex

/-- The group of a lane of P: all of P, or its lanes of the same table. -/
def Iss.group (x : Iss) (k : Coll) (p : List Nat) (l : Nat) : List Nat :=
  match k.scope with
  | .suit => p
  | .tbl => p.filter (fun j => (x.item j).table = (x.item l).table)

/-- Number of lanes of a group below a lane. -/
def rankIn (g : List Nat) (l : Nat) : Nat := (g.filter (fun j => decide (j < l))).length

/-- A collective: the mask and its lease, the leases of every register read or written in the lanes of P (10 R216), the windows, then the
outcome of each lane of P from its group. A poisoned mask kills without regard to the leases of P, which it does not yet say, and after an index trap of a
window (DESIGN CHOICE, log 44). -/
def collect (g : Grd) (major dn : Nat) (k : Coll) (d : Dst) (srcs : List (Nat × Src)) (c : Src) (s : State)
    (f : Iss → List Nat → List Nat → Nat → LaneOut) : Out :=
  let u := useOf g major dn d (srcs ++ [(1, c)])
  issue { u with wins := [], keys := [] } s (fun x =>
    let low := x.ex.take 1
    let b0 := x.leasesOf low (if k.msk then srcKeys 1 c else [])
    let kill := if k.msk then low.filter (fun l => x.pois .w32 l c) else []
    let p := x.members k c
    let b1 := x.leasesOf p u.keys
    if !b0.isEmpty then x.stall .lease b0
    else if kill.isEmpty && !b1.isEmpty then x.stall .lease b1
    else
      match x.winTrap u u.wins with
      | some t => t
      | none => x.control kill
          (let y := { x with ex := p }
           (y.commit (fun l => f x p (x.group k p l) l)).advance x.r))

/-- A result of one word or a pair. -/
def outN (wide : Bool) (d : Dst) (v : Nat) (p : Bool) : LaneOut := if wide then out64 d v p else out32 d v p

def wOf (w64 : Bool) : OW := if w64 then .w64 else .w32
def nOf (w64 : Bool) : Nat := if w64 then 2 else 1

/-- SHFL (10 R217). Which values poison what it writes (DEDUCED, log 44): D by the A moved and by B; the predicate, which says whether a lane of
the rank exists, by B alone; s.psum is set by every poisoned value that the lane reads, its own A among them (08 R184). -/
def execShfl (g : Grd) (k : Coll) (m : ShflMode) (w64 : Bool) (d : Dst) (a b c : Src) (s : State) : Out :=
  collect g 0x50 (nOf w64) k d [(nOf w64, a), (1, b)] c s (fun x _ gr l =>
    let r := rankIn gr l
    let n := x.val .w32 l b
    let src : Option Nat := match m with
      | .idx => some n
      | .up => if n ≤ r then some (r - n) else none
      | .down => some (r + n)
      | .xor => some (Nat.xor r n)
    let from_ := src.bind (fun q => gr[q]?)
    let j := from_.getD l
    let p := x.pois (wOf w64) j a || x.pois .w32 l b
    let o := outN w64 d (x.val (wOf w64) j a) p
    { o with pr := if k.pen then [(k.pd, from_.isSome, x.pois .w32 l b)] else [], eats := p || x.pois (wOf w64) l a })

/-- VOTE (10 R218). The predicate of BALLOT is computed from the lane's own A alone and takes that one's poison (DEDUCED, log 44). -/
def execVote (g : Grd) (k : Coll) (m : VoteMode) (d : Dst) (a c : Src) (s : State) : Out :=
  collect g 0x51 1 k d [(1, a)] c s (fun x _ gr l =>
    let t (j : Nat) : Bool := x.val .w32 j a ≠ 0
    let p := gr.any (fun j => x.pois .w32 j a)
    let v : Nat := match m with
      | .all => (gr.all t).toNat
      | .any => (gr.any t).toNat
      | .uni => (gr.all t || gr.all (fun j => !t j)).toNat
      | .ballot => maskOf (gr.filter t)
    let pb := if m = .ballot then (t l, x.pois .w32 l a) else (decide (v ≠ 0), p)
    { out32 d v p with pr := if k.pen then [(k.pd, pb.1, pb.2)] else [], eats := p })

/-- Word operations of reductions on values of width w (10 Table 10.3). -/
def redInt (op : RedOp) (a b : Nat) : Nat :=
  match op with
  | .add => (a + b) % 2 ^ 32
  | .minz => minN a b
  | .mins => if sext 32 a ≤ sext 32 b then a else b
  | .maxz => maxN a b
  | .maxs => if sext 32 a ≤ sext 32 b then b else a
  | .and => Nat.land a b
  | .or => Nat.lor a b
  | .xor => Nat.xor a b
  | .fmin => f32.minMax false a b
  | .fmax => f32.minMax true a b
  | .add64 => (a + b) % 2 ^ 64
  | .fadd => a

def redId : RedOp → Nat
  | .add => 0 | .minz => 0xFFFFFFFF | .mins => 0x7FFFFFFF | .maxz => 0 | .maxs => 0x80000000 | .and => 0xFFFFFFFF | .or => 0
  | .xor => 0 | .fadd => 0x80000000 | .fmin => 0x7F800000 | .fmax => 0xFF800000 | .add64 => 0

/-- The exact FP32 sum of 10 R221. Under RDN an exact zero sum is −0 also over a single lane that holds +0, as R221 says, where 10 Table 10.5 gives a single
lane's own value (DEDUCED, log 66). -/
def exactSum (rdn : Bool) (vs : List FV) : FV :=
  let neg0 (v : FV) : Bool := v.isZero && v.isNeg
  match vs.foldl (FV.add false) FV.zero with
  | .fin s n d => if n = 0 then .fin (rdn || vs.all neg0) 0 1 else .fin s n d
  | v => v

/-- The reduction of a list of codes; `r` is the random word of RS. -/
def reduceOf (op : RedOp) (m : Rnd) (daz ftz : Bool) (r : Nat) (xs : List Nat) : Nat :=
  match op with
  | .fadd => f32.flush ftz (f32.round m r false (exactSum (m = .rdn) (xs.map (fun y => f32.value (f32.flush daz y)))))
  | .fmin | .fmax =>
    match xs.map (f32.flush daz) with
    | [] => redId op
    | y :: ys => let v := ys.foldl (redInt op) y; if (f32.value v).isNan then f32.nanc else v
  | _ => xs.foldl (redInt op) (redId op)

/-- HRED (10 R220, R221): in RS mode the group's lowest lane draws. -/
def execHred (g : Grd) (k : Coll) (op : RedOp) (r : Rnd) (d : Dst) (a c : Src) (s : State) : Out :=
  let w64 := decide (op = .add64)
  collect g 0x52 (nOf w64) k d [(nOf w64, a)] c s (fun x _ gr l =>
    let e := x.fp (if op = .fadd then r else .rne) 1 (gr.headD l)
    let p := gr.any (fun j => x.pois (wOf w64) j a)
    let v := reduceOf op e.rm e.daz e.ftz (e.r 0) (gr.map (fun j => x.val (wOf w64) j a))
    { outN w64 d v p with rng := if gr.head? = some l then some e.g else none, eats := p })

/-- HSCAN (10 R220, R221): in RS mode each lane draws from its own generator. A lane that reads its own poisoned A sets s.psum, also where an
exclusive scan leaves it out of the result (08 R184; DEDUCED, log 44). -/
def execHscan (g : Grd) (k : Coll) (op : RedOp) (excl : Bool) (r : Rnd) (d : Dst) (a c : Src) (s : State) : Out :=
  let w64 := decide (op = .add64)
  collect g 0x53 (nOf w64) k d [(nOf w64, a)] c s (fun x _ gr l =>
    let e := x.fp (if op = .fadd then r else .rne) 1 l
    let js := gr.take (rankIn gr l + (if excl then 0 else 1))
    let p := js.any (fun j => x.pois (wOf w64) j a)
    let v := if js.isEmpty then redId op else reduceOf op e.rm e.daz e.ftz (e.r 0) (js.map (fun j => x.val (wOf w64) j a))
    { outN w64 d v p with rng := some e.g, eats := p || x.pois (wOf w64) l a })

/-- MATCH (10 R219). -/
def execLmatch (g : Grd) (k : Coll) (w64 : Bool) (d : Dst) (a c : Src) (s : State) : Out :=
  collect g 0x54 1 k d [(nOf w64, a)] c s (fun x _ gr l =>
    let v (j : Nat) : Nat := x.val (wOf w64) j a
    let p := gr.any (fun j => x.pois (wOf w64) j a)
    { out32 d (maskOf (gr.filter (fun j => v j = v l))) p with
      pr := if k.pen then [(k.pd, gr.all (fun j => v j = v l), p)] else [], eats := p })

/-- TMASK (10 R222). -/
def execTmask (g : Grd) (k : Coll) (d : Dst) (c : Src) (s : State) : Out :=
  collect g 0x55 1 k d [] c s (fun x p _ l => out32 d (maskOf (p.filter (fun j => (x.item j).table = (x.item l).table))) false)

/-- ELECT (10 R222). -/
def execElect (g : Grd) (k : Coll) (d : Dst) (c : Src) (s : State) : Out :=
  collect g 0x55 1 k d [] c s (fun _ _ gr l =>
    let e := gr.headD l
    { out32 d e false with pr := if k.pen then [(k.pd, e = l, false)] else [] })

end Sys2Proof.Machine
end

