-- ==== Sys2Proof/Machine/Dispatch.lean ====
section
/-! DEFINITION. Sys2Proof/Machine/Dispatch.lean: one arm per row of the opcode table, each a direct call of its meaning. -/

namespace Sys2Proof.Machine

def exec (i : Instr) (s : State) : Host.Outcome State Fault Refusal :=
  match i with
  | .clauseHeader setb seta wait chunks => Sys2Proof.Machine.execClauseHeader setb seta wait chunks s
  | .nop => Sys2Proof.Machine.execNop s
  | .bra g off => Sys2Proof.Machine.execBra g off s
  | .br g a off => Sys2Proof.Machine.execBr g a off s
  | .brx g a => Sys2Proof.Machine.execBrx g a s
  | .call g d off => Sys2Proof.Machine.execCall g d off s
  | .callx g d a => Sys2Proof.Machine.execCallx g d a s
  | .ret g a => Sys2Proof.Machine.execRet g a s
  | .meld win => Sys2Proof.Machine.execMeld win s
  | .meldWindowExpiry r => Sys2Proof.Machine.execMeldWindowExpiry r s
  | .exit g => Sys2Proof.Machine.execExit g s
  | .draw d => Sys2Proof.Machine.execDraw d s
  | .cut r1 r2 r3 => Sys2Proof.Machine.execCut r1 r2 r3 s
  | .suspend g a b off c n => Sys2Proof.Machine.execSuspend g a b off c n s
  | .waitp g a peg => Sys2Proof.Machine.execWaitp g a peg s
  | .waitpGiveUp r => Sys2Proof.Machine.execWaitpGiveUp r s
  | .pegThresholdReached h lane => Sys2Proof.Machine.execPegThresholdReached h lane s
  | .bar k => Sys2Proof.Machine.execBar k s
  | .barrierComplete ctx kern level unit => Sys2Proof.Machine.execBarrierComplete ctx kern level unit s
  | .yield => Sys2Proof.Machine.execYield s
  | .yieldSlot => Sys2Proof.Machine.execYieldSlot s
  | .trap g code => Sys2Proof.Machine.execTrap g code s
  | .tret => Sys2Proof.Machine.execTret s
  | .iadd d a b => Sys2Proof.Machine.execIadd d a b s
  | .iaddExt g ty sat d a b => Sys2Proof.Machine.execIaddExt g ty sat d a b s
  | .isub d a b => Sys2Proof.Machine.execIsub d a b s
  | .isubExt g ty sat d a b => Sys2Proof.Machine.execIsubExt g ty sat d a b s
  | .iaddc g pen pd d a b c => Sys2Proof.Machine.execIaddc g pen pd d a b c s
  | .imul d a b => Sys2Proof.Machine.execImul d a b s
  | .imulExt g ty sat d a b => Sys2Proof.Machine.execImulExt g ty sat d a b s
  | .imulh d a b => Sys2Proof.Machine.execImulh d a b s
  | .imulhExt g ty d a b => Sys2Proof.Machine.execImulhExt g ty d a b s
  | .imad g ty sat d a b c => Sys2Proof.Machine.execImad g ty sat d a b c s
  | .imadw g sgn sat d a b c => Sys2Proof.Machine.execImadw g sgn sat d a b c s
  | .imin d a b => Sys2Proof.Machine.execImin d a b s
  | .iminExt g ty d a b => Sys2Proof.Machine.execIminExt g ty d a b s
  | .imax d a b => Sys2Proof.Machine.execImax d a b s
  | .imaxExt g ty d a b => Sys2Proof.Machine.execImaxExt g ty d a b s
  | .iabs d a => Sys2Proof.Machine.execIabs d a s
  | .iabsExt g ty sat d a => Sys2Proof.Machine.execIabsExt g ty sat d a s
  | .ineg d a => Sys2Proof.Machine.execIneg d a s
  | .inegExt g ty sat d a => Sys2Proof.Machine.execInegExt g ty sat d a s
  | .and d a b => Sys2Proof.Machine.execAnd d a b s
  | .andExt g d a b => Sys2Proof.Machine.execAndExt g d a b s
  | .or d a b => Sys2Proof.Machine.execOr d a b s
  | .orExt g d a b => Sys2Proof.Machine.execOrExt g d a b s
  | .xor d a b => Sys2Proof.Machine.execXor d a b s
  | .xorExt g d a b => Sys2Proof.Machine.execXorExt g d a b s
  | .andn d a b => Sys2Proof.Machine.execAndn d a b s
  | .andnExt g d a b => Sys2Proof.Machine.execAndnExt g d a b s
  | .not d a => Sys2Proof.Machine.execNot d a s
  | .notExt g d a => Sys2Proof.Machine.execNotExt g d a s
  | .shl d a b => Sys2Proof.Machine.execShl d a b s
  | .shlExt g sz d a b => Sys2Proof.Machine.execShlExt g sz d a b s
  | .shr d a b => Sys2Proof.Machine.execShr d a b s
  | .shrExt g sz d a b => Sys2Proof.Machine.execShrExt g sz d a b s
  | .sar d a b => Sys2Proof.Machine.execSar d a b s
  | .sarExt g sz d a b => Sys2Proof.Machine.execSarExt g sz d a b s
  | .shf g r d a b c => Sys2Proof.Machine.execShf g r d a b c s
  | .rot d a b => Sys2Proof.Machine.execRot d a b s
  | .rotExt g sz r d a b => Sys2Proof.Machine.execRotExt g sz r d a b s
  | .bfe g sgn d a b => Sys2Proof.Machine.execBfe g sgn d a b s
  | .bfi g d a b c => Sys2Proof.Machine.execBfi g d a b c s
  | .popc d a => Sys2Proof.Machine.execPopc d a s
  | .popcExt g d a => Sys2Proof.Machine.execPopcExt g d a s
  | .clz d a => Sys2Proof.Machine.execClz d a s
  | .clzExt g d a => Sys2Proof.Machine.execClzExt g d a s
  | .ctz d a => Sys2Proof.Machine.execCtz d a s
  | .ctzExt g d a => Sys2Proof.Machine.execCtzExt g d a s
  | .brev d a => Sys2Proof.Machine.execBrev d a s
  | .brevExt g d a => Sys2Proof.Machine.execBrevExt g d a s
  | .bsel g d a b c => Sys2Proof.Machine.execBsel g d a b c s
  | .iset g ty cc pen pd d a b => Sys2Proof.Machine.execIset g ty cc pen pd d a b s
  | .pset g pd lut d a b c => Sys2Proof.Machine.execPset g pd lut d a b c s
  | .sel g d a b c => Sys2Proof.Machine.execSel g d a b c s
  | .mov d a => Sys2Proof.Machine.execMov d a s
  | .movExt g d a => Sys2Proof.Machine.execMovExt g d a s
  | .movx g d a base w => Sys2Proof.Machine.execMovx g d a base w s
  | .movxw g base a b w => Sys2Proof.Machine.execMovxw g base a b w s
  | .lea g sgn sh d a b => Sys2Proof.Machine.execLea g sgn sh d a b s
  | .iadd64 d a b => Sys2Proof.Machine.execIadd64 d a b s
  | .iadd64Ext g sgn sat d a b => Sys2Proof.Machine.execIadd64Ext g sgn sat d a b s
  | .fadd d a b => Sys2Proof.Machine.execFadd d a b s
  | .faddExt g r d a b => Sys2Proof.Machine.execFaddExt g r d a b s
  | .fsub d a b => Sys2Proof.Machine.execFsub d a b s
  | .fsubExt g r d a b => Sys2Proof.Machine.execFsubExt g r d a b s
  | .fmul d a b => Sys2Proof.Machine.execFmul d a b s
  | .fmulExt g r d a b => Sys2Proof.Machine.execFmulExt g r d a b s
  | .fmac g r np nc d a b c => Sys2Proof.Machine.execFmac g r np nc d a b c s
  | .fmin d a b => Sys2Proof.Machine.execFmin d a b s
  | .fminExt g d a b => Sys2Proof.Machine.execFminExt g d a b s
  | .fmax d a b => Sys2Proof.Machine.execFmax d a b s
  | .fmaxExt g d a b => Sys2Proof.Machine.execFmaxExt g d a b s
  | .fset g cc pen pd d a b => Sys2Proof.Machine.execFset g cc pen pd d a b s
  | .fclass g pen pd d a b => Sys2Proof.Machine.execFclass g pen pd d a b s
  | .frcp d a => Sys2Proof.Machine.execFrcp d a s
  | .frcpExt g d a => Sys2Proof.Machine.execFrcpExt g d a s
  | .frsq d a => Sys2Proof.Machine.execFrsq d a s
  | .frsqExt g d a => Sys2Proof.Machine.execFrsqExt g d a s
  | .fsqrt d a => Sys2Proof.Machine.execFsqrt d a s
  | .fsqrtExt g r d a => Sys2Proof.Machine.execFsqrtExt g r d a s
  | .fexp2 d a => Sys2Proof.Machine.execFexp2 d a s
  | .fexp2Ext g d a => Sys2Proof.Machine.execFexp2Ext g d a s
  | .flog2 d a => Sys2Proof.Machine.execFlog2 d a s
  | .flog2Ext g d a => Sys2Proof.Machine.execFlog2Ext g d a s
  | .ftanh d a => Sys2Proof.Machine.execFtanh d a s
  | .ftanhExt g d a => Sys2Proof.Machine.execFtanhExt g d a s
  | .fsin d a => Sys2Proof.Machine.execFsin d a s
  | .fsinExt g d a => Sys2Proof.Machine.execFsinExt g d a s
  | .fcos d a => Sys2Proof.Machine.execFcos d a s
  | .fcosExt g d a => Sys2Proof.Machine.execFcosExt g d a s
  | .hadd2 d a b => Sys2Proof.Machine.execHadd2 d a b s
  | .hadd2Ext g bf r sat nb d a b => Sys2Proof.Machine.execHadd2Ext g bf r sat nb d a b s
  | .hmul2 d a b => Sys2Proof.Machine.execHmul2 d a b s
  | .hmul2Ext g bf r sat d a b => Sys2Proof.Machine.execHmul2Ext g bf r sat d a b s
  | .hfma2 g bf r sat np nc d a b c => Sys2Proof.Machine.execHfma2 g bf r sat np nc d a b c s
  | .hmin2 d a b => Sys2Proof.Machine.execHmin2 d a b s
  | .hmin2Ext g bf d a b => Sys2Proof.Machine.execHmin2Ext g bf d a b s
  | .hmax2 d a b => Sys2Proof.Machine.execHmax2 d a b s
  | .hmax2Ext g bf d a b => Sys2Proof.Machine.execHmax2Ext g bf d a b s
  | .f2i g src sgn w64 half r d a => Sys2Proof.Machine.execF2i g src sgn w64 half r d a s
  | .i2f g dst sgn w64 r sat d a => Sys2Proof.Machine.execI2f g dst sgn w64 r sat d a s
  | .fcvt g dst src half r sat d a b => Sys2Proof.Machine.execFcvt g dst src half r sat d a b s
  | .qscale g f d a => Sys2Proof.Machine.execQscale g f d a s
  | .qpack g f r sat d a b => Sys2Proof.Machine.execQpack g f r sat d a b s
  | .qunpk g f d a b => Sys2Proof.Machine.execQunpk g f d a b s
  | .psplit g f pl d a => Sys2Proof.Machine.execPsplit g f pl d a s
  | .pjoin g f pl grp d a b => Sys2Proof.Machine.execPjoin g f pl grp d a b s
  | .setfmt g f b => Sys2Proof.Machine.execSetfmt g f b s
  | .shfl g k m w64 d a b c => Sys2Proof.Machine.execShfl g k m w64 d a b c s
  | .vote g k m d a c => Sys2Proof.Machine.execVote g k m d a c s
  | .hred g k op r d a c => Sys2Proof.Machine.execHred g k op r d a c s
  | .hscan g k op excl r d a c => Sys2Proof.Machine.execHscan g k op excl r d a c s
  | .lmatch g k w64 d a c => Sys2Proof.Machine.execLmatch g k w64 d a c s
  | .tmask g k d c => Sys2Proof.Machine.execTmask g k d c s
  | .elect g k d c => Sys2Proof.Machine.execElect g k d c s
  | .ld g ps m sz sx d a => Sys2Proof.Machine.execLd g ps m sz sx d a s
  | .st g ps m sz a b => Sys2Proof.Machine.execSt g ps m sz a b s
  | .atom g ps m op sz r d a b => Sys2Proof.Machine.execAtom g ps m op sz r d a b s
  | .cas g ps m sz d a b c => Sys2Proof.Machine.execCas g ps m sz d a b c s
  | .red g ps m op sz r a b => Sys2Proof.Machine.execRed g ps m op sz r a b s
  | .evadd g ps m d a b => Sys2Proof.Machine.execEvadd g ps m d a b s
  | .pref g m l2 a => Sys2Proof.Machine.execPref g m l2 a s
  | .publ g ps => Sys2Proof.Machine.execPubl g ps s
  | .invl g => Sys2Proof.Machine.execInvl g s
  | .movs g ps m fromSc sz a b => Sys2Proof.Machine.execMovs g ps m fromSc sz a b s
  | .setmode g b => Sys2Proof.Machine.execSetmode g b s
  | .homeLoad req => Sys2Proof.Machine.execHomeLoad req s
  | .homeWrite req => Sys2Proof.Machine.execHomeWrite req s
  | .homeAtomic req => Sys2Proof.Machine.execHomeAtomic req s
  | .opCompletion op => Sys2Proof.Machine.execOpCompletion op s
  | .ptsTick h => Sys2Proof.Machine.execPtsTick h s
  | .cpy g ps dseg sseg a b c => Sys2Proof.Machine.execCpy g ps dseg sseg a b c s
  | .cpy2 g ps dseg sseg a b c => Sys2Proof.Machine.execCpy2 g ps dseg sseg a b c s
  | .cpyw g ps sseg a b c => Sys2Proof.Machine.execCpyw g ps sseg a b c s
  | .gath g ps dseg sseg a b c => Sys2Proof.Machine.execGath g ps dseg sseg a b c s
  | .scat g ps dseg sseg a b c => Sys2Proof.Machine.execScat g ps dseg sseg a b c s
  | .sred g ps dseg sseg bf mx r a b c => Sys2Proof.Machine.execSred g ps dseg sseg bf mx r a b c s
  | .scvt g ps dseg sseg dst src f r sat a b c => Sys2Proof.Machine.execScvt g ps dseg sseg dst src f r sat a b c s
  | .rput g ps sseg peer a b c => Sys2Proof.Machine.execRput g ps sseg peer a b c s
  | .rget g ps dseg peer a b c => Sys2Proof.Machine.execRget g ps dseg peer a b c s
  | .rsig g ps peer a b => Sys2Proof.Machine.execRsig g ps peer a b s
  | .claimGrant op => Sys2Proof.Machine.execClaimGrant op s
  | .engineIssuePoint op => Sys2Proof.Machine.execEngineIssuePoint op s
  | .engineLineRelease op => Sys2Proof.Machine.execEngineLineRelease op s
  | .peerMessageApply m => Sys2Proof.Machine.execPeerMessageApply m s
  | .peerAck msg => Sys2Proof.Machine.execPeerAck msg s
  | .linkLoss msg => Sys2Proof.Machine.execLinkLoss msg s
  | .mzero tile => Sys2Proof.Machine.execMzero tile s
  | .mma ps m a b c => Sys2Proof.Machine.execMma ps m a b c s
  | .mmag ps gsrc m a b c => Sys2Proof.Machine.execMmag ps gsrc m a b c s
  | .teamStart c ctx kern team => Sys2Proof.Machine.execTeamStart c ctx kern team s
  | .mdrain g ps tile of smode fo r sat d b => Sys2Proof.Machine.execMdrain g ps tile of smode fo r sat d b s
  | .mdst g ps tile of smode seg pol r sat a b => Sys2Proof.Machine.execMdst g ps tile of smode seg pol r sat a b s
  | .mscale g tile a b => Sys2Proof.Machine.execMscale g tile a b s
  | .mstat g ps tile chk d => Sys2Proof.Machine.execMstat g ps tile chk d s
  | .will a n b => Sys2Proof.Machine.execWill a n b s
  | .claim g ps d n a => Sys2Proof.Machine.execClaim g ps d n a s
  | .estat g ps d => Sys2Proof.Machine.execEstat g ps d s
  | .deal g ps seg d a b c => Sys2Proof.Machine.execDeal g ps seg d a b c s
  | .launch g ps seg d a => Sys2Proof.Machine.execLaunch g ps seg d a s
  | .deckqPend g ps d a => Sys2Proof.Machine.execDeckqPend g ps d a s
  | .deckqClose g ps d a => Sys2Proof.Machine.execDeckqClose g ps d a s
  | .deckqState g ps d a => Sys2Proof.Machine.execDeckqState g ps d a s
  | .deckqCancel g ps d a => Sys2Proof.Machine.execDeckqCancel g ps d a s
  | .chke g d => Sys2Proof.Machine.execChke g d s
  | .chkeTrap g d => Sys2Proof.Machine.execChkeTrap g d s
  | .setseg g seg a => Sys2Proof.Machine.execSetseg g seg a s
  | .movpRead g other ctx prn d => Sys2Proof.Machine.execMovpRead g other ctx prn d s
  | .movpWrite g other ctx prn b => Sys2Proof.Machine.execMovpWrite g other ctx prn b s
  | .keyz g d a => Sys2Proof.Machine.execKeyz g d a s
  | .keyzDone ctx => Sys2Proof.Machine.execKeyzDone ctx s
  | .keyzAckTimeout ctx chans => Sys2Proof.Machine.execKeyzAckTimeout ctx chans s
  | .scrub g ps d a => Sys2Proof.Machine.execScrub g ps d a s
  | .scrubUnit ctx => Sys2Proof.Machine.execScrubUnit ctx s
  | .deferredDestroy ctx => Sys2Proof.Machine.execDeferredDestroy ctx s
  | .entryDraw h => Sys2Proof.Machine.execEntryDraw h s
  | .heldReform h => Sys2Proof.Machine.execHeldReform h s
  | .continuationSeat h => Sys2Proof.Machine.execContinuationSeat h s
  | .blockDeal c ctx kern => Sys2Proof.Machine.execBlockDeal c ctx kern s
  | .barrierTableGrant c ctx kern => Sys2Proof.Machine.execBarrierTableGrant c ctx kern s
  | .handForm c ctx kern => Sys2Proof.Machine.execHandForm c ctx kern s
  | .handRelease h => Sys2Proof.Machine.execHandRelease h s
  | .dealtReturn h => Sys2Proof.Machine.execDealtReturn h s
  | .rotation h => Sys2Proof.Machine.execRotation h s
  | .claimResolve id => Sys2Proof.Machine.execClaimResolve id s
  | .affinityWindowExpiry h lane => Sys2Proof.Machine.execAffinityWindowExpiry h lane s
  | .pileEvictRetry h lane => Sys2Proof.Machine.execPileEvictRetry h lane s
  | .kernelComplete ctx kern => Sys2Proof.Machine.execKernelComplete ctx kern s
  | .launchRegisterWrite w t => Sys2Proof.Machine.execLaunchRegisterWrite w t s
  | .launchQueueEntry ctx => Sys2Proof.Machine.execLaunchQueueEntry ctx s
  | .dealerPeriod die => Sys2Proof.Machine.execDealerPeriod die s
  | .pctlSave ctx => Sys2Proof.Machine.execPctlSave ctx s
  | .saveComplete ctx => Sys2Proof.Machine.execSaveComplete ctx s
  | .pctlRestore ctx => Sys2Proof.Machine.execPctlRestore ctx s
  | .restoreProceed ctx => Sys2Proof.Machine.execRestoreProceed ctx s
  | .samplingWindowEnd => Sys2Proof.Machine.execSamplingWindowEnd s
  | .bandwidthWindow => Sys2Proof.Machine.execBandwidthWindow s
  | .hostWriteRequest q => Sys2Proof.Machine.execHostWriteRequest q s
  | .hostReadRequest q => Sys2Proof.Machine.execHostReadRequest q s
  | .xdPieceSend req => Sys2Proof.Machine.execXdPieceSend req s
  | .hostPieceApply req die => Sys2Proof.Machine.execHostPieceApply req die s
  | .routeAck req die => Sys2Proof.Machine.execRouteAck req die s
  | .create fn addr => Sys2Proof.Machine.execCreate fn addr s
  | .stop ctx => Sys2Proof.Machine.execStop ctx s
  | .skidTimeout ctx => Sys2Proof.Machine.execSkidTimeout ctx s
  | .haltDone ctx => Sys2Proof.Machine.execHaltDone ctx s
  | .destroy ctx => Sys2Proof.Machine.execDestroy ctx s
  | .replay ctx => Sys2Proof.Machine.execReplay ctx s
  | .shqLookup ctx addr => Sys2Proof.Machine.execShqLookup ctx addr s
  | .registerWrite w off v => Sys2Proof.Machine.execRegisterWrite w off v s
  | .waitfullRetry die slice => Sys2Proof.Machine.execWaitfullRetry die slice s
  | .registerError h lane r => Sys2Proof.Machine.execRegisterError h lane r s
  | .handStateError h => Sys2Proof.Machine.execHandStateError h s
  | .coreOffline c => Sys2Proof.Machine.execCoreOffline c s
  | .cacheError x => Sys2Proof.Machine.execCacheError x s
  | .keyLoad k => Sys2Proof.Machine.execKeyLoad k s
  | .attestationReport ctx => Sys2Proof.Machine.execAttestationReport ctx s
  | .ethernetFrameDeliver port data => Sys2Proof.Machine.execEthernetFrameDeliver port data s
  | .coldReset b => Sys2Proof.Machine.execColdReset b s
  | .warmReset b => Sys2Proof.Machine.execWarmReset b s
  | .powerLoss => Sys2Proof.Machine.execPowerLoss s
  | .firmwareUpdate f => Sys2Proof.Machine.execFirmwareUpdate f s
  | .recoveryRequest => Sys2Proof.Machine.execRecoveryRequest s
  | .rgetDataReturn msg data pois => Sys2Proof.Machine.execRgetDataReturn msg data pois s
  | .peerRefusal msg reason => Sys2Proof.Machine.execPeerRefusal msg reason s
  | .segmentRetransmission msg seg => Sys2Proof.Machine.execSegmentRetransmission msg seg s
  | .deviceFatalError loc => Sys2Proof.Machine.execDeviceFatalError loc s

end Sys2Proof.Machine
end

