-- ==== Sys2Proof/Machine/Auto.lean ====
section
/-! DEFINITION. Sys2Proof/Machine/Auto.lean: what the device does next when nothing names it (log 1): the internal events that
are due, the issues of the clock, the fills, in one order; else a tick of the device clock. It also holds the losses of copies that the
spec leaves to the device (log 2), and the issue of one instruction. -/

namespace Sys2Proof.Machine

/-! ## The device clock -/

/-- A Ready suit that did not issue has waited one clock more (15 R315); one whose slot was filled becomes Ready (02 R34). -/
def Suit.tick (u : Suit) (may : Bool) : Suit :=
  match u.stall with
  | .ready => if may then { u with wait := u.wait + 1 } else u
  | .filled => { u with stall := .ready }
  | _ => u

/-- A lane at a clock: it notes since when it has been Held-ready (02 R44). -/
def Lane.tick (l : Lane) (clk : Nat) : Lane := { l with heldSince := if l.st = .heldReady then some (l.heldSince.getD clk) else none }

/-- A hand at a clock: its Ready suits wait, the pass over YIELD.slot's lanes ends, it may fill again, and its lanes note since when they have been held. -/
def Hand.tick (d : Hand) (may : Nat → Bool) (clk : Nat) : Hand :=
  { d with
    suits := d.suits.map (fun (u : Nat × Suit) => (u.1, u.2.tick (may u.1)))
    lanes := d.lanes.map (fun (l : Nat × Lane) => (l.1, l.2.tick clk))
    passOver := [], filled := false }

/-- A halt line has reached every hand within 64 clocks (22 R385). -/
def Ctx.haltTick (x : Ctx) (clk : Nat) : Ctx :=
  { x with halt := x.halt.map (fun h => if h.clk + 64 ≤ clk then { h with ahead := [] } else h) }

/-- The device clock ticks; a sampling window that ends on this clock has ended. -/
def State.tick (s0 : State) : State :=
  let s := s0.sampleEnd
  { s with
    ctxs := s.ctxs.map (fun (x : Nat × Ctx) => (x.1, x.2.haltTick (s.clk + 1)))
    cores := s.cores.map (fun (c : Nat × Core) => (c.1, { c.2 with hands := c.2.hands.map (fun (h : Nat × Hand) =>
      (h.1, if h.2.st = .unformed then h.2
        else h.2.tick (fun u => (s.runs h.2.ctx || s.ahead h.2.ctx ((coreOf c.1).hr h.1)) && !s.issued.contains (((coreOf c.1).hr h.1).sr u)) s.clk)) }))
    clk := s.clk + 1, issued := [] }

/-! ## Copies that go (01 R16, 04 R94, R97) -/

/-- An L1 copy is dropped. -/
def State.dropL1 (s : State) (c : CoreRef) (line : Nat) : State := s.modCore c (fun x => { x with l1 := kErase line x.l1 })

/-- A translation buffer entry is dropped (16 R327). -/
def State.dropTlb (s : State) (c : CoreRef) (ctx va : Nat) : State := s.modCore c (fun x => { x with tlb := x.tlb.filter (fun t => !(t.ctx = ctx && t.va = va)) })

/-- Whether the home slice of a line holds a replica, which it gives up before a line that it homes (16 R330). -/
def State.hasReplica (s : State) (line : Nat) : Bool :=
  let h := s.home (64 * line)
  s.replicas.any (fun e => e.1 / 2 ^ 48 = h.die && (s.home (e.1 % 2 ^ 48 * 64)).slice = h.slice)

/-! ## Internal events -/

/-- Events that end what is in flight: of contexts, requests, claims, operations and host requests. -/
def State.flightEvents (s : State) : List Instr :=
  s.ctxs.flatMap (fun x => [.haltDone x.1, .keyzDone x.1, .keyzAckTimeout x.1 [], .scrubUnit x.1, .deferredDestroy x.1, .launchQueueEntry x.1])
  ++ s.reqs.map (fun r => if r.2.acc.kind.isAtomic then .homeAtomic r.1 else if r.2.acc.kind.isStore then .homeWrite r.1 else .homeLoad r.1)
  ++ s.claims.map (fun c => .claimResolve c.1)
  ++ s.ops.flatMap (fun o => match o.2.kind with
      | .engine _ => [.claimGrant o.1, .engineIssuePoint o.1, .engineLineRelease o.1, .opCompletion o.1]
      | _ => [.opCompletion o.1])
  ++ s.inbox.map .peerMessageApply
  ++ s.hosts.flatMap (fun a => .xdPieceSend a.1 :: s.dies.flatMap (fun d => [.hostPieceApply a.1 d, .routeAck a.1 d]))

/-- Events of one hand that end a wait. -/
def State.waitEvents (s : State) (h : HandRef) : List Instr :=
  let d := s.hand h
  d.suits.map (fun u => .waitpGiveUp (h.sr u.1))
  ++ d.lanes.flatMap (fun l => match l.2.st with
      | .heldWait _ _ => [.pegThresholdReached h l.1]
      | .pinned => [.affinityWindowExpiry h l.1, .pileEvictRetry h l.1]
      | _ => [])
  ++ (match d.block with
      | some (kn, b) => [.teamStart h.cr d.ctx kn (b / maxN 1 (s.kernD d.ctx kn).lrec.team)]
      | none => [])

/-- Events of kernels: barriers that are complete, and completion. -/
def State.kernEvents (s : State) : List Instr :=
  s.ctxs.flatMap (fun x => x.2.kerns.flatMap (fun k =>
    k.2.arrivals.map (fun a => .barrierComplete x.1 k.1 (a.1 / 2 ^ 40) (a.1 % 2 ^ 40)) ++ [.kernelComplete x.1 k.1]))

/-- Events that fill slots, in the order of the sources (02 R34), and that return or rotate hands. -/
def fillEvents (h : HandRef) : List Instr :=
  [.heldReform h, .continuationSeat h, .entryDraw h, .dealtReturn h, .rotation h, .ptsTick h]

/-- Events of cores for each kernel: blocks, barrier tables, hands. -/
def State.coreEvents (s : State) : List Instr :=
  s.ctxs.flatMap (fun x => x.2.kerns.flatMap (fun k => (s.dies.flatMap coresOf).flatMap (fun c =>
    if s.mayUse x.1 c then [.blockDeal c x.1 k.1, .barrierTableGrant c x.1 k.1, .handForm c x.1 k.1] else [])))

/-- Events of the dies and of memory, and those that end a save or a restore. -/
def State.dieEvents (s : State) : List Instr :=
  s.dies.map .dealerPeriod ++ [.samplingWindowEnd, .bandwidthWindow]
  ++ s.dies.flatMap (fun d => (List.range 32).map (.waitfullRetry d))
  ++ s.ctxs.flatMap (fun x => [.saveComplete x.1, .restoreProceed x.1])

/-- Internal events that come before the issues of a clock, in the order in which the model takes them. -/
def State.earlyEvents (s : State) : List Instr := s.flightEvents ++ s.handList.flatMap s.waitEvents ++ s.kernEvents

/-- Internal events that come after the issues of a clock: a group that reaches a MELD on the clock its window ends is melded, and a DRAW goes before a fill
of its clock (02 R34, 07 R180). -/
def State.lateEvents (s : State) : List Instr :=
  s.handList.flatMap (fun h => (s.hand h).suits.map (fun u => .meldWindowExpiry (h.sr u.1))) ++ s.handList.flatMap fillEvents ++ s.handList.map .handRelease ++ s.coreEvents ++ s.dieEvents

/-- The state after an event that has something to do. -/
def State.tryEvent (s : State) (i : Instr) : Option State :=
  match exec i s with
  | .next t => if t = s then none else some t
  | _ => none

/-- The first event of a list that has something to do. -/
def State.firstEvent (s : State) : List Instr → Option Instr
  | [] => none
  | i :: is => if (s.tryEvent i).isSome then some i else s.firstEvent is

/-! ## Issue -/

/-- Suits that may issue on this clock: the choice of each quarter that has not issued (15 R315). -/
def State.issuers (s : State) : List SuitRef :=
  s.coreList.flatMap (fun c => (List.range 4).filterMap (fun q => (s.best (s.readySuits c q)).bind (fun r => if s.chosen r then some r else none)))

/-- The halt lines that are on their way, each to the first of its hands (22 R385). -/
def State.haltActs (s : State) : List Act :=
  s.ctxs.flatMap (fun x => match x.2.halt.bind (fun k => k.ahead.head?) with | some h => [.lineReach x.1 h] | none => [])

/-- An action of the device that waits for an engine claim, done if the claim has gone. -/
def State.again (s : State) (ctx : Nat) (w : DevWait) : State :=
  if (s.ctxD ctx).state ≠ 1 || !(s.ctxD ctx).busy.contains w then s
  else let t := s.redo ctx w
       if (t.ctxD ctx).busy.contains w then s else t

/-- What waits for engine claims and need not any longer (04 R100): writes of the device first, then its actions. -/
def State.claimActs (s : State) : List Act :=
  (if s.late.isEmpty || s.lateGo = s then [] else [.lateGo]) ++
    s.ctxs.flatMap (fun x => (x.2.busy.filter (fun w => s.again x.1 w ≠ s)).map (Act.again x.1))

/-- What moves next by itself. -/
def State.auto (s : State) : Act :=
  match s.haltActs ++ s.claimActs, s.firstEvent s.earlyEvents, s.issuers with
  | a :: _, _, _ => a
  | [], some i, _ => .event i
  | [], none, r :: _ => .issue r
  | [], none, [] =>
    match s.firstEvent s.lateEvents with
    | some i => .event i
    | none => .tick

/-- The header a suit meets at its place, or why the word there is none. -/
def headAt (ws : List W32) : Except Illegal (Instr × Nat) := (decodeHeader (ws.headD 0)).map (fun i => (i, 1))

/-- The instruction a suit meets within a clause, with the words it takes. -/
def bodyAt (ws : List W32) : Except Illegal (Instr × Nat) := (decodeWords ws).map (fun i => (i, lenWords (ws.headD 0).toNat))

/-- The words from a suit's place on: a header is fetched; within a clause they are those of the clause decoded for the suit,
which is fetched again when the suit has resumed there (06 R157, R394). -/
def State.wordsAt (s : State) (r : SuitRef) : Fetched :=
  let hd := s.hand r.hr
  let u := (hd.suit r.suit).getD { kern := 0 }
  let pl := (s.kernD hd.ctx u.kern).lrec.pl
  if u.pos.pc = u.pos.hdr then s.fetchWords r.hr hd.gen hd.ctx pl u.pos.pc 1
  else
    match u.clause.bind (fun c => if c.1 = u.pos.hdr then some c.2 else none) with
    | some ws => .words (u.pos.rest ws) s
    | none => match s.fetchWords r.hr hd.gen hd.ctx pl (u.pos.hdr + 4) u.pos.body with
      | .words ws t => .words (u.pos.rest ws) (t.modSuit r (fun v => { v with clause := some (u.pos.hdr, ws) }))
      | f => f

/-- What words at a suit's place decode to. -/
def State.readAs (s : State) (r : SuitRef) (ws : List W32) : Except Illegal (Instr × Nat) :=
  let pos := (((s.hand r.hr).suit r.suit).getD { kern := 0 }).pos
  if pos.pc = pos.hdr then headAt ws else bodyAt ws

/-- NOP and the clause header take no issue of their quarter (06 R135, R150). -/
def freeIssue : Instr → Bool
  | .nop => true
  | .clauseHeader _ _ _ _ => true
  | _ => false

/-- A suit meets its next instruction, which is performed. A fetch that faults, one of a line that an engine operation is writing, and words that are illegal,
are dealt with first (06 R158, 23 R394, 24 R409). At a clause boundary rotation comes first, once it is due (02 R44). -/
def State.issueStep (s : State) (r : SuitRef) : Out :=
  let pos := (((s.hand r.hr).suit r.suit).getD { kern := 0 }).pos
  if s.rotates r then (if (s.hand r.hr).filled then .next (s.modSuit r (fun u => { u with stall := .filled, wait := 0 })) else execRotation r.hr s)
  else
  match s.wordsAt r with
  | .fail va e s1 => .next (s1.fetchFault r va e)
  | .wait => .next (s.modSuit r (fun u => { u with stall := .filled, wait := 0 }))
  | .words ws s1 =>
    match s.readAs r ws with
    | .error e => .next (s1.haltIllegal r (pos.pc + 4 * e.word) pos.hdr (ws.getD e.word 0).toNat)
    | .ok (i, n) => exec i { s1 with cur := r, npc := pos.pc + 4 * n, issued := if freeIssue i then s1.issued else s1.issued ++ [r] }

/-- Events that act on a device which does not run: resets, and what comes over the Broisk port, which works whenever the module is powered (01 R20, 17 R358,
22 R376, R392). -/
def wakesUp : Instr → Bool
  | .coldReset _ | .warmReset _ | .powerLoss | .recoveryRequest | .firmwareUpdate _ | .attestationReport _ => true
  | _ => false

/-- Whether software may run: the firmware or the recovery image is up. -/
def State.up (s : State) : Bool := s.power = .running || s.power = .recovery

/-- One act. What names no event, and a suit that its quarter may not issue, do nothing. -/
def State.doAct (s : State) (a : Act) : Out :=
  match a with
  | .issue r => if s.up && s.chosen r then s.issueStep r else .next s
  | .event i => if i.isEvent && (s.up || wakesUp i) then exec i s else .next s
  | .tick => .next (if s.up then s.tick else s)
  | .dropL1 c line => .next (s.dropL1 c line)
  | .dropReplica die line => .next (s.dropReplica die line)
  | .writeBack line => .next (if s.hasReplica line then s else s.writeBack line)
  | .dropTlb c ctx va => .next (s.dropTlb c ctx va)
  | .lineReach ctx h => .next (s.lineReach ctx h)
  | .again ctx w => .next (if s.up then s.again ctx w else s)
  | .lateGo => .next (if s.up then s.lateGo else s)

end Sys2Proof.Machine
end

