-- ==== Sys2Proof/Machine/Step.lean ====
section
/-! DEFINITION. Sys2Proof/Machine/Step.lean: one step of the device, and a program placed where the next step fetches (logs 1,
8). -/

namespace Sys2Proof.Machine

/-- One step: the act at the head of the agenda, else what moves by itself. A device that does not run and is not told to
stops. -/
def step (s : State) : Host.Outcome State Fault Refusal :=
  match s.agenda with
  | a :: as => { s with agenda := as }.doAct a
  | [] => if s.up then s.doAct s.auto else .fault .notRunning

/-! ## A program placed by hand (log 8) -/

/-- Launch record of the placed kernel: one hand-dealt block of 32 items on die 0 with a level-1 barrier, PL 2, SEAT 80, all pot
slots, 1 KiB of scratchpad, no deck, heir, predecessor or event. -/
def placedRec : LaunchRec :=
  { w := [0, 0x204900000108, 0, 0, 0, 32, BitVec.ofNat 64 (2 * 2 ^ 58 + 2 ^ 54 + 2 ^ 36 + 2 ^ 28 + 8 * 2 ^ 24 + 4 * 2 ^ 13 + 10),
          0xFFFFFFFF00000001, 0, 0, 0, 0, 0xFFFF000000000000, 0xFFFFFFFFFFFFFFFF, 0, 0]
    fmt := (List.range 16).map (fun i => (i, 0x47B8)) }

/-- A descriptor of the placed context's code and data: the first 256 MiB, readable and writable. -/
def placedDesc : Desc := { w0 := 0, w1 := BitVec.ofNat 64 (2 ^ 28 + 2 ^ 48 + 2 ^ 49) }

/-- The placed kernel. -/
def placedKern : Kernel :=
  { lrec := placedRec, gl := placedDesc, kc := placedDesc, ep := placedDesc, epseg := placedDesc
    tables := [(0, { core := { die := 0, core := 0 }, base := 0, len := 1024, left := [], out := 0, barrier := true })], nextTable := 1 }

/-- The placed context: kernel 0, core 0 of die 0, and a page table at the start of the interleaved pool. -/
def placedCtx : Ctx :=
  { maxpl := 2, cores := [(0, 1)], regs := [(0x101, placedDesc.w1), (0x130, 0x4000000000)], kerns := [(0, placedKern)], nextKern := 1 }

/-- One lane of the placed hand. -/
def placedLane (pos : Pos) (l : Nat) : Lane :=
  { st := .active 0, item := some { kern := 0, item := l, table := 0, tix := l, age := 1 }, pos := pos }

/-- The placed hand: suit 0 holds 32 lanes at a place. -/
def placedHand (pos : Pos) : Hand :=
  { st := .dealt, ctx := 0, seat := 80, seq := 1, suits := [(0, { kern := 0, pos := pos })]
    lanes := (List.range 32).map (fun l => (l, placedLane pos l))
    sets := [(0, { mode := 1, fmts := placedRec.fmt, gl := placedDesc, kc := placedDesc, tl := Desc.talon, ep := placedDesc })]
    tiles := List.range 8, block := some (0, 0) }

/-- The page tables: three levels to one leaf of 1 GiB, readable and writable, of the frames from 0x4040000000 on. -/
def placedTables (m : List Host.Cell) : List Host.Cell :=
  cellsWrite (cellsWrite (cellsWrite m 0x4000000000 (bytesOf 8 0x4000001001)) 0x4000001000 (bytesOf 8 0x4000002001))
    0x4000002000 (bytesOf 8 0x404000000F)

/-- The bytes of words. -/
def wordBytes (ws : List W32) : List Byte := ws.flatMap (fun w => bytesOf 4 w.toNat)

/-- The suit that runs what is placed. -/
def placedSuit : SuitRef := { die := 0, core := 0, hand := 0, suit := 0 }

/-- A clause of two chunks whose header counts nothing on any peg. -/
def placedHeader : Nat := headerWord 15 15 0 1

/-- A clause at an address of the placed context's code: its words replace what stands there. -/
def placedClause (m : List Host.Cell) (ws : List W32) : List Host.Cell :=
  cellsWrite (placedTables m) 0x4040001000 ((wordBytes ws ++ List.replicate 64 0).take 64)

/-- s with an instruction of `nbits` bits placed where the next step fetches: a clause header stands at the suit's place, any
other instruction behind a header that the suit has passed. -/
def State.withFetchWord (s : State) (nbits w : Nat) : State :=
  let ws := tableWords nbits w
  let head := (ws.headD 0).toNat % 512 = 0x1FC
  let pos : Pos := if head then { pc := 0x1000, hdr := 0x1000 } else { pc := 0x1004, hdr := 0x1000, hw := placedHeader }
  { s with
    power := .running, mem := placedClause s.mem (if head then ws else BitVec.ofNat 32 placedHeader :: ws)
    parts := State.reset.parts, frames := [], pois := [], offChans := []
    ctxs := [(0, placedCtx)], cores := [(0, { hands := [(0, placedHand pos)], touched := true })]
    replicas := [], ops := [], issued := [], agenda := [.issue placedSuit] }

end Sys2Proof.Machine
end

