-- ==== Sys2Proof/Safety.lean ====
section
/-! DEFINITION. Sys2Proof/Safety.lean: the terms in which statements speak of a run: a step that goes on, a suit whose
instruction nothing holds back, what a lane receives, and what is left as it was. -/

namespace Sys2Proof.Machine

/-! ## Runs -/

/-- A step that does not stop the machine. -/
def Proceeds (s : State) : Prop := ∃ t, step s = .next t

/-- States that steps lead to from a state. -/
inductive Reaches (s : State) : State → Prop where
  | refl : Reaches s s
  | step {t u : State} : Reaches s t → Machine.step t = .next u → Reaches s u

/-- A safe state: the device runs, or something is told to it; and HBM is in its canonical form. -/
def State.safe (s : State) : Prop := (s.up = true ∨ s.agenda ≠ []) ∧ s.memWf = true

/-! ## The instruction at issue -/

/-- The issuing suit, its kernel and lanes, with the lanes that execute under a guard. -/
def State.issuing (s : State) (g : Grd) : Iss :=
  let hd := s.hand s.cur.hr
  let u := (hd.suit s.cur.suit).getD { kern := 0 }
  { s := s, r := s.cur, hd := hd, u := u, kern := s.kernD hd.ctx u.kern, ks := hd.kernSet u.kern
    act := hd.active s.cur.suit, ex := (hd.active s.cur.suit).filter (fun l => guardOn g (hd.lane l)) }

/-- Nothing holds the instruction back: there is a suit, no guard of an active lane is poisoned, no executing lane leases one
of the registers it names, and every window lies in the seat (06 R155, R451, 24 R423). -/
def State.clearAt (s : State) (g : Grd) (keys : List Nat) (wins : List (Nat × Nat)) : Bool :=
  let x := s.issuing g
  (x.hd.suit s.cur.suit).isSome && x.act.all (fun l => !(x.hd.lane l).predP g.p)
    && x.ex.all (fun l => (x.hd.lane l).leases.all (fun e => !keys.contains e.1))
    && wins.all (fun w => decide (w.1 + w.2 ≤ x.kern.lrec.seat))

/-- No lane of the suit has a parked access of its own, which holds back what ends a clause or makes an event (24 R408). -/
def State.noneParked (s : State) : Bool := (s.parkedIn s.cur.hr (s.issuing Grd.always).act).isEmpty

/-- No operation of an active lane stands before its issue point, which holds back an event (12 R246, 14 R288). -/
def State.pointsPassed (s : State) : Bool := !(s.issuing Grd.always).beforePoint

/-- No executing item has a request on its way, which holds back what takes its place at issue (04 R92). -/
def State.settled (s : State) (g : Grd) : Bool :=
  (s.issuing g).ex.all (fun l => !s.itemWaits (s.issuing g).ctx ((s.issuing g).item l).kern ((s.issuing g).item l).item)

/-- All three. -/
def State.eventClear (s : State) (g : Grd) : Bool := s.noneParked && s.pointsPassed && s.settled g

/-- The kernel has a privilege level. -/
def State.mayAt (s : State) (pl : Nat) : Bool := decide (pl ≤ (s.issuing Grd.always).pl)

/-- The peg that PSLOT selects has room for one more operation (06 R153). -/
def State.pegRoom (s : State) (ps : Bool) : Bool :=
  match pegOf (s.issuing Grd.always).u.pos.hw ps with
  | some p => decide ((s.hand s.cur.hr).peg p < 255)
  | none => true

/-- Registers that an instruction names: a destination of dn words and sources of given widths. -/
def namesOf (dn : Nat) (d : Dst) (srcs : List (Nat × Src)) : List Nat := dstKeys dn d ++ srcs.flatMap (fun a => srcKeys a.1 a.2)

/-- Their windows in the main file. -/
def windowsOf (dn : Nat) (d : Dst) (srcs : List (Nat × Src)) : List (Nat × Nat) := dstWin dn d ++ srcs.flatMap (fun a => srcWin a.1 a.2)

/-- Operand values as words. -/
def Iss.w32 (x : Iss) (l : Nat) (a : Src) : W32 := BitVec.ofNat 32 (x.val .w32 l a)
def Iss.w64 (x : Iss) (l : Nat) (a : Src) : W64 := BitVec.ofNat 64 (x.val .w64 l a)

/-! ## What a lane receives -/

/-- What an instruction gives one executing lane: registers (value and poison), a result for the last-result slots,
predicates, a new generator state, and whether the lane read poison. -/
structure Gift where
  regs : List (Nat × W32 × Bool) := []
  result : Option (W64 × Bool) := none
  preds : List (Nat × Bool × Bool) := []
  rng : Option W32 := none
  ate : Bool := false

/-- A 32-bit result in D; a D that is none discards it (06 R147). -/
def gift32 (d : Dst) (v : W32) (p : Bool) : Gift :=
  match d with
  | .v n => { regs := [(n, v, p)], result := some (v.setWidth 64, p), ate := p }
  | .o n => { regs := [(640 + n, v, p)], result := some (v.setWidth 64, p), ate := p }
  | .none => { ate := p }

/-- A 64-bit result in the pair D. -/
def gift64 (d : Dst) (v : W64) (p : Bool) : Gift :=
  let two (k : Nat) : List (Nat × W32 × Bool) := [(k, v.setWidth 32, p), (k + 1, (v >>> 32).setWidth 32, p)]
  match d with
  | .v n => { regs := two n, result := some (v, p), ate := p }
  | .o n => { regs := two (640 + n), result := some (v, p), ate := p }
  | .none => { ate := p }

/-- Lane b is lane a after the gift, and nothing else of it has changed. -/
structure Received (a b : Lane) (g : Gift) : Prop where
  written : ∀ w ∈ g.regs, rfVal b.regs w.1 = w.2.1 ∧ rfPois b.regs w.1 = w.2.2
  kept : ∀ k, k ∉ g.regs.map Prod.fst → rfVal b.regs k = rfVal a.regs k ∧ rfPois b.regs k = rfPois a.regs k
  result : ∀ v, g.result = some v → b.l0 = v.1 ∧ b.l0p = v.2 ∧ b.l1 = a.l0 ∧ b.l1p = a.l0p
  noResult : g.result = none → b.l0 = a.l0 ∧ b.l0p = a.l0p ∧ b.l1 = a.l1 ∧ b.l1p = a.l1p
  preds : ∀ q ∈ g.preds, q.1 < 7 → b.pred q.1 = q.2.1 ∧ b.predP q.1 = q.2.2
  predsKept : ∀ j, j ∉ g.preds.map Prod.fst → b.pred j = a.pred j ∧ b.predP j = a.predP j
  rng : b.rng = g.rng.getD a.rng
  psum : b.psum = (a.psum || g.ate && a.item.isSome)
  rest : { b with regs := a.regs, l0 := a.l0, l0p := a.l0p, l1 := a.l1, l1p := a.l1p, preds := a.preds, predp := a.predp,
                  rng := a.rng, psum := a.psum } = a

/-! ## What is left as it was -/

/-- Nothing has changed but the lanes and suits of one hand, the poison marks of its core, and what contexts hold. -/
structure OnlyHand (s t : State) (h : HandRef) : Prop where
  device : { t with cores := s.cores, ctxs := s.ctxs } = s
  cores : ∀ c, coreKey c ≠ coreKey h.cr → t.core c = s.core c
  core : { t.core h.cr with hands := (s.core h.cr).hands, kpsum := (s.core h.cr).kpsum } = s.core h.cr
  hands : ∀ n, n ≠ h.hand → kGet {} n (t.core h.cr).hands = kGet {} n (s.core h.cr).hands
  hand : { t.hand h with lanes := (s.hand h).lanes, suits := (s.hand h).suits } = s.hand h

/-- The byte that HBM holds at a physical address. -/
def State.byte (s : State) (a : Nat) : Byte := kGet 0 a s.mem

/-- Nothing has changed outside one hand. -/
structure WithinHand (s t : State) (h : HandRef) : Prop where
  device : { t with cores := s.cores } = s
  cores : ∀ c, coreKey c ≠ coreKey h.cr → t.core c = s.core c
  core : { t.core h.cr with hands := (s.core h.cr).hands } = s.core h.cr
  hands : ∀ n, n ≠ h.hand → kGet {} n (t.core h.cr).hands = kGet {} n (s.core h.cr).hands

/-- Nothing has changed outside one context. -/
structure WithinCtx (s t : State) (c : Nat) : Prop where
  device : { t with ctxs := s.ctxs } = s
  others : ∀ d, d ≠ c → t.ctx d = s.ctx d

/-- No context has changed, and no core's poison marks. -/
def NoPoison (s t : State) (h : HandRef) : Prop := t.ctxs = s.ctxs ∧ (t.core h.cr).kpsum = (s.core h.cr).kpsum

/-- The suit stands behind the instruction, and every other suit of its hand where it stood. -/
structure Passed (s t : State) (x : Iss) : Prop where
  suit : (t.hand x.r.hr).suit x.r.suit = some { x.u with pos := x.u.pos.after s.npc, stall := .ready, wait := 0 }
  others : ∀ n, n ≠ x.r.suit → (t.hand x.r.hr).suit n = (s.hand x.r.hr).suit n

/-- An instruction answers a next state: it gives each executing lane of its issue something, and changes nothing else. -/
def GivenTo (s : State) (i : Instr) (x : Iss) (f : Nat → Gift) : Prop :=
  ∃ t, exec i s = .next t ∧ (∀ l ∈ x.ex, Received (s.lane x.r.hr l) (t.lane x.r.hr l) (f l)) ∧
    (∀ l, l ∉ x.ex → t.lane x.r.hr l = s.lane x.r.hr l) ∧ OnlyHand s t x.r.hr ∧ Passed s t x ∧
    ((∀ l ∈ x.ex, (f l).ate = false) → NoPoison s t x.r.hr)

/-- The same of the lanes that execute under a guard. -/
def Given (s : State) (i : Instr) (g : Grd) (f : Iss → Nat → Gift) : Prop := GivenTo s i (s.issuing g) (f (s.issuing g))

/-- It does so at a state in which nothing holds it back. -/
def GivesAt (s : State) (i : Instr) (g : Grd) (keys : List Nat) (wins : List (Nat × Nat)) (f : Iss → Nat → Gift) : Prop :=
  s.clearAt g keys wins = true → Given s i g f

/-- The same at every state. -/
def Gives (i : Instr) (g : Grd) (keys : List Nat) (wins : List (Nat × Nat)) (f : Iss → Nat → Gift) : Prop :=
  ∀ s : State, GivesAt s i g keys wins f

end Sys2Proof.Machine
end

