-- ==== Sys2Proof/Certificates/Slice0/Obligations.lean ====
section
/-! DEFINITION. Sys2Proof/Certificates/Slice0/Obligations.lean: the statements for the provers, by family of the opcode table,
each family after the values it speaks of. -/

namespace Sys2Proof.Machine

/-! ## Reset, steps and words (01, 06, 17) -/

/-- The word that HBM holds at a physical address. -/
def State.wordAt (s : State) (pa : Nat) : W32 := s.byte (pa + 3) ++ s.byte (pa + 2) ++ s.byte (pa + 1) ++ s.byte pa

/-- Words that decode, as the first words of any code, to an instruction. -/
def Reads (ws : List W32) (i : Instr) : Prop := ∀ rest, decodeAny (ws ++ rest) = .ok i

end Sys2Proof.Machine

section
open Sys2Proof Sys2Proof.Machine

/-- Right after a cold boot in which every unit passes the device runs its primary image with its partitions sealed: no context, every hand Unformed with
tag 0, no kernel, every byte of memory 0, no poisoned sector, no device error, clock 0, and 48 cores and 64 channels on each of four dies (17 R357, 22
R388, 26 R437). The zeros of memory and of the clock, and the one partition, are the model's choice (logs 6, 7, 12). -/
def Obligations.ResetValues : Prop :=
  State.reset.power = .running ∧ State.reset.partsSealed = true ∧ State.reset.fwRecovery = false ∧ (∀ c, State.reset.ctx c = none) ∧
  (∀ h, (State.reset.hand h).st = .unformed ∧ (State.reset.hand h).gen = 0) ∧ (∀ a, State.reset.byte a = 0) ∧ (∀ k, State.reset.secPois k = false) ∧
  State.reset.derrt = 0 ∧ State.reset.quarn = 0 ∧ State.reset.clk = 0 ∧ State.reset.dies = [0, 1, 2, 3] ∧
  ∀ d, d < 4 → State.reset.devPart.descWord (1 + d) = 2 ^ 48 - 1 ∧ State.reset.devPart.descWord (5 + d) = 2 ^ 64 - 1

/-- The memory of the reset state is in its canonical form: nothing is listed (the form is the model's own). -/
def Obligations.ResetMemoryCanonical : Prop := State.reset.memWf = true

/-- Every step keeps the canonical form of memory: addresses strictly rising, and no listed byte equal to what an unlisted one reads as. So equal memories
are equal data, whatever instruction or event a step performs (the form is the model's own). -/
def Obligations.StepKeepsMemoryCanonical : Prop := ∀ s t : State, s.memWf = true → step s = .next t → t.memWf = true

/-- A step runs the decoded instruction. Fetching one word takes the word of memory at the address that its own translates to, where no engine operation
is writing its line. Where the agenda lets the suit issue that its quarter chooses, which is not about to give up its slot to rotation, the step is
exec of the clause header that the word fetched at its pc decodes to; or of the instruction that the words of its clause from its pc on decode to,
those decoded for it with the header or, where it has resumed within the clause, those fetched again. The address after the instruction is its pc and
4 times its words, and all but a header and NOP use the issue of the quarter. An event that the agenda names is exec of it, and with nothing named
what moves by itself moves (02 R44, 06 R149, R150, R157, 15 R315; the agenda is the model's own, log 1). That the words of a clause are kept with the
suit, and fetched again by one that resumes within it, is the model's reading (log 24). -/
def Obligations.StepRunsTheDecodedInstruction : Prop :=
  (∀ (s s1 : State) h gen ctx pl va pa c rp lo, s.translate h gen ctx { rd := true, wr := false, pl := pl } va = (.hit pa c rp lo, s1) →
    s.claimBars .mem h.cr (lineOf pa) false = false → ∃ t, s.fetchWords h gen ctx pl va 1 = .words [s.wordAt pa] t ∧ t.mem = s1.mem) ∧
  (∀ (s : State) r as u, s.agenda = .issue r :: as → s.up = true → { s with agenda := as }.chosen r = true → (s.hand r.hr).suit r.suit = some u →
    { s with agenda := as }.rotates r = false →
    let hd := s.hand r.hr
    let pl := (s.kernD hd.ctx u.kern).lrec.pl
    let s0 := { s with agenda := as }
    (∀ w s1 i, u.pos.pc = u.pos.hdr → s0.fetchWords r.hr hd.gen hd.ctx pl u.pos.pc 1 = .words [w] s1 → decodeHeader w = .ok i →
      step s = exec i { s1 with cur := r, npc := u.pos.pc + 4, issued := if freeIssue i then s1.issued else s1.issued ++ [r] }) ∧
    (∀ ws i, u.pos.pc ≠ u.pos.hdr → u.clause = some (u.pos.hdr, ws) → decodeWords (u.pos.rest ws) = .ok i →
      step s = exec i { s0 with cur := r, npc := u.pos.pc + 4 * lenWords ((u.pos.rest ws).headD 0).toNat
                                issued := if freeIssue i then s.issued else s.issued ++ [r] }) ∧
    (∀ ws s1 i, u.pos.pc ≠ u.pos.hdr → u.clause.map Prod.fst ≠ some u.pos.hdr →
      s0.fetchWords r.hr hd.gen hd.ctx pl (u.pos.hdr + 4) u.pos.body = .words ws s1 → decodeWords (u.pos.rest ws) = .ok i →
      step s = exec i { s1.modSuit r (fun v => { v with clause := some (u.pos.hdr, ws) }) with
        cur := r, npc := u.pos.pc + 4 * lenWords ((u.pos.rest ws).headD 0).toNat
        issued := if freeIssue i then s1.issued else s1.issued ++ [r] })) ∧
  (∀ (s : State) i as, s.agenda = .event i :: as → s.up = true → i.isEvent = true → step s = exec i { s with agenda := as }) ∧
  (∀ (s : State), s.agenda = [] → s.up = true → step s = step { s with agenda := [s.auto] })

/-- Decoding reads the words that the encoding tables give: one of each class of instruction (06 R132 to R162, and the encoding examples of 07 to 14). -/
def Obligations.DecodeReadsTheTables : Prop :=
  Reads [0x78804BFC] (.clauseHeader 15 1 9 1) ∧ Reads [0] .nop ∧
  Reads [0xE8102840] (.iadd (.v 5) (.v 4) (.imm 1)) ∧ Reads [0x0A083A40] (.isub (.v 7) (.v 2) (.v 5)) ∧
  Reads [0x00603041, 0xA87A4809, 0] (.iaddExt Grd.always { size := .w8, sgn := true } true (.v 6) (.v 3) (.v 9)) ∧
  Reads [0x00402071, 0x007A4B83, 1] (.iset Grd.always { size := .w32, sgn := false } .ne false 0 (.v 4) (.v 2) (.imm 3)) ∧
  Reads [0x5C749009, 0x007A4A92, 0xFFFFFFFC] (.br Grd.always (.p 3) 0xFFFFFFFC) ∧
  Reads [0x01549029, 0x007A4828, 0x84] (.cut { start := 10, len := 4 } { start := 40, len := 2 } { start := 0, len := 0 }) ∧
  Reads [0xE00414C0] (.fmul (.v 2) (.v 1) (.l 0)) ∧
  Reads [0x01004949, 0x817A4A92, 1] (.hred Grd.always { pen := false, pd := 0, msk := false, scope := .tbl } .fadd .rne (.v 9) (.v 8) .zero) ∧
  Reads [0x00402161, 0x207A4A92, 0x40] (.ld Grd.always false { seg := .gl, pol := .shared, disp := 0x40 } .b32 false (.v 4) (.v 2)) ∧
  Reads [0x52549199, 0x00701002, 0x20000000] (.cpyw Grd.always false .gl .zero (.v 2) (.v 4)) ∧
  Reads [0x001491BD, 0x007A4A92, 0x00011000] (.mma false { team := false, tile := 0, fa := 1, fb := 1, km1 := 0 } 0 .zero none) ∧
  Reads [0x028071DD, 0x107A4A92, 0] (.claim Grd.always false 14 1 (.v 20)) ∧
  Reads [0x525493F1, 0x007A4AA4, 0x010C1181] (.movpWrite Grd.always true 12 0x181 (.k 4))

/-- Decoding gives back every well-formed instruction from its words, with every operand at every value that its encoding admits, whatever words follow
(06 R132 to R162). -/
def Obligations.DecodingEncodedGivesTheInstruction : Prop :=
  ∀ i : Instr, i.isEvent = false → i.wf = true → ∃ ws, encode i = some ws ∧ Reads ws i

/-- Words have one meaning: what decodes is well formed and no event, and its own encoding is the words it was read from, so that no bit of them is
ignored (06 R132, R139, R141). -/
def Obligations.DecodedWordsAreTheEncoding : Prop :=
  ∀ (ws : List W32) (i : Instr), decodeAny ws = .ok i → i.wf = true ∧ i.isEvent = false ∧ ∃ us rest, encode i = some us ∧ ws = us ++ rest

end

namespace Sys2Proof.Machine

/-! ## Integer instructions (08) -/

/-- The poison of a result: that of any operand read (08 R184). -/
def Iss.anyPois (x : Iss) (l : Nat) (srcs : List Src) : Bool := srcs.any (fun a => x.pois .w32 l a)

def lead0 (x : W32) : Nat := ((List.range 32).find? (fun i => x.getMsbD i)).getD 32
def trail0 (x : W32) : Nat := ((List.range 32).find? (fun i => x.getLsbD i)).getD 32
def ones (x : W32) : Nat := (List.range 32).countP (fun i => x.getLsbD i)

/-- What an instruction on whole words computes (08 R186, R188 to R190, base forms by 06 R135): guard, destination, sources and
the function of their words. -/
def wordFun : Instr → Option (Grd × Dst × Src × Src × Src × (W32 → W32 → W32 → W32))
  | .iadd d a b => some (Grd.always, d, a, b, .zero, fun x y _ => x + y)
  | .isub d a b => some (Grd.always, d, a, b, .zero, fun x y _ => x - y)
  | .imul d a b => some (Grd.always, d, a, b, .zero, fun x y _ => x * y)
  | .imulh d a b => some (Grd.always, d, a, b, .zero, fun x y _ => ((x.setWidth 64 * y.setWidth 64) >>> 32).setWidth 32)
  | .imin d a b => some (Grd.always, d, a, b, .zero, fun x y _ => if x ≤ y then x else y)
  | .imax d a b => some (Grd.always, d, a, b, .zero, fun x y _ => if x ≤ y then y else x)
  | .iabs d a => some (Grd.always, d, a, .zero, .zero, fun x _ _ => if x.msb then -x else x)
  | .ineg d a => some (Grd.always, d, a, .zero, .zero, fun x _ _ => -x)
  | .and d a b => some (Grd.always, d, a, b, .zero, fun x y _ => x &&& y)
  | .andExt g d a b => some (g, d, a, b, .zero, fun x y _ => x &&& y)
  | .or d a b => some (Grd.always, d, a, b, .zero, fun x y _ => x ||| y)
  | .orExt g d a b => some (g, d, a, b, .zero, fun x y _ => x ||| y)
  | .xor d a b => some (Grd.always, d, a, b, .zero, fun x y _ => x ^^^ y)
  | .xorExt g d a b => some (g, d, a, b, .zero, fun x y _ => x ^^^ y)
  | .andn d a b => some (Grd.always, d, a, b, .zero, fun x y _ => x &&& ~~~y)
  | .andnExt g d a b => some (g, d, a, b, .zero, fun x y _ => x &&& ~~~y)
  | .not d a => some (Grd.always, d, a, .zero, .zero, fun x _ _ => ~~~x)
  | .notExt g d a => some (g, d, a, .zero, .zero, fun x _ _ => ~~~x)
  | .shl d a b => some (Grd.always, d, a, b, .zero, fun x y _ => x <<< y.toNat)
  | .shr d a b => some (Grd.always, d, a, b, .zero, fun x y _ => x >>> y.toNat)
  | .sar d a b => some (Grd.always, d, a, b, .zero, fun x y _ => x.sshiftRight y.toNat)
  | .rot d a b => some (Grd.always, d, a, b, .zero, fun x y _ => x.rotateLeft y.toNat)
  | .popc d a => some (Grd.always, d, a, .zero, .zero, fun x _ _ => BitVec.ofNat 32 (ones x))
  | .popcExt g d a => some (g, d, a, .zero, .zero, fun x _ _ => BitVec.ofNat 32 (ones x))
  | .clz d a => some (Grd.always, d, a, .zero, .zero, fun x _ _ => BitVec.ofNat 32 (lead0 x))
  | .clzExt g d a => some (g, d, a, .zero, .zero, fun x _ _ => BitVec.ofNat 32 (lead0 x))
  | .ctz d a => some (Grd.always, d, a, .zero, .zero, fun x _ _ => BitVec.ofNat 32 (trail0 x))
  | .ctzExt g d a => some (g, d, a, .zero, .zero, fun x _ _ => BitVec.ofNat 32 (trail0 x))
  | .brev d a => some (Grd.always, d, a, .zero, .zero, fun x _ _ => x.reverse)
  | .brevExt g d a => some (g, d, a, .zero, .zero, fun x _ _ => x.reverse)
  | .sel g d a b c => some (g, d, a, b, c, fun x y z => if z = 0 then y else x)
  | .mov d a => some (Grd.always, d, a, .zero, .zero, fun x _ _ => x)
  | .movExt g d a => some (g, d, a, .zero, .zero, fun x _ _ => x)
  | _ => none

/-- Element j of width w of a word (08 R185). -/
def elemAt (w : Nat) (x : W32) (j : Nat) : BitVec w := x.extractLsb' (w * j) w

/-- Its integer, by signedness. -/
def elemInt {w : Nat} (sgn : Bool) (e : BitVec w) : Int := if sgn then e.toInt else e.toNat

/-- The nearest integer that w bits hold (05 R108). -/
def clampInt (w : Nat) (sgn : Bool) (e : Int) : Int :=
  if sgn then max (-(2 ^ (w - 1) : Int)) (min e (2 ^ (w - 1) - 1)) else max 0 (min e (2 ^ w - 1))

/-- A word whose every element is the wrapped or clamped value of an exact integer function of the operands' elements
(08 R186). -/
def ElementsAre (ty : ITy) (sat : Bool) (e : Int → Int → Int → Int) (x y z r : W32) : Prop :=
  ∀ j, j < 32 / isizeBits ty.size →
    let w := isizeBits ty.size
    let v := e (elemInt ty.sgn (elemAt w x j)) (elemInt ty.sgn (elemAt w y j)) (elemInt ty.sgn (elemAt w z j))
    elemAt w r j = BitVec.ofInt w (if sat then clampInt w ty.sgn v else v)

/-- The exact value of each element-wise instruction (08 Table 8.3): guard, type, SAT, destination, sources, function. -/
def elemFun : Instr → Option (Grd × ITy × Bool × Dst × Src × Src × Src × (Int → Int → Int → Int))
  | .iaddExt g ty sat d a b => some (g, ty, sat, d, a, b, .zero, fun x y _ => x + y)
  | .isubExt g ty sat d a b => some (g, ty, sat, d, a, b, .zero, fun x y _ => x - y)
  | .imulExt g ty sat d a b => some (g, ty, sat, d, a, b, .zero, fun x y _ => x * y)
  | .imulhExt g ty d a b => some (g, ty, false, d, a, b, .zero, fun x y _ => (x * y).fdiv (2 ^ isizeBits ty.size))
  | .imad g ty sat d a b c => some (g, ty, sat, d, a, b, c, fun x y z => x * y + z)
  | .iminExt g ty d a b => some (g, ty, false, d, a, b, .zero, fun x y _ => min x y)
  | .imaxExt g ty d a b => some (g, ty, false, d, a, b, .zero, fun x y _ => max x y)
  | .iabsExt g ty sat d a => some (g, ty, sat, d, a, .zero, .zero, fun x _ _ => (x.natAbs : Int))
  | .inegExt g ty sat d a => some (g, ty, sat, d, a, .zero, .zero, fun x _ _ => -x)
  | _ => none

/-- The value an operand of an element-wise instruction has: constants are replicated into every element (06 R137). -/
def Iss.packed (x : Iss) (sz : ISize) (l : Nat) (a : Src) : W32 := BitVec.ofNat 32 (x.val (.packed sz) l a)

/-- What each element of a shift or rotation is, from the element and its count, both unsigned (08 R188). -/
def shiftFun : Instr → Option (Grd × ISize × Dst × Src × Src × ((w : Nat) → BitVec w → Nat → BitVec w))
  | .shlExt g sz d a b => some (g, sz, d, a, b, fun _ x n => x <<< n)
  | .shrExt g sz d a b => some (g, sz, d, a, b, fun _ x n => x >>> n)
  | .sarExt g sz d a b => some (g, sz, d, a, b, fun _ x n => x.sshiftRight n)
  | .rotExt g sz r d a b => some (g, sz, d, a, b, fun _ x n => if r then x.rotateRight n else x.rotateLeft n)
  | _ => none

/-- Position and length of a bit-field control word (08 R189). -/
def ctlPos (c : W32) : Nat := c.toNat % 256
def ctlLen (c : W32) : Nat := min (c.toNat / 256 % 256) 32

/-- The byte that a control byte of BSEL builds from the pair B:A (08 R189). -/
def bselByte (x : W64) (c : BitVec 8) : BitVec 8 :=
  let y : BitVec 8 := x.extractLsb' (8 * (c.toNat % 8)) 8
  match c.toNat / 8 % 4 with
  | 0 => y
  | 1 => 0
  | 2 => 0xFF
  | _ => if y.msb then 0xFF else 0

/-- The integer of an operand, by signedness. -/
def intOf {w : Nat} (sgn : Bool) (x : BitVec w) : Int := if sgn then x.toInt else x.toNat

/-- A 64-bit result, wrapped or clamped (08 R187). -/
def wide64 (sgn sat : Bool) (e : Int) : W64 := BitVec.ofInt 64 (if sat then clampInt 64 sgn e else e)

/-- Whether a comparison holds (08 R190). -/
def cmpHolds (cc : ICc) (x y : Int) : Prop :=
  match cc with
  | .eq => x = y | .ne => x ≠ y | .lt => x < y | .le => x ≤ y | .gt => x > y | .ge => x ≥ y

end Sys2Proof.Machine

section
open Sys2Proof Sys2Proof.Machine

/-- Every instruction on whole words completes in every executing lane, writes the value of its table to D with the poison of what it read, shifts the
last-result slots, and changes nothing else (08 R183 to R190, 06 R147). -/
def Obligations.WordInstructionsComplete : Prop :=
  ∀ i g d a b c f, wordFun i = some (g, d, a, b, c, f) →
    Gives i g (namesOf 1 d [(1, a), (1, b), (1, c)]) (windowsOf 1 d [(1, a), (1, b), (1, c)])
      (fun x l => gift32 d (f (x.w32 l a) (x.w32 l b) (x.w32 l c)) (x.anyPois l [a, b, c]))

/-- Every element-wise instruction completes with a D whose elements are those of the table, wrapped or clamped (08 R185, R186, 05 R108). -/
def Obligations.ElementInstructionsComplete : Prop :=
  ∀ i g ty sat d a b c e, elemFun i = some (g, ty, sat, d, a, b, c, e) →
    ∃ r : Iss → Nat → W32,
      (∀ x l, ElementsAre ty sat e (x.packed ty.size l a) (x.packed ty.size l b) (x.packed ty.size l c) (r x l)) ∧
      Gives i g (namesOf 1 d [(1, a), (1, b), (1, c)]) (windowsOf 1 d [(1, a), (1, b), (1, c)])
        (fun x l => gift32 d (r x l) (x.anyPois l [a, b, c]))

/-- Every typed shift and rotation completes, element by element, with the matching count of B and no masking of it (08 R188). SHF, BFE, BFI and BSEL
complete with the words of their rules: the pair shifted; a field extracted, zero- or sign-extended; a field inserted, its bits beyond bit 31 dropped;
each byte by its control byte (08 R188, R189). -/
def Obligations.ShiftAndFieldInstructionsComplete : Prop :=
  (∀ i g sz d a b f, shiftFun i = some (g, sz, d, a, b, f) →
    ∃ r : Iss → Nat → W32,
      (∀ x l j, j < 32 / isizeBits sz →
        elemAt (isizeBits sz) (r x l) j = f _ (elemAt _ (x.packed sz l a) j) (elemAt (isizeBits sz) (x.packed sz l b) j).toNat) ∧
      Gives i g (namesOf 1 d [(1, a), (1, b)]) (windowsOf 1 d [(1, a), (1, b)]) (fun x l => gift32 d (r x l) (x.anyPois l [a, b]))) ∧
  ((∀ g r d a b c, Gives (.shf g r d a b c) g (namesOf 1 d [(1, a), (1, b), (1, c)]) (windowsOf 1 d [(1, a), (1, b), (1, c)])
    (fun x l =>
      let n := min (x.w32 l c).toNat 32
      let p : W64 := x.w32 l b ++ x.w32 l a
      gift32 d (if r then (p >>> n).setWidth 32 else ((p <<< n) >>> 32).setWidth 32) (x.anyPois l [a, b, c]))) ∧
  (∀ g (sgn : Bool) d a b, ∃ v : Iss → Nat → W32,
    (∀ x l i, i < 32 → (v x l).getLsbD i =
      (let p := ctlPos (x.w32 l b); let n := ctlLen (x.w32 l b); let k := if i < n then i else n - 1
       if n = 0 then false
       else if i < n ∨ sgn = true then (if p + k < 32 then (x.w32 l a).getLsbD (p + k) else sgn && (x.w32 l a).msb)
       else false)) ∧
    Gives (.bfe g sgn d a b) g (namesOf 1 d [(1, a), (1, b)]) (windowsOf 1 d [(1, a), (1, b)])
      (fun x l => gift32 d (v x l) (x.anyPois l [a, b]))) ∧
  (∀ g d a b c, ∃ v : Iss → Nat → W32,
    (∀ x l i, i < 32 → (v x l).getLsbD i =
      (let p := ctlPos (x.w32 l c)
       if p ≤ i ∧ i < p + ctlLen (x.w32 l c) then (x.w32 l b).getLsbD (i - p) else (x.w32 l a).getLsbD i)) ∧
    Gives (.bfi g d a b c) g (namesOf 1 d [(1, a), (1, b), (1, c)]) (windowsOf 1 d [(1, a), (1, b), (1, c)])
      (fun x l => gift32 d (v x l) (x.anyPois l [a, b, c]))) ∧
  (∀ g d a b c, ∃ v : Iss → Nat → W32,
    (∀ x l j, j < 4 → elemAt 8 (v x l) j = bselByte (x.w32 l b ++ x.w32 l a) (elemAt 8 (x.w32 l c) j)) ∧
    Gives (.bsel g d a b c) g (namesOf 1 d [(1, a), (1, b), (1, c)]) (windowsOf 1 d [(1, a), (1, b), (1, c)])
      (fun x l => gift32 d (v x l) (x.anyPois l [a, b, c]))))

/-- IADDC, IMADW, LEA and IADD64 complete with the exact sums of their rule, wrapped or clamped to the destination; IADDC with PEN writes the carry out to
its predicate (08 R187). ISET completes with all ones in each element that compares true and zeros in the others, and with PEN writes the whole
comparison to its predicate; PSET completes with the bit of its table that the three operands pick, in D and in its predicate (08 R190). -/
def Obligations.PredicateAndWideInstructionsComplete : Prop :=
  ((∀ g pen pd d a b c, Gives (.iaddc g pen pd d a b c) g (namesOf 1 d [(1, a), (1, b), (1, c)]) (windowsOf 1 d [(1, a), (1, b), (1, c)])
    (fun x l =>
      let sum := (x.w32 l a).toNat + (x.w32 l b).toNat + (x.w32 l c).toNat % 2
      let p := x.anyPois l [a, b, c]
      { gift32 d (BitVec.ofNat 32 sum) p with preds := if pen then [(pd, decide (2 ^ 32 ≤ sum), p)] else [] })) ∧
  (∀ g sgn sat d a b c, Gives (.imadw g sgn sat d a b c) g (namesOf 2 d [(1, a), (1, b), (2, c)]) (windowsOf 2 d [(1, a), (1, b), (2, c)])
    (fun x l => gift64 d (wide64 sgn sat (intOf sgn (x.w32 l a) * intOf sgn (x.w32 l b) + intOf sgn (x.w64 l c)))
      (x.pois .w32 l a || x.pois .w32 l b || x.pois .w64 l c))) ∧
  (∀ g sgn sh d a b, Gives (.lea g sgn sh d a b) g (namesOf 2 d [(2, a), (1, b)]) (windowsOf 2 d [(2, a), (1, b)])
    (fun x l => gift64 d (BitVec.ofInt 64 ((x.w64 l a).toNat + intOf sgn (x.w32 l b) * 2 ^ sh)) (x.pois .w64 l a || x.pois .w32 l b))) ∧
  (∀ d a b, Gives (.iadd64 d a b) Grd.always (namesOf 2 d [(2, a), (2, b)]) (windowsOf 2 d [(2, a), (2, b)])
    (fun x l => gift64 d (x.w64 l a + x.w64 l b) (x.pois .w64 l a || x.pois .w64 l b))) ∧
  (∀ g sgn sat d a b, Gives (.iadd64Ext g sgn sat d a b) g (namesOf 2 d [(2, a), (2, b)]) (windowsOf 2 d [(2, a), (2, b)])
    (fun x l => gift64 d (wide64 sgn sat (intOf sgn (x.w64 l a) + intOf sgn (x.w64 l b))) (x.pois .w64 l a || x.pois .w64 l b)))) ∧
  ((∀ g ty cc pen pd d a b, (pen = true → ty.size = .w32) → ∃ v : Iss → Nat → W32,
    (∀ x l j, j < 32 / isizeBits ty.size →
      (cmpHolds cc (elemInt ty.sgn (elemAt (isizeBits ty.size) (x.packed ty.size l a) j))
        (elemInt ty.sgn (elemAt (isizeBits ty.size) (x.packed ty.size l b) j)) ∧ elemAt (isizeBits ty.size) (v x l) j = BitVec.allOnes _) ∨
      (¬cmpHolds cc (elemInt ty.sgn (elemAt (isizeBits ty.size) (x.packed ty.size l a) j))
        (elemInt ty.sgn (elemAt (isizeBits ty.size) (x.packed ty.size l b) j)) ∧ elemAt (isizeBits ty.size) (v x l) j = 0)) ∧
    Gives (.iset g ty cc pen pd d a b) g (namesOf 1 d [(1, a), (1, b)]) (windowsOf 1 d [(1, a), (1, b)])
      (fun x l => { gift32 d (v x l) (x.anyPois l [a, b]) with
                    preds := if pen then [(pd, decide (v x l ≠ 0), x.anyPois l [a, b])] else [] })) ∧
  (∀ g pd lut d a b c, Gives (.pset g pd lut d a b c) g (namesOf 1 d [(1, a), (1, b), (1, c)]) (windowsOf 1 d [(1, a), (1, b), (1, c)])
    (fun x l =>
      let bit := lut.getLsbD ((if x.w32 l a = 0 then 0 else 4) + (if x.w32 l b = 0 then 0 else 2) + (if x.w32 l c = 0 then 0 else 1))
      { gift32 d (if bit then 1 else 0) (x.anyPois l [a, b, c]) with preds := [(pd, bit, x.anyPois l [a, b, c])] })))

end

namespace Sys2Proof.Machine

/-! ## Run-time indexes (08 R191) -/

/-- The index of a lane, and whether it is in range: below W, inside the seat, and not poisoned. -/
def Iss.idx (x : Iss) (l : Nat) (a : Src) : Nat := (x.w32 l a).toNat
def Iss.idxOk (x : Iss) (l : Nat) (a : Src) (base w : Nat) : Bool :=
  decide (x.idx l a < w) && decide (base + x.idx l a < x.seat) && !x.pois .w32 l a

/-- The lane leases the register that its index picks. -/
def Iss.idxLeased (x : Iss) (l : Nat) (a : Src) (base : Nat) : Prop := ∃ op, (base + x.idx l a, op) ∈ (x.lane l).leases

end Sys2Proof.Machine

section
open Sys2Proof Sys2Proof.Machine

/-- MOVX completes with the register that each lane's index picks, and MOVXW writes B to it and shifts it into l0, when every executing lane's index is in
range and the picked register is not leased (08 R191). An index outside its window or the seat, or a poisoned one, traps: kind 3, with the lanes whose
index is bad, the index of the lowest of them, and base and width of the window, unless a lane leases the register that a good index picks (08 R191,
23 R396). That the trap is what a poisoned index does, and sets no s.psum of its own, against 08 R184, is the model's reading (log 43). -/
def Obligations.IndexedMovesCompleteOrTrap : Prop :=
  ((∀ (s : State) g d a base w, s.clearAt g (namesOf 1 d [(1, a)]) (windowsOf 1 d [(1, a)]) = true →
    (∀ l ∈ (s.issuing g).ex, (s.issuing g).idxOk l a base w = true ∧ ¬(s.issuing g).idxLeased l a base) →
    Given s (.movx g d a base w) g (fun x l =>
      gift32 d (rfVal (x.lane l).regs (base + x.idx l a)) (rfPois (x.lane l).regs (base + x.idx l a)))) ∧
  (∀ (s : State) g base a b w, s.clearAt g (namesOf 1 .none [(1, a), (1, b)]) (windowsOf 1 .none [(1, a), (1, b)]) = true →
    (∀ l ∈ (s.issuing g).ex, (s.issuing g).idxOk l a base w = true ∧ ¬(s.issuing g).idxLeased l a base) →
    Given s (.movxw g base a b w) g (fun x l => gift32 (.v (base + x.idx l a)) (x.w32 l b) (x.pois .w32 l b)))) ∧
  (∀ (s : State) (g : Grd) (d : Dst) (a b : Src) (base w l : Nat) (bad : List Nat) (i : Instr) (srcs : List (Nat × Src)) (e : Dst),
    (i = .movx g d a base w ∧ srcs = [(1, a)] ∧ e = d) ∨ (i = .movxw g base a b w ∧ srcs = [(1, a), (1, b)] ∧ e = .none) →
    s.clearAt g (namesOf 1 e srcs) (windowsOf 1 e srcs) = true →
    (∀ j ∈ (s.issuing g).ex, (s.issuing g).idxOk j a base w = true → ¬(s.issuing g).idxLeased j a base) →
    (s.issuing g).ex.filter (fun j => !(s.issuing g).idxOk j a base w) = l :: bad →
    exec i s = .next (s.trapEntry s.cur 3 0 (l :: bad) (s.issuing g).act ((s.issuing g).u.pos.after s.npc)
      ((s.issuing g).idx l a) (base * 2 ^ 32 + w)))

end

namespace Sys2Proof.Machine

/-! ## Floating point (09) -/

/-- A generator stepped n times (05 R116). -/
def stepped : Nat → W32 → W32
  | 0, g => g
  | n + 1, g => stepped n (nextRandom g)

/-- The mode in which an instruction rounds, its word for element j, and the generator after n elements: only RS draws
(05 R113, R114, R116, 09 R196). -/
def Iss.rm (x : Iss) (r : Rnd) : Rnd := rndIn x.mode r
def Iss.word (x : Iss) (r : Rnd) (l j : Nat) : Nat := if x.rm r = .rs then (stepped (j + 1) (x.lane l).rng).toNat else 0
def Iss.rngAfter (x : Iss) (r : Rnd) (n l : Nat) : W32 := if x.rm r = .rs then stepped n (x.lane l).rng else (x.lane l).rng

/-- An operand after DAZ, and a result rounded once and flushed by FTZ (05 R110). -/
def Iss.flt (x : Iss) (f : FFmt) (c : Nat) : FV := f.value (f.flush (modeDaz x.mode) c)
def Iss.rounded (x : Iss) (r : Rnd) (f : FFmt) (l j : Nat) (sat : Bool) (v : FV) : Nat :=
  f.flush (modeFtz x.mode) (f.round (x.rm r) (x.word r l j) sat v)

/-- A result with the generator after n elements. -/
def Gift.drew (g : Gift) (x : Iss) (r : Rnd) (n l : Nat) : Gift := { g with rng := some (x.rngAfter r n l) }

/-- The exact value of each FP32 instruction of 09 R197, before its one rounding; the flag says that a zero sum of opposite
signs is −0. -/
def fp32Fun : Instr → Option (Grd × Rnd × Dst × Src × Src × Src × (Bool → FV → FV → FV → FV))
  | .fadd d a b => some (Grd.always, .mode, d, a, b, .zero, fun dn x y _ => FV.add dn x y)
  | .faddExt g r d a b => some (g, r, d, a, b, .zero, fun dn x y _ => FV.add dn x y)
  | .fsub d a b => some (Grd.always, .mode, d, a, b, .zero, fun dn x y _ => FV.add dn x y.negate)
  | .fsubExt g r d a b => some (g, r, d, a, b, .zero, fun dn x y _ => FV.add dn x y.negate)
  | .fmul d a b => some (Grd.always, .mode, d, a, b, .zero, fun _ x y _ => FV.mul x y)
  | .fmulExt g r d a b => some (g, r, d, a, b, .zero, fun _ x y _ => FV.mul x y)
  | .fmac g r np nc d a b c => some (g, r, d, a, b, c, fun dn x y z =>
      FV.add dn (if np then (FV.mul x y).negate else FV.mul x y) (if nc then z.negate else z))
  | _ => none

/-- The value of each packed instruction of 09 R203: guard, format, mode, SAT, destination, sources, function. -/
def pairFun : Instr → Option (Grd × FFmt × Bool × Rnd × Bool × Dst × Src × Src × Src × (Bool → FV → FV → FV → FV))
  | .hadd2 d a b => some (Grd.always, f16, false, .mode, false, d, a, b, .zero, fun dn x y _ => FV.add dn x y)
  | .hadd2Ext g bf r sat nb d a b => some (g, if bf then bf16 else f16, bf, r, sat, d, a, b, .zero, fun dn x y _ =>
      FV.add dn x (if nb then y.negate else y))
  | .hmul2 d a b => some (Grd.always, f16, false, .mode, false, d, a, b, .zero, fun _ x y _ => FV.mul x y)
  | .hmul2Ext g bf r sat d a b => some (g, if bf then bf16 else f16, bf, r, sat, d, a, b, .zero, fun _ x y _ => FV.mul x y)
  | .hfma2 g bf r sat np nc d a b c => some (g, if bf then bf16 else f16, bf, r, sat, d, a, b, c, fun dn x y z =>
      FV.add dn (if np then (FV.mul x y).negate else FV.mul x y) (if nc then z.negate else z))
  | _ => none

/-- Element j of a packed pair of codes, and a pair built from two. -/
def elem16 (j x : Nat) : Nat := x / 2 ^ (16 * j) % 2 ^ 16
def pair16 (lo hi : Nat) : W32 := BitVec.ofNat 32 (lo + 2 ^ 16 * hi)

/-- What FMIN or FMAX gives: one operand, or the canonical NaN (09 R198). -/
def numPick (f : FFmt) (mx : Bool) (a b : Nat) : Nat :=
  match (f.value a).isNan, (f.value b).isNan with
  | true, true => f.nanc
  | true, false => b
  | false, true => a
  | false, false =>
    let below := FV.lt (f.value a) (f.value b) || (FV.eq (f.value a) (f.value b) && (f.value a).isNeg && !(f.value b).isNeg)
    if below then (if mx then b else a) else (if mx then a else b)

/-- The instructions that pick one of two numbers: guard, format, packed, which, destination, sources. -/
def pickFun : Instr → Option (Grd × Bool × Dst × Src × Src)
  | .fmin d a b => some (Grd.always, false, d, a, b)
  | .fminExt g d a b => some (g, false, d, a, b)
  | .fmax d a b => some (Grd.always, true, d, a, b)
  | .fmaxExt g d a b => some (g, true, d, a, b)
  | _ => none

def pick2Fun : Instr → Option (Grd × Bool × Bool × Dst × Src × Src)
  | .hmin2 d a b => some (Grd.always, false, false, d, a, b)
  | .hmin2Ext g bf d a b => some (g, bf, false, d, a, b)
  | .hmax2 d a b => some (Grd.always, false, true, d, a, b)
  | .hmax2Ext g bf d a b => some (g, bf, true, d, a, b)
  | _ => none

/-- Whether an FSET comparison holds (09 Table 9.3). -/
def fsetHolds (cc : FCc) (a b : FV) : Bool :=
  let nan := a.isNan || b.isNan
  match cc with
  | .eq => !nan && FV.eq a b
  | .ne => nan || !FV.eq a b
  | .lt => !nan && FV.lt a b
  | .le => !nan && (FV.lt a b || FV.eq a b)
  | .gt => !nan && FV.lt b a
  | .ge => !nan && (FV.lt b a || FV.eq a b)
  | .num => !nan
  | .nan => nan

/-- The class of an FP32 code, one bit of 09 Table 9.4: signalling and quiet NaN; −∞, −normal, −subnormal, −0; +0, +subnormal, +normal, +∞. -/
def classWord (v : W32) : W32 :=
  let ex := v.extractLsb' 23 8
  let man := v.extractLsb' 0 23
  if ex = BitVec.allOnes 8 ∧ man ≠ 0 then (if man.msb then 2 else 1)
  else if ex = BitVec.allOnes 8 then (if v.msb then 4 else 512)
  else if ex ≠ 0 then (if v.msb then 8 else 256)
  else if man ≠ 0 then (if v.msb then 16 else 128)
  else if v.msb then 32 else 64

/-- The results of an approximate function on special operands, by the rows of 09 Table 9.6: NaN, +∞, −∞, +0, −0; where the row gives a number, a finite
operand below zero, and a finite one of magnitude 2^16 or more. -/
structure Specials where
  nan : Nat
  pinf : Nat
  ninf : Nat
  pzero : Nat
  nzero : Nat
  below : Option Nat := none
  big : Option Nat := none

/-- A rational number, an ulp of FP32 in its binade (09 R201), and a value as sign, numerator and denominator. -/
def ratio (s : Bool) (n d : Nat) : Rat := ((sgnd s n : Int) : Rat) / ((d : Int) : Rat)
def pow2 (k : Int) : Rat := if 0 ≤ k then ((2 : Rat)) ^ k.toNat else 1 / (2 : Rat) ^ (-k).toNat
def ulpOf (n d : Nat) : Rat := pow2 (max (floorLog2 n d - 23) (-149))
def parts : FV → Bool × Nat × Nat
  | .fin s n d => (s, n, d)
  | _ => (false, 0, 1)

/-- A function of 09 Table 9.5 on the finite operand ±n/d other than zero: where it applies, the code where the table or Table 9.6 fixes it, its value, and the
bound. The value of FRCP is exact, and that of the others is the sum of a series to about 2^−100 (log 4). -/
structure Curve where
  applies : Bool → Nat → Nat → Bool := fun _ _ _ => true
  exact : Nat → Bool → Nat → Nat → Option Nat := fun _ _ _ _ => none
  val : Bool → Nat → Nat → Bool × Nat × Nat
  bound : Nat → Nat → Nat → Nat → Rat

def frcpCurve : Curve where
  exact _ s n d := if isPow2 n d then some (f32.round .rne 0 false (.fin s d n)) else none
  val s n d := (s, d, n)
  bound _ _ p q := ulpOf p q

def frsqCurve : Curve where
  applies s _ _ := !s
  exact _ _ n d := if isPow2 n d && floorLog2 n d % 2 = 0 then some (f32.round .rne 0 false (.scaled false 1 (-(floorLog2 n d / 2)))) else none
  val _ n d := (false, isqrt (d * 2 ^ 600 / n), 2 ^ 300)
  bound _ _ p q := ulpOf p q

def fexp2Curve : Curve where
  exact _ s n d := if !s && decide (128 * d ≤ n) then some f32.infc else if s && decide (150 * d ≤ n) then some 0
    else if n % d = 0 then some (f32.round .rne 0 false (.scaled false 1 (sgnd s (n / d)))) else none
  val s n d := if s then parts (.scaled false (exp2Fix (d - n % d) d) (-((n / d : Nat) : Int) - 161))
    else parts (.scaled false (exp2Fix (n % d) d) (((n / d : Nat) : Int) - 160))
  bound _ _ p q := 2 * ulpOf p q

def flog2Curve : Curve where
  applies s _ _ := !s
  exact _ _ n d := if isPow2 n d then some (f32.round .rne 0 false (.ofInt (floorLog2 n d))) else none
  val _ n d := (decide (log2Fix n d < 0), (log2Fix n d).natAbs, 2 ^ 110)
  bound n d p q := if d ≤ 2 * n ∧ n ≤ 2 * d then pow2 (-22) else 2 * ulpOf p q

def ftanhCurve : Curve where
  exact c s n d := if n * 4096 < d then some c else if 9 * d ≤ n then some (f32.sign s + 0x3F800000) else none
  val s n d := (s, exp2xFix n d - 2 ^ 256, exp2xFix n d + 2 ^ 256)
  bound _ _ p q := 2 * ulpOf p q

def ftrigCurve (cos : Bool) : Curve where
  applies _ n d := decide (n < 65536 * d)
  val s n d := (decide (trigFix cos s n d < 0), (trigFix cos s n d).natAbs, 2 ^ fxP)
  bound _ _ _ _ := pow2 (-21)

/-- A function of codes is the curve: where the table fixes the code, that code; elsewhere a code within the bound, with the sign of the value when below
the normal range, or the value rounded to nearest, or the infinity of an overflow (09 R201, R202). -/
def Curve.of (c : Curve) (f : Nat → Nat) : Prop :=
  ∀ x s n d, f32.value x = .fin s n d → n ≠ 0 → c.applies s n d = true →
    match c.exact x s n d with
    | some v => f x = v
    | none =>
      let (g, p, q) := c.val s n d
      f x = f32.round .rne 0 false (.fin g p q) ∨ (p ≠ 0 ∧ (2 : Rat) ^ 128 ≤ ratio false p q ∧ f x = f32.sign g + f32.infc) ∨
      ∃ sg a b, f32.value (f x) = .fin sg a b ∧ (sg = g ∨ pow2 (-126) ≤ ratio false a b) ∧
        ratio sg a b - ratio g p q ≤ c.bound n d p q ∧ ratio g p q - ratio sg a b ≤ c.bound n d p q

/-- The root of n/d rounded once in a mode: with w units of u, 2^23 ≤ w < 2^24, next below it or equal to it, the code is that of w units or of
one more, by where the root lies between them; under RS the fraction above w, in units of 2^−32, carries when the drawn word is added (05 R114). -/
def RootOnce (m : Rnd) (r n d code : Nat) : Prop :=
  ∃ (e : Int) (w a b : Nat), f32.value code = .fin false a b ∧ 2 ^ 23 ≤ w ∧ w < 2 ^ 24 ∧
    ((w : Rat) * pow2 e) ^ 2 ≤ ratio false n d ∧ ratio false n d < (((w : Rat) + 1) * pow2 e) ^ 2 ∧
    let half : Rat := (((w : Rat) + 1 / 2) * pow2 e) ^ 2
    let up : Prop := match m with
      | .rne => half < ratio false n d ∨ (half = ratio false n d ∧ w % 2 = 1)
      | .rna => half ≤ ratio false n d
      | .rup => ((w : Rat) * pow2 e) ^ 2 < ratio false n d
      | .rs => ((((w : Rat) + ((2 : Rat) ^ 32 - (r : Rat)) / (2 : Rat) ^ 32) * pow2 e)) ^ 2 ≤ ratio false n d
      | _ => False
    (up → ratio false a b = ((w : Rat) + 1) * pow2 e) ∧ (¬ up → ratio false a b = (w : Rat) * pow2 e)

/-- Guard, destination, source, special results and curve of the approximate functions (09 Tables 9.5, 9.6). -/
def approxFun : Instr → Option (Grd × Dst × Src × Specials × Curve)
  | .frcp d a => some (Grd.always, d, a, { nan := 0x7FC00000, pinf := 0, ninf := 0x80000000, pzero := 0x7F800000, nzero := 0xFF800000 }, frcpCurve)
  | .frcpExt g d a => some (g, d, a, { nan := 0x7FC00000, pinf := 0, ninf := 0x80000000, pzero := 0x7F800000, nzero := 0xFF800000 }, frcpCurve)
  | .frsq d a => some (Grd.always, d, a, { nan := 0x7FC00000, pinf := 0, ninf := 0x7FC00000, pzero := 0x7F800000, nzero := 0xFF800000, below := some 0x7FC00000 }, frsqCurve)
  | .frsqExt g d a => some (g, d, a, { nan := 0x7FC00000, pinf := 0, ninf := 0x7FC00000, pzero := 0x7F800000, nzero := 0xFF800000, below := some 0x7FC00000 }, frsqCurve)
  | .fexp2 d a => some (Grd.always, d, a, { nan := 0x7FC00000, pinf := 0x7F800000, ninf := 0, pzero := 0x3F800000, nzero := 0x3F800000 }, fexp2Curve)
  | .fexp2Ext g d a => some (g, d, a, { nan := 0x7FC00000, pinf := 0x7F800000, ninf := 0, pzero := 0x3F800000, nzero := 0x3F800000 }, fexp2Curve)
  | .flog2 d a => some (Grd.always, d, a, { nan := 0x7FC00000, pinf := 0x7F800000, ninf := 0x7FC00000, pzero := 0xFF800000, nzero := 0xFF800000, below := some 0x7FC00000 }, flog2Curve)
  | .flog2Ext g d a => some (g, d, a, { nan := 0x7FC00000, pinf := 0x7F800000, ninf := 0x7FC00000, pzero := 0xFF800000, nzero := 0xFF800000, below := some 0x7FC00000 }, flog2Curve)
  | .ftanh d a => some (Grd.always, d, a, { nan := 0x7FC00000, pinf := 0x3F800000, ninf := 0xBF800000, pzero := 0, nzero := 0x80000000 }, ftanhCurve)
  | .ftanhExt g d a => some (g, d, a, { nan := 0x7FC00000, pinf := 0x3F800000, ninf := 0xBF800000, pzero := 0, nzero := 0x80000000 }, ftanhCurve)
  | .fsin d a => some (Grd.always, d, a, { nan := 0x7FC00000, pinf := 0x7FC00000, ninf := 0x7FC00000, pzero := 0, nzero := 0x80000000, big := some 0 }, ftrigCurve false)
  | .fsinExt g d a => some (g, d, a, { nan := 0x7FC00000, pinf := 0x7FC00000, ninf := 0x7FC00000, pzero := 0, nzero := 0x80000000, big := some 0 }, ftrigCurve false)
  | .fcos d a => some (Grd.always, d, a, { nan := 0x7FC00000, pinf := 0x7FC00000, ninf := 0x7FC00000, pzero := 0x3F800000, nzero := 0x3F800000, big := some 0x3F800000 }, ftrigCurve true)
  | .fcosExt g d a => some (g, d, a, { nan := 0x7FC00000, pinf := 0x7FC00000, ninf := 0x7FC00000, pzero := 0x3F800000, nzero := 0x3F800000, big := some 0x3F800000 }, ftrigCurve true)
  | _ => none

/-- The special results hold of a function of codes. -/
def Specials.of (t : Specials) (f : Nat → Nat) : Prop :=
  (∀ c, (f32.value c).isNan = true → f c = t.nan) ∧ f 0x7F800000 = t.pinf ∧ f 0xFF800000 = t.ninf ∧ f 0 = t.pzero ∧ f 0x80000000 = t.nzero ∧
  (∀ v, t.below = some v → ∀ c n d, f32.value c = .fin true n d → n ≠ 0 → f c = v) ∧
  (∀ v, t.big = some v → ∀ c s n d, f32.value c = .fin s n d → 65536 * d ≤ n → f c = v)

end Sys2Proof.Machine

section
open Sys2Proof Sys2Proof.Machine

/-- Every FP32 instruction of R197 completes with one rounding of its exact value, DAZ before and FTZ after, and in RS mode draws one word of each
executing lane's generator (09 R196, R197). -/
def Obligations.FloatArithmeticComplete : Prop :=
  ∀ i g r d a b c f, fp32Fun i = some (g, r, d, a, b, c, f) →
    Gives i g (namesOf 1 d [(1, a), (1, b), (1, c)]) (windowsOf 1 d [(1, a), (1, b), (1, c)])
      (fun x l => (gift32 d (BitVec.ofNat 32 (x.rounded r f32 l 0 false
          (f (decide (x.rm r = .rdn)) (x.flt f32 (x.w32 l a).toNat) (x.flt f32 (x.w32 l b).toNat) (x.flt f32 (x.w32 l c).toNat))))
        (x.anyPois l [a, b, c])).drew x r 1 l)

/-- Every packed instruction of R203 completes with its rule applied to element 0 and then element 1, each rounded once to the element format, SAT 1
saturating; in RS mode it draws two words (09 R196, R203). -/
def Obligations.PackedArithmeticComplete : Prop :=
  ∀ i g t bf r sat d a b c f, pairFun i = some (g, t, bf, r, sat, d, a, b, c, f) →
    Gives i g (namesOf 1 d [(1, a), (1, b), (1, c)]) (windowsOf 1 d [(1, a), (1, b), (1, c)])
      (fun x l =>
        let arg (j : Nat) (y : Src) : FV := x.flt t (elem16 j (x.val (.half bf) l y))
        let res (j : Nat) : Nat := x.rounded r t l j sat (f (decide (x.rm r = .rdn)) (arg j a) (arg j b) (arg j c))
        (gift32 d (pair16 (res 0) (res 1)) (x.pois (.half bf) l a || x.pois (.half bf) l b || x.pois (.half bf) l c)).drew x r 2 l)

/-- FMIN, FMAX, HMIN2 and HMAX2 complete with the number, the canonical NaN, or the lesser or greater operand after DAZ, neither rounded nor flushed; −0
is less than +0 (09 R198, R203). FSET completes with all ones where its comparison holds after DAZ and 0 where not, and FCLASS with the class word of
its raw operand; PEN writes the outcome, or whether the class is in B, to the predicate (09 R199, R200). -/
def Obligations.FloatPicksAndTestsComplete : Prop :=
  ((∀ i g mx d a b, pickFun i = some (g, mx, d, a, b) →
    Gives i g (namesOf 1 d [(1, a), (1, b)]) (windowsOf 1 d [(1, a), (1, b)])
      (fun x l => gift32 d (BitVec.ofNat 32 (numPick f32 mx (f32.flush (modeDaz x.mode) (x.w32 l a).toNat)
        (f32.flush (modeDaz x.mode) (x.w32 l b).toNat))) (x.anyPois l [a, b]))) ∧
  (∀ i g bf mx d a b, pick2Fun i = some (g, bf, mx, d, a, b) →
    Gives i g (namesOf 1 d [(1, a), (1, b)]) (windowsOf 1 d [(1, a), (1, b)])
      (fun x l =>
        let t := if bf then bf16 else f16
        let arg (j : Nat) (y : Src) : Nat := t.flush (modeDaz x.mode) (elem16 j (x.val (.half bf) l y))
        gift32 d (pair16 (numPick t mx (arg 0 a) (arg 0 b)) (numPick t mx (arg 1 a) (arg 1 b)))
          (x.pois (.half bf) l a || x.pois (.half bf) l b)))) ∧
  ((∀ g cc pen pd d a b, Gives (.fset g cc pen pd d a b) g (namesOf 1 d [(1, a), (1, b)]) (windowsOf 1 d [(1, a), (1, b)])
    (fun x l =>
      let t := fsetHolds cc (x.flt f32 (x.w32 l a).toNat) (x.flt f32 (x.w32 l b).toNat)
      { gift32 d (if t then BitVec.allOnes 32 else 0) (x.anyPois l [a, b]) with
        preds := if pen then [(pd, t, x.anyPois l [a, b])] else [] })) ∧
  (∀ g pen pd d a b, Gives (.fclass g pen pd d a b) g (namesOf 1 d [(1, a), (1, b)]) (windowsOf 1 d [(1, a), (1, b)])
    (fun x l => { gift32 d (classWord (x.w32 l a)) (x.anyPois l [a, b]) with
                  preds := if pen then [(pd, decide (classWord (x.w32 l a) &&& x.w32 l b ≠ 0), x.anyPois l [a, b])] else [] })))

/-- Every approximate function completes with a function of its operand alone, after DAZ and before FTZ, that takes special operands to the results of
Table 9.6, others to the exact results of Table 9.5, and the rest to a code within its bound, whose bits are the part's own; the bound is kept to the
value of the model's series, about 2^−100 from the function's own (log 4). FSQRT completes with the exact root rounded once in its mode, with the
special results of its column, and in RS mode it draws one word of each executing lane's generator (09 R201, R202, R196). -/
def Obligations.ApproximateFunctionsComplete : Prop :=
  (∀ i g d a t c, approxFun i = some (g, d, a, t, c) → ∃ f : Nat → Nat, t.of f ∧ c.of f ∧
    Gives i g (namesOf 1 d [(1, a)]) (windowsOf 1 d [(1, a)])
      (fun x l => gift32 d (BitVec.ofNat 32 (f32.flush (modeFtz x.mode) (f (f32.flush (modeDaz x.mode) (x.w32 l a).toNat))))
        (x.pois .w32 l a))) ∧
  (∃ f : Rnd → Nat → Nat → Nat,
    (∀ m r, Specials.of { nan := 0x7FC00000, pinf := 0x7F800000, ninf := 0x7FC00000, pzero := 0, nzero := 0x80000000, below := some 0x7FC00000 } (f m r)) ∧
    (∀ m r x n d, m ≠ .mode → r < 2 ^ 32 → f32.value x = .fin false n d → n ≠ 0 → RootOnce m r n d (f m r x)) ∧
    ∀ i g r d a, (i = .fsqrtExt g r d a ∨ (i = .fsqrt d a ∧ g = Grd.always ∧ r = .mode)) →
      Gives i g (namesOf 1 d [(1, a)]) (windowsOf 1 d [(1, a)])
        (fun x l => (gift32 d (BitVec.ofNat 32 (f32.flush (modeFtz x.mode)
            (f (x.rm r) (x.word r l 0) (f32.flush (modeDaz x.mode) (x.w32 l a).toNat)))) (x.pois .w32 l a)).drew x r 1 l))

end

namespace Sys2Proof.Machine

/-! ## Conversions and narrow formats (09 R204 to R211) -/

/-- The format of a vector code, its width as an operand, and the code read: the word, or the element that HALF picks. -/
def fmtOf : VFmt → FFmt
  | .f32 => f32 | .f16 => f16 | .bf16 => bf16
def widthOf : VFmt → OW
  | .f32 => .w32 | .f16 => .half false | .bf16 => .half true
def Iss.code (x : Iss) (f : VFmt) (hi : Bool) (l : Nat) (a : Src) : Nat :=
  if f = .f32 then x.val .w32 l a else elem16 (if hi then 1 else 0) (x.val (widthOf f) l a)

/-- Least and greatest integer of a type. -/
def intLo (w : Nat) (sgn : Bool) : Int := if sgn then -(2 ^ (w - 1) : Int) else 0
def intHi (w : Nat) (sgn : Bool) : Int := if sgn then 2 ^ (w - 1) - 1 else 2 ^ w - 1

/-- The magnitude p/q rounded to an integer in a mode, with the random word of RS (05 R114 on the grid of the integers). -/
def nearInt (m : Rnd) (w : Nat) (neg : Bool) (p q : Nat) : Nat :=
  let f := p % q
  let away : Bool := match m with
    | .rne => decide (q < 2 * f) || (decide (2 * f = q) && decide (p / q % 2 = 1))
    | .rna => decide (q ≤ 2 * f)
    | .rup => !neg
    | .rdn => neg
    | .rs => decide (2 ^ 32 ≤ f * 2 ^ 32 / q + w)
    | _ => false
  if f ≠ 0 ∧ away = true then p / q + 1 else p / q

/-- What F2I gives: NaN is 0, an infinity the end of the range, and a rounded value is clamped (09 R204). -/
def toInt (m : Rnd) (w : Nat) (lo hi : Int) : FV → Int
  | .nan => 0
  | .inf neg => if neg then lo else hi
  | .fin neg p q => max lo (min hi (if neg then -(nearInt m w neg p q : Int) else nearInt m w neg p q))

/-- A register the lane holds, and the poison of some consecutive ones. -/
def Iss.vreg (x : Iss) (l k : Nat) : W32 := rfVal (x.lane l).regs k
def Iss.vpois (x : Iss) (l k n : Nat) : Bool := (List.range n).any (fun j => rfPois (x.lane l).regs (k + j))

/-- The descriptor in fmtF of the kernel of the suit at issue. -/
def State.fmtF (s : State) (f : Nat) : Nat := (kGet 0 f (s.issuing Grd.always).ks.fmts).toNat

/-- Elements that QSCALE reads (09 R208). -/
def qscaleLen (d : Nat) : Nat := if nScale d = 0 then 0 else if nScale d = 1 then 32 else 16

/-- Byte j of a word. -/
def byteAt (x : W32) (j : Nat) : Nat := x.toNat / 2 ^ (8 * j) % 2 ^ 8

/-- The code of one element that QPACK writes (09 R209). -/
def packCode (d : Nat) (m : Rnd) (w : Nat) (sat : Bool) (sb : Nat) (v : FV) : Nat :=
  if nScale d = 0 then nConvert d m w sat v
  else if (scaleValue d sb).isNan || (scaleValue d sb).isZero then 0
  else scaledCode d m w sb v

/-- The value of one code under a scale byte (09 R210). -/
def unpacked (d sb c : Nat) : FV :=
  if nScale d = 0 then nValue d c
  else if (scaleValue d sb).isNan then .nan
  else if (scaleValue d sb).isZero then FV.zero
  else FV.mul (nValue d c) (scaleValue d sb)

end Sys2Proof.Machine

section
open Sys2Proof Sys2Proof.Machine

/-- F2I completes with the operand after DAZ rounded to an integer and clamped to the destination, NaN giving 0; I2F with the exact integer rounded once,
clamped where SAT or MODE.SATF says so for a 16-bit result, before FTZ; both draw one word in RS mode (09 R196, R204, R205). FCVT completes: FP32 to a
pair converts A and B, a pair to FP32 one element, a pair to a pair both elements; two words are drawn for a pair and one for FP32 in RS mode (09
R206, R196). -/
def Obligations.ConversionsComplete : Prop :=
  ((∀ g f sgn (w64 : Bool) hi r d a,
    Gives (.f2i g f sgn w64 hi r d a) g (namesOf (if w64 then 2 else 1) d [(1, a)]) (windowsOf (if w64 then 2 else 1) d [(1, a)])
      (fun x l =>
        let w := if w64 then 64 else 32
        let v := toInt (x.rm r) (x.word r l 0) (intLo w sgn) (intHi w sgn) (x.flt (fmtOf f) (x.code f hi l a))
        (if w64 then gift64 d (BitVec.ofInt 64 v) (x.pois (widthOf f) l a)
          else gift32 d (BitVec.ofInt 32 v) (x.pois (widthOf f) l a)).drew x r 1 l)) ∧
  (∀ g f sgn (w64 : Bool) r sat d a,
    Gives (.i2f g f sgn w64 r sat d a) g (namesOf 1 d [(if w64 then 2 else 1, a)]) (windowsOf 1 d [(if w64 then 2 else 1, a)])
      (fun x l =>
        let v := if w64 then intOf sgn (x.w64 l a) else intOf sgn (x.w32 l a)
        (gift32 d (BitVec.ofNat 32 (x.rounded r (fmtOf f) l 0 (f ≠ .f32 && (sat || modeSatf x.mode)) (FV.ofInt v)))
          (x.pois (if w64 then .w64 else .w32) l a)).drew x r 1 l))) ∧
  (∀ g dst src hi r sat d a b,
    Gives (.fcvt g dst src hi r sat d a b) g (namesOf 1 d [(1, a), (1, b)]) (windowsOf 1 d [(1, a), (1, b)])
      (fun x l =>
        let p := x.pois (widthOf src) l a || x.pois .w32 l b
        let cv (j c : Nat) : Nat := x.rounded r (fmtOf dst) l j (dst ≠ .f32 && (sat || modeSatf x.mode)) (x.flt (fmtOf src) c)
        if dst = .f32 then (gift32 d (BitVec.ofNat 32 (cv 0 (x.code src hi l a))) p).drew x r 1 l
        else if src = .f32 then (gift32 d (pair16 (cv 0 (x.w32 l a).toNat) (cv 1 (x.w32 l b).toNat)) p).drew x r 2 l
        else (gift32 d (pair16 (cv 0 (x.code src false l a)) (cv 1 (x.code src true l a))) p).drew x r 2 l))

/-- QSCALE, QPACK, QUNPK, PSPLIT and PJOIN complete by the descriptor that fmtF holds at issue: a block's scale byte; four codes in byte containers; four
exact FP32 values; one plane of 32/p containers, 0 where the width lacks it; four elements of a plane put into containers, the rest of B kept (09 R208
to R211). -/
def Obligations.NarrowFormatsComplete : Prop :=
  ∀ (s : State) (g : Grd) (f : Nat),
  (∀ d a, GivesAt s (.qscale g f d a) g (dstKeys 1 d ++ rngKeys a (qscaleLen (s.fmtF f))) (dstWin 1 d ++ rngWin a (qscaleLen (s.fmtF f)))
    (fun x l => gift32 d (BitVec.ofNat 32 (if nScale (s.fmtF f) = 0 then 0
        else blockScale (s.fmtF f) ((List.range (qscaleLen (s.fmtF f))).map (fun j => x.flt f32 (x.vreg l (a + j)).toNat))))
      (x.vpois l a (qscaleLen (s.fmtF f))))) ∧
  (∀ r sat d a b,
    GivesAt s (.qpack g f r sat d a b) g
      (dstKeys 1 d ++ rngKeys a 4 ++ (if nScale (s.fmtF f) = 0 then [] else srcKeys 1 b)) (dstWin 1 d ++ rngWin a 4 ++ srcWin 1 b)
      (fun x l =>
        let code (j : Nat) : Nat := packCode (s.fmtF f) (x.rm r) (x.word r l j) (sat || modeSatf x.mode)
          (byteAt (x.w32 l b) 0) (x.flt f32 (x.vreg l (a + j)).toNat)
        (gift32 d (BitVec.ofNat 32 (code 0 + 2 ^ 8 * code 1 + 2 ^ 16 * code 2 + 2 ^ 24 * code 3)) (x.vpois l a 4 || (decide (nScale (s.fmtF f) ≠ 0) && x.pois .w32 l b))).drew x r 4 l)) ∧
  (∀ d a b, GivesAt s (.qunpk g f d a b) g
    (rngKeys d 4 ++ srcKeys 1 a ++ (if nScale (s.fmtF f) = 0 then [] else srcKeys 1 b)) (rngWin d 4 ++ srcWin 1 a ++ srcWin 1 b)
    (fun x l =>
      let p := x.pois .w32 l a || (decide (nScale (s.fmtF f) ≠ 0) && x.pois .w32 l b)
      let v (j : Nat) : W32 := BitVec.ofNat 32 (f32.round .rne 0 false
        (unpacked (s.fmtF f) (byteAt (x.w32 l b) 0) ((x.w32 l a).toNat / 2 ^ (8 * j) % 2 ^ nWidth (s.fmtF f))))
      { regs := [(d, v 0, p), (d + 1, v 1, p), (d + 2, v 2, p), (d + 3, v 3, p)], result := some ((v 0).setWidth 64, p), ate := p })) ∧
  (∀ pl d a, ∃ v : Iss → Nat → W32,
    (∀ x l i, i < 32 → (v x l).getLsbD i = (match planeOff pl (nWidth (s.fmtF f)) with
      | none => false
      | some off =>
        let e := i / planeWidth pl
        (x.vreg l (a + e / 4)).getLsbD (8 * (e % 4) + off + i % planeWidth pl))) ∧
    GivesAt s (.psplit g f pl d a) g (dstKeys 1 d ++ rngKeys a (8 / planeWidth pl)) (dstWin 1 d ++ rngWin a (8 / planeWidth pl))
      (fun x l => gift32 d (v x l) (x.vpois l a (8 / planeWidth pl)))) ∧
  (∀ pl grp d a b, grp < 8 / planeWidth pl → ∃ v : Iss → Nat → W32,
    (∀ x l i, i < 32 → (v x l).getLsbD i = (match planeOff pl (nWidth (s.fmtF f)) with
      | none => (x.w32 l b).getLsbD i
      | some off =>
        if off ≤ i % 8 ∧ i % 8 < off + planeWidth pl then
          (x.w32 l a).getLsbD (planeWidth pl * (4 * grp + i / 8) + (i % 8 - off))
        else (x.w32 l b).getLsbD i)) ∧
    GivesAt s (.pjoin g f pl grp d a b) g (namesOf 1 d [(1, a), (1, b)]) (windowsOf 1 d [(1, a), (1, b)])
      (fun x l => gift32 d (v x l) (x.anyPois l [a, b])))

end

namespace Sys2Proof.Machine

/-! ## What a hand keeps for a kernel (05 R111, 09 R207, 11 R239, 14 R294) -/

/-- Only what the hand keeps for the issuing kernel has changed, beside the suits. -/
structure OnlySet (s t : State) (x : Iss) (ks : KernSet) : Prop where
  within : WithinHand s t x.r.hr
  hand : { t.hand x.r.hr with sets := (s.hand x.r.hr).sets, suits := (s.hand x.r.hr).suits, lanes := (s.hand x.r.hr).lanes } = s.hand x.r.hr
  mine : (t.hand x.r.hr).kernSet x.u.kern = ks
  others : ∀ k, k ≠ x.u.kern → (t.hand x.r.hr).kernSet k = (s.hand x.r.hr).kernSet k

/-- The descriptor in four registers of a lane. -/
def Iss.desc (x : Iss) (l a : Nat) : Desc :=
  { w0 := pair64 (x.vreg l a) (x.vreg l (a + 1)), w1 := pair64 (x.vreg l (a + 2)) (x.vreg l (a + 3)) }

/-- How many lanes below n hold an item of the issuing kernel. -/
def Iss.kernItems (x : Iss) (s : State) (n : Nat) : Nat :=
  ((List.range n).filter (fun j => match (s.lane x.r.hr j).item with | some it => decide (it.kern = x.u.kern) | none => false)).length

/-- The source word of lane j for a MODE word (05 Table 5.2): k63, CX.RSEED, or an entropy word, one for each lane of the kernel, rising. -/
def Iss.seedWord (x : Iss) (s : State) (v j : Nat) : W32 :=
  match modeSsel v with
  | 0 => kGet 0 63 x.kern.lrec.k
  | 1 => BitVec.ofNat 32 (s.reg x.ctx 0x12)
  | _ => Config.entropy (s.freeCount + x.kernItems s j)

/-- A set with one segment's descriptor replaced; sc has none. -/
def KernSet.with (k : KernSet) (seg : Seg) (d : Desc) : KernSet :=
  match seg with
  | .gl => { k with gl := d } | .kc => { k with kc := d } | .tl => { k with tl := d } | .ep => { k with ep := d } | .sc => k

end Sys2Proof.Machine

section
open Sys2Proof Sys2Proof.Machine

/-- SETFMT writes a legal descriptor of the lowest executing lane to its format register of the issuing kernel in its hand, and to nothing else; one that
executes in no lane writes nothing (09 R207). SETMODE writes a legal MODE word of the lowest executing lane for the issuing kernel in its hand;
generators change only when SSEL does, and then those of the kernel's items are seeded anew from k63, from CX.RSEED or, under SSEL 10, each from an
entropy word, which is a free value of its own (11 R239, 05 R117; log 5). SETSEG, at PL 1 or above, writes the descriptor in four registers of the
lowest executing lane for its segment, and seals the executing lanes (14 R294). -/
def Obligations.SettingsWritesComplete : Prop :=
  (∀ (s : State) g f b, s.clearAt g (srcKeys 1 b) (srcWin 1 b) = true →
    ((s.issuing g).ex = [] → Given s (.setfmt g f b) g (fun _ _ => {})) ∧
    (∀ l ls, (s.issuing g).ex = l :: ls → (s.issuing g).pois .w32 l b = false → nLegal ((s.issuing g).w32 l b).toNat = true →
      ∃ t ks, exec (.setfmt g f b) s = .next t ∧ OnlySet s t (s.issuing g) ks ∧ Passed s t (s.issuing g) ∧
        (∀ j, t.lane s.cur.hr j = s.lane s.cur.hr j) ∧ { ks with fmts := (s.issuing g).ks.fmts } = (s.issuing g).ks ∧
        (∀ j, kGet 0 j ks.fmts = if j = f then (s.issuing g).w32 l b else kGet 0 j (s.issuing g).ks.fmts))) ∧
  (∀ (s : State) g b, s.clearAt g (srcKeys 1 b) (srcWin 1 b) = true →
    ((s.issuing g).ex = [] → Given s (.setmode g b) g (fun _ _ => {})) ∧
    (∀ l ls, (s.issuing g).ex = l :: ls → (s.issuing g).pois .w32 l b = false → modeLegal ((s.issuing g).w32 l b).toNat = true →
      ∃ t, exec (.setmode g b) s = .next t ∧
        OnlySet s { t with freeCount := s.freeCount } (s.issuing g) { (s.issuing g).ks with mode := (s.issuing g).w32 l b } ∧
        t.freeCount = s.freeCount + (if modeSsel ((s.issuing g).w32 l b).toNat = 2 ∧ modeSsel (s.issuing g).mode ≠ 2
          then (s.issuing g).kernItems s 32 else 0) ∧
        Passed s t (s.issuing g) ∧ (∀ j, { t.lane s.cur.hr j with rng := (s.lane s.cur.hr j).rng } = s.lane s.cur.hr j) ∧
        (modeSsel ((s.issuing g).w32 l b).toNat = modeSsel (s.issuing g).mode → ∀ j, t.lane s.cur.hr j = s.lane s.cur.hr j) ∧
        (modeSsel ((s.issuing g).w32 l b).toNat ≠ modeSsel (s.issuing g).mode → ∀ j it, j < 32 → (s.lane s.cur.hr j).item = some it →
          it.kern = (s.issuing g).u.kern → (t.lane s.cur.hr j).rng =
            seedRng ((s.issuing g).seedWord s ((s.issuing g).w32 l b).toNat j) it.item it.kern))) ∧
  (∀ (s : State) g seg a, s.clearAt g (rngKeys a 4) (rngWin a 4) = true → s.mayAt 1 = true →
    ((s.issuing g).ex = [] → Given s (.setseg g seg a) g (fun _ _ => {})) ∧
    (∀ l ls, (s.issuing g).ex = l :: ls → (s.issuing g).vpois l a 4 = false →
      (seg = .tl → ((s.issuing g).desc l a).base + ((s.issuing g).desc l a).limit ≤ 2 ^ 19) →
      ∃ t, exec (.setseg g seg a) s = .next t ∧ OnlySet s t (s.issuing g) ((s.issuing g).ks.with seg ((s.issuing g).desc l a)) ∧
        Passed s t (s.issuing g) ∧ ∀ j, t.lane s.cur.hr j =
          if j ∈ (s.issuing g).ex then { s.lane s.cur.hr j with isSealed := true } else s.lane s.cur.hr j))

end

namespace Sys2Proof.Machine

/-! ## Collectives (10 R215, R216) -/

/-- P: the executing lanes, or those that C of the lowest one picks; and the group of a lane of P. -/
def Iss.party (x : Iss) (k : Coll) (c : Src) : List Nat :=
  if k.msk then x.ex.filter (fun j => (x.w32 (x.ex.headD 0) c).getLsbD j) else x.ex
def Iss.groupOf (x : Iss) (k : Coll) (c : Src) (l : Nat) : List Nat :=
  if k.scope = .tbl then (x.party k c).filter (fun j => decide ((x.item j).table = (x.item l).table)) else x.party k c

/-- C of the lowest executing lane can be read, where a mask is asked for. -/
def Iss.maskClear (x : Iss) (k : Coll) (c : Src) : Bool :=
  !k.msk || (x.ex.take 1).all (fun l => !(x.lane l).leases? (srcKeys 1 c) && !x.pois .w32 l c)

/-- A collective gives every lane of P something, when no lane of P leases a register that it names, its mask among them, and nothing else
holds it back; `f` is what a lane gets from its group. -/
def GivesParty (i : Instr) (g : Grd) (k : Coll) (c : Src) (keys : List Nat) (wins : List (Nat × Nat)) (f : Iss → List Nat → Nat → Gift) : Prop :=
  ∀ s : State, s.clearAt g [] (wins ++ srcWin 1 c) = true → (s.issuing g).maskClear k c = true →
    (∀ l ∈ (s.issuing g).party k c, ((s.issuing g).lane l).leases? (keys ++ srcKeys 1 c) = false) →
    GivenTo s i { s.issuing g with ex := (s.issuing g).party k c }
      (fun l => f (s.issuing g) ((s.issuing g).groupOf k c l) l)

/-- A value or a pair in D. -/
def giftN (w64 : Bool) (d : Dst) (v : W64) (p : Bool) : Gift := if w64 then gift64 d v p else gift32 d (v.setWidth 32) p
def Iss.wide (x : Iss) (w64 : Bool) (l : Nat) (a : Src) : W64 := BitVec.ofNat 64 (x.val (if w64 then .w64 else .w32) l a)
def Iss.widePois (x : Iss) (w64 : Bool) (l : Nat) (a : Src) : Bool := x.pois (if w64 then .w64 else .w32) l a
def wordsIn (w64 : Bool) : Nat := if w64 then 2 else 1

/-- Lanes of a group that a test picks, as a mask. -/
def ballot (gr : List Nat) (t : Nat → Bool) : W32 := BitVec.ofNat 32 (maskOf (gr.filter t))

/-- Rank of the lane that SHFL reads, if any: ranks count the group's lower lanes (10 R217). -/
def shflFrom (m : ShflMode) (r n : Nat) : Option Nat :=
  match m with
  | .idx => some n
  | .up => if n ≤ r then some (r - n) else none
  | .down => some (r + n)
  | .xor => some (r ^^^ n)

end Sys2Proof.Machine

section
open Sys2Proof Sys2Proof.Machine

/-- SHFL, VOTE, MATCH, TMASK and ELECT complete in every lane of P: the value of the lane that the mode picks, or the lane's own and a false predicate;
the outcome of a vote; the lanes of the group with the lane's value; the lanes of its table; the lowest lane of the group (10 R215 to R219, R222).
That the predicates of SHFL and VOTE.ballot are poisoned by the lane's own operand is the model's reading (log 44). HRED gives every lane of P its
group's reduction, and HSCAN that of the group's lower lanes and, unless EXCL, the lane itself, an empty one giving the identity; the FP32 sum is
rounded once, with a word of the group's lowest lane or of the lane itself in RS mode (10 R220, R221). That a lane's own A sets its s.psum where its
result is clean is the model's reading (log 44). -/
def Obligations.LaneInstructionsComplete : Prop :=
  ((∀ g k m w64 d a b c, GivesParty (.shfl g k m w64 d a b c) g k c
    (namesOf (wordsIn w64) d [(wordsIn w64, a), (1, b)]) (windowsOf (wordsIn w64) d [(wordsIn w64, a), (1, b)])
    (fun x gr l =>
      let from_ := (shflFrom m (gr.countP (fun j => decide (j < l))) (x.w32 l b).toNat).bind (fun q => gr[q]?)
      let j := from_.getD l
      let p := x.widePois w64 j a || x.pois .w32 l b
      { giftN w64 d (x.wide w64 j a) p with
        preds := if k.pen then [(k.pd, from_.isSome, x.pois .w32 l b)] else [], ate := p || x.widePois w64 l a })) ∧
  (∀ g k m d a c, GivesParty (.vote g k m d a c) g k c (namesOf 1 d [(1, a)]) (windowsOf 1 d [(1, a)])
    (fun x gr l =>
      let t (j : Nat) : Bool := decide (x.w32 j a ≠ 0)
      let p := gr.any (fun j => x.pois .w32 j a)
      let v : W32 := match m with
        | .all => if gr.all t then 1 else 0
        | .any => if gr.any t then 1 else 0
        | .uni => if gr.all t || gr.all (fun j => !t j) then 1 else 0
        | .ballot => ballot gr t
      { gift32 d v p with
        preds := if k.pen then [if m = .ballot then (k.pd, t l, x.pois .w32 l a) else (k.pd, decide (v ≠ 0), p)] else [] })) ∧
  (∀ g k w64 d a c, GivesParty (.lmatch g k w64 d a c) g k c (namesOf 1 d [(wordsIn w64, a)]) (windowsOf 1 d [(wordsIn w64, a)])
    (fun x gr l =>
      let same (j : Nat) : Bool := decide (x.wide w64 j a = x.wide w64 l a)
      let p := gr.any (fun j => x.widePois w64 j a)
      { gift32 d (ballot gr same) p with preds := if k.pen then [(k.pd, gr.all same, p)] else [] })) ∧
  (∀ g k d c, GivesParty (.tmask g k d c) g k c (namesOf 1 d []) (windowsOf 1 d [])
    (fun x _ l => gift32 d (ballot (x.party k c) (fun j => decide ((x.item j).table = (x.item l).table))) false)) ∧
  (∀ g k d c, GivesParty (.elect g k d c) g k c (namesOf 1 d []) (windowsOf 1 d [])
    (fun _ gr l => { gift32 d (BitVec.ofNat 32 (gr.headD l)) false with preds := if k.pen then [(k.pd, decide (gr.headD l = l), false)] else [] }))) ∧
  ((∀ g k op r d a c, GivesParty (.hred g k op r d a c) g k c
    (namesOf (wordsIn (op = .add64)) d [(wordsIn (op = .add64), a)]) (windowsOf (wordsIn (op = .add64)) d [(wordsIn (op = .add64), a)])
    (fun x gr l =>
      let q := if op = .fadd then r else Rnd.rne
      let v := reduceOf op (x.rm q) (modeDaz x.mode) (modeFtz x.mode) (x.word q (gr.headD l) 0)
        (gr.map (fun j => (x.wide (op = .add64) j a).toNat))
      let o := giftN (op = .add64) d (BitVec.ofNat 64 v) (gr.any (fun j => x.widePois (op = .add64) j a))
      if gr.headD l = l then o.drew x q 1 l else o)) ∧
  (∀ g k op excl r d a c, GivesParty (.hscan g k op excl r d a c) g k c
    (namesOf (wordsIn (op = .add64)) d [(wordsIn (op = .add64), a)]) (windowsOf (wordsIn (op = .add64)) d [(wordsIn (op = .add64), a)])
    (fun x gr l =>
      let q := if op = .fadd then r else Rnd.rne
      let js := gr.filter (fun j => decide (j < l) || (!excl && decide (j = l)))
      let v := if js = [] then redId op else reduceOf op (x.rm q) (modeDaz x.mode) (modeFtz x.mode) (x.word q l 0)
        (js.map (fun j => (x.wide (op = .add64) j a).toNat))
      let p := js.any (fun j => x.widePois (op = .add64) j a)
      ({ giftN (op = .add64) d (BitVec.ofNat 64 v) p with ate := p || x.widePois (op = .add64) l a } : Gift).drew x q 1 l)))

end

namespace Sys2Proof.Machine

/-! ## Lane accesses (11, 04) -/

/-- An access instruction as its row gives it: guard, PSLOT, segment fields, bytes, address operand, the register of a MOVS,
destination keys, the registers it names and their windows, and whether it seals. -/
structure AccForm where
  g : Grd
  ps : Bool
  m : MemOp
  n : Nat
  a : Src
  sc : Option Src
  dst : List Nat
  keys : List Nat
  wins : List (Nat × Nat)
  seals : Bool

def accForm : Instr → Option AccForm
  | .ld g ps m sz _ d a => some ⟨g, ps, m, asizeBytes sz, a, none, dstKeys (asizeRegs sz) d,
      namesOf (asizeRegs sz) d [(2, a)], windowsOf (asizeRegs sz) d [(2, a)], false⟩
  | .st g ps m sz a b => some ⟨g, ps, m, asizeBytes sz, a, none, [],
      namesOf 0 .none [(2, a), (asizeRegs sz, b)], windowsOf 0 .none [(2, a), (asizeRegs sz, b)], false⟩
  | .atom g ps m _ sz _ d a b => some ⟨g, ps, m, asizeBytes sz, a, none, dstKeys (asizeRegs sz) d,
      namesOf (asizeRegs sz) d [(2, a), (asizeRegs sz, b)], windowsOf (asizeRegs sz) d [(2, a), (asizeRegs sz, b)], true⟩
  | .cas g ps m sz d a b c => some ⟨g, ps, m, asizeBytes sz, a, none, dstKeys (asizeRegs sz) d,
      namesOf (asizeRegs sz) d [(2, a), (asizeRegs sz, b), (asizeRegs sz, c)],
      windowsOf (asizeRegs sz) d [(2, a), (asizeRegs sz, b), (asizeRegs sz, c)], true⟩
  | .red g ps m _ sz _ a b => some ⟨g, ps, m, asizeBytes sz, a, none, [],
      namesOf 0 .none [(2, a), (asizeRegs sz, b)], windowsOf 0 .none [(2, a), (asizeRegs sz, b)], true⟩
  | .evadd g ps m d a b => some ⟨g, ps, m, 8, a, none, dstKeys 2 d, namesOf 2 d [(2, a), (2, b)], windowsOf 2 d [(2, a), (2, b)], true⟩
  | .movs g ps m _ sz a b => some ⟨g, ps, m, asizeBytes sz, a, some b, [],
      namesOf 0 .none [(2, a), (1, b)], windowsOf 0 .none [(2, a), (1, b)], false⟩
  | _ => none

/-- The address of a lane: A plus the sign-extended displacement, modulo 2^64 (11 R227). -/
def Iss.addrOf (x : Iss) (f : AccForm) (l : Nat) : W64 := x.w64 l f.a + f.m.disp.signExtend 64

/-- Nothing is wrong with the addresses of the executing lanes: none is poisoned, each is a multiple of the size, and so is the
scratchpad offset of a MOVS (11 R228, 24 R423). -/
def Iss.aligned (x : Iss) (f : AccForm) : Bool :=
  x.ex.all (fun l => !x.pois .w64 l f.a && decide ((x.addrOf f l).toNat % f.n = 0) &&
    (match f.sc with | some b => !x.pois .w32 l b && decide ((x.w32 l b).toNat % f.n = 0) | none => true))

/-- What is misaligned in a lane: its address, or else the scratchpad offset of a MOVS; with which of the two it is. -/
def Iss.offAddr (x : Iss) (f : AccForm) (l : Nat) : Option (Nat × Nat) :=
  if (x.addrOf f l).toNat % f.n ≠ 0 then some ((x.addrOf f l).toNat, 0)
  else match f.sc with
    | some b => if (x.w32 l b).toNat % f.n ≠ 0 then some ((x.w32 l b).toNat, 1) else none
    | none => none

/-- A request with nothing before it at its home, of a hand that is not saved, within the lease of its translation (16 R327). -/
def State.atHome (s : State) (id : Nat) (r : Req) : Bool := decide (r.gen ≠ swappedGen) && s.reqReady id r && s.covered r

/-- The lane of an operation that waits for one request, and no other. -/
def State.awaits (s : State) (r : Req) : Prop :=
  ∃ o, kFind r.op s.ops = some o ∧ ∀ x ∈ o.lanes, x.lane = r.lane → x.due ≤ 1

/-- The values have arrived in the lane of the operation. -/
def State.arrivedAs (t : State) (r : Req) (ws : List (Nat × W32 × Bool)) : Prop :=
  ∃ o, kFind r.op t.ops = some o ∧ ∀ x ∈ o.lanes, x.lane = r.lane → x.st = .arrived ws

/-- Words of some bytes in rising registers: the value, sign-extended where asked, cut into words. -/
def loaded (dst : List Nat) (bs : List Byte) (sx p : Bool) : List (Nat × W32 × Bool) :=
  let v : Nat := if sx then (BitVec.ofInt 32 (sext (8 * bs.length) (ofBytes bs))).toNat else ofBytes bs
  dst.mapIdx (fun i k => (k, BitVec.ofNat 32 (v / 2 ^ (32 * i)), p))

/-- Bytes of HBM from an address. -/
def State.bytesAt (s : State) (pa n : Nat) : List Byte := (List.range n).map (fun i => s.byte (pa + i))

/-- A line, online, in which a run of bytes lies, over which the hand's core has no store of its own. -/
def State.plainBytes (s : State) (r : Req) (n : Nat) : Bool :=
  decide (r.pa % 64 + n ≤ 64) && !s.offChans.contains (s.home r.pa).chan && !s.unpublished r.h.cr r.pa n

end Sys2Proof.Machine

section
open Sys2Proof Sys2Proof.Machine

/-- LD, ST, ATOM, CAS, RED, EVADD and MOVS issue: the suit goes on behind them, one operation of the executing lanes is in flight on the selected peg, and
every executing lane leases the destination registers; no lane's registers, predicates or last results change, and what does not execute is left as it
was (11 R227, R228, 06 R153, R155). -/
def Obligations.AccessesIssueComplete : Prop :=
  ∀ (i : Instr) (f : AccForm), accForm i = some f → ∀ s : State, s.clearAt f.g f.keys f.wins = true →
    s.noneParked = true → s.pointsPassed = true → s.pegRoom f.ps = true → (s.issuing f.g).u.stall = .ready →
    (s.issuing f.g).ex ≠ [] → (s.issuing f.g).aligned f = true →
    ∃ t, exec i s = .next t ∧
      (∃ o, kFind s.nextOp t.ops = some o ∧ o.h = s.cur.hr ∧ o.lanes.map LaneOp.lane = (s.issuing f.g).ex ∧
        o.peg = pegOf (s.issuing f.g).u.pos.hw f.ps) ∧
      (t.hand s.cur.hr).suit s.cur.suit =
        some { (s.issuing f.g).u with pos := (s.issuing f.g).u.pos.after s.npc, stall := .ready, wait := 0 } ∧
      (∀ l, (t.lane s.cur.hr l).regs = (s.lane s.cur.hr l).regs ∧ (t.lane s.cur.hr l).l0 = (s.lane s.cur.hr l).l0 ∧
        (t.lane s.cur.hr l).l1 = (s.lane s.cur.hr l).l1 ∧ (t.lane s.cur.hr l).preds = (s.lane s.cur.hr l).preds ∧
        (t.lane s.cur.hr l).item = (s.lane s.cur.hr l).item) ∧
      (∀ l ∈ (s.issuing f.g).ex, (t.lane s.cur.hr l).leases = (s.lane s.cur.hr l).leases ++ f.dst.map (fun k => (k, s.nextOp))) ∧
      (∀ l, l ∉ (s.issuing f.g).ex → t.lane s.cur.hr l = s.lane s.cur.hr l)

/-- An illegal descriptor, an illegal MODE word, or a talon segment beyond 512 KiB, in the lowest executing lane, traps: kind 7 with that lane, and the
operand in ARG0 and ARG1 (23 Table 23.2, 09 R207, 11 R239, 14 R294). A misaligned address, or scratchpad offset of a MOVS, traps: kind 4 with the size
in CODE and the misaligned lanes, ARG0 the lowest one's address and ARG1 0, or its offset and 1 (11 R228, 22 Table 22.4). -/
def Obligations.OperandFaultsTrap : Prop :=
  (∀ (s : State) (g : Grd) (l : Nat) (ls : List Nat), (s.issuing g).ex = l :: ls →
    (∀ f b, s.clearAt g (srcKeys 1 b) (srcWin 1 b) = true → (s.issuing g).pois .w32 l b = false →
      nLegal ((s.issuing g).w32 l b).toNat = false →
      exec (.setfmt g f b) s = .next (s.trapEntry s.cur 7 0 [l] (s.issuing g).act ((s.issuing g).u.pos.after s.npc)
        ((s.issuing g).w32 l b).toNat f)) ∧
    (∀ b, s.clearAt g (srcKeys 1 b) (srcWin 1 b) = true → (s.issuing g).pois .w32 l b = false →
      modeLegal ((s.issuing g).w32 l b).toNat = false →
      exec (.setmode g b) s = .next (s.trapEntry s.cur 7 0 [l] (s.issuing g).act ((s.issuing g).u.pos.after s.npc)
        ((s.issuing g).w32 l b).toNat 0)) ∧
    (∀ a, s.clearAt g (rngKeys a 4) (rngWin a 4) = true → s.mayAt 1 = true → (s.issuing g).vpois l a 4 = false →
      2 ^ 19 < ((s.issuing g).desc l a).base + ((s.issuing g).desc l a).limit →
      exec (.setseg g .tl a) s = .next (s.trapEntry s.cur 7 0 [l] (s.issuing g).act ((s.issuing g).u.pos.after s.npc)
        ((s.issuing g).desc l a).w0.toNat ((s.issuing g).desc l a).w1.toNat))) ∧
  (∀ (i : Instr) (f : AccForm), accForm i = some f → ∀ (s : State) (l : Nat) (bad : List Nat) (arg : Nat × Nat),
    s.clearAt f.g f.keys f.wins = true → s.noneParked = true → s.pointsPassed = true → s.pegRoom f.ps = true →
    (∀ j ∈ (s.issuing f.g).ex, (s.issuing f.g).pois .w64 j f.a = false ∧ ∀ b, f.sc = some b → (s.issuing f.g).pois .w32 j b = false) →
    (s.issuing f.g).ex.filter (fun j => ((s.issuing f.g).offAddr f j).isSome) = l :: bad → (s.issuing f.g).offAddr f l = some arg →
    exec i s = .next (State.trapEntry
      (State.count { s with nextOp := s.nextOp + 1 } s.cur.hr (pegOf (s.issuing f.g).u.pos.hw f.ps) s.nextOp true) s.cur 4 f.n (l :: bad)
      (s.issuing f.g).act ((s.issuing f.g).u.pos.after s.npc) arg.1 arg.2))

/-- HOME_LOAD completes: the bytes within a line that HBM holds arrive in the lane, sign-extended where asked, when no copy serves the load and its core
has no unpublished store; or the scratchpad's bytes; and the request is gone, HBM unchanged (04 R94, 11 R230). HOME_WRITE completes: the request's
bytes are in HBM and every other byte is as it was; the line's times are one, later than every lease of it and no earlier than its writer's; and the
lane's part has arrived (04 R94). HOME_ATOMIC completes, within the lease of its translation: read, computed and written in one event. The location
holds the new value, every other byte is as it was, and the old value has arrived in the lane; shown for ATOM and RED on unpoisoned bytes, CAS and
EVADD (11 R231 to R234). -/
def Obligations.HomeAccessesComplete : Prop :=
  (∀ (s : State) id r sx, kFind id s.reqs = some r → r.acc.kind = .load sx → s.atHome id r = true → s.awaits r →
    (r.acc.sc = false → r.pa % 64 + r.acc.len ≤ 64 ∧ s.memPois r.pa r.acc.len = false ∧
      s.copyFor r.h.cr (lineOf r.pa) r.pol r.repl (s.ptsOf r.h r.gen r.pts) = none ∧ (s.core r.h.cr).cbuf = []) →
    ∃ t, exec (.homeLoad id) s = .next t ∧ kFind id t.reqs = none ∧ t.mem = s.mem ∧
      t.arrivedAs r (if r.acc.sc then loaded r.acc.dst ((s.core r.h.cr).scRead r.pa r.acc.len).1 sx ((s.core r.h.cr).scRead r.pa r.acc.len).2
        else loaded r.acc.dst (s.bytesAt r.pa r.acc.len) sx false)) ∧
  (∀ (s : State) id r, kFind id s.reqs = some r → r.acc.kind = .store → r.acc.sc = false → r.pol ≠ .core → s.atHome id r = true → s.awaits r →
    r.acc.data ≠ [] → s.plainBytes r r.acc.data.length = true → r.acc.len = r.acc.data.length →
    ∃ t, exec (.homeWrite id) s = .next t ∧ kFind id t.reqs = none ∧ t.arrivedAs r [] ∧
      (∀ a, t.byte a = if r.pa ≤ a ∧ a < r.pa + r.acc.data.length then r.acc.data.getD (a - r.pa) 0 else s.byte a) ∧
      (t.lineTs (lineOf r.pa)).wts = (t.lineTs (lineOf r.pa)).rts ∧ (s.lineTs (lineOf r.pa)).rts < (t.lineTs (lineOf r.pa)).wts ∧
      s.ptsOf r.h r.gen r.pts ≤ (t.lineTs (lineOf r.pa)).wts ∧ ∀ l, l ≠ lineOf r.pa → t.lineTs l = s.lineTs l) ∧
  (∀ (s : State) id r, kFind id s.reqs = some r → r.acc.kind.isAtomic = true → r.acc.sc = false → r.gen ≠ swappedGen → s.awaits r →
    s.groupReady r = true → s.atomGroup r = [(id, r)] → s.covered r = true → 0 < r.acc.len → s.plainBytes r r.acc.len = true → s.memPois r.pa r.acc.len = false →
    let old := ofBytes (s.bytesAt r.pa r.acc.len)
    let new := match r.acc.kind with
      | .atomic op b e => atomNew op (8 * r.acc.len) old b.toNat e
      | .cas b c => if old = b.toNat then c.toNat else old
      | .evadd b => (old + b.toNat) % 2 ^ 64
      | _ => old
    ∃ t, exec (.homeAtomic id) s = .next t ∧ kFind id t.reqs = none ∧ t.arrivedAs r (loaded r.acc.dst (s.bytesAt r.pa r.acc.len) false false) ∧
      (∀ a, t.byte a = if r.pa ≤ a ∧ a < r.pa + r.acc.len then (bytesOf r.acc.len new).getD (a - r.pa) 0 else s.byte a))

/-- OP_COMPLETION of an operation that has arrived in every lane, each of which still holds its item, neither killed nor rewound since: every value is in
its register, other registers and the last results are as they were, no lease of it is left, it is gone, and its peg loses the operations at its front
that are eligible, in issue order (06 R147, R153, R154, R156). -/
def Obligations.OpCompletionComplete : Prop :=
  ∀ (s : State) id o, kFind id s.ops = some o → o.gen ≠ swappedGen → s.sameGen o.h o.gen = true → o.lanes ≠ [] →
    (o.lanes.map LaneOp.lane).Nodup →
    (∀ x ∈ o.lanes, ∃ ws, x.st = .arrived ws ∧ (ws.map Prod.fst).Nodup ∧ s.holds o x = true ∧ x.void = false) →
    ∃ t, exec (.opCompletion id) s = .next t ∧ kFind id t.ops = none ∧
      (∀ x ∈ o.lanes, ∀ ws, x.st = .arrived ws →
        (∀ w ∈ ws, rfVal (t.lane o.h x.lane).regs w.1 = w.2.1 ∧ rfPois (t.lane o.h x.lane).regs w.1 = w.2.2) ∧
        (∀ k, k ∉ ws.map Prod.fst → rfVal (t.lane o.h x.lane).regs k = rfVal (s.lane o.h x.lane).regs k ∧
          rfPois (t.lane o.h x.lane).regs k = rfPois (s.lane o.h x.lane).regs k) ∧
        (t.lane o.h x.lane).l0 = (s.lane o.h x.lane).l0 ∧ (t.lane o.h x.lane).l1 = (s.lane o.h x.lane).l1 ∧
        (t.lane o.h x.lane).leases = (s.lane o.h x.lane).leases.filter (fun e => e.2 ≠ id)) ∧
      (∀ p, o.peg = some p → kGet [] p (t.hand o.h).pegs =
        ((kGet [] p (s.hand o.h).pegs).map (fun e => if e.op = id then { e with done := true } else e)).dropWhile (fun e => e.done))

/-- PREF, PUBL and INVL complete: PREF changes no lane and no byte; PUBL, when no engine operation holds a line that it writes, leaves the core no
unpublished .c store, the bytes of an only one being in HBM, and its operation on the peg, complete; INVL leaves the core no L1 copy (11 R236 to R238,
04 R103). PTS_TICK completes: 64 clocks after its last tick, the logical time of a formed hand advances by one, and nothing else changes (04 R94). -/
def Obligations.CacheAndTimeComplete : Prop :=
  ((∀ (s : State) g m l2 a, s.clearAt g (srcKeys 2 a) (srcWin 2 a) = true → (∀ l ∈ (s.issuing g).ex, (s.issuing g).pois .w64 l a = false) →
    ∃ t, exec (.pref g m l2 a) s = .next t ∧ t.mem = s.mem ∧ Passed s t (s.issuing g) ∧ ∀ l, t.lane s.cur.hr l = s.lane s.cur.hr l) ∧
  (∀ (s : State) g ps, s.clearAt g [] [] = true → s.eventClear g = true → s.pegRoom ps = true → s.pubBars s.cur.hr.cr = false →
    ∃ t, exec (.publ g ps) s = .next t ∧ Passed s t (s.issuing g) ∧ t.nextOp = s.nextOp + 1 ∧
      (∀ l, t.lane s.cur.hr l = s.lane s.cur.hr l) ∧
      (∀ p, pegOf (s.issuing g).u.pos.hw ps = some p → kGet [] p (t.hand s.cur.hr).pegs =
        (kGet [] p (s.hand s.cur.hr).pegs ++ ([{ op := s.nextOp, done := true }] : List PegEnt)).dropWhile (fun e => e.done)) ∧
      ((s.issuing g).ex ≠ [] → (t.core s.cur.hr.cr).cbuf = []) ∧
      (∀ b, (s.issuing g).ex ≠ [] → (s.core s.cur.hr.cr).cbuf = [b] → b.pa % 64 + b.data.length ≤ 64 → s.offChans = [] →
        ∀ a, t.byte a = if b.pa ≤ a ∧ a < b.pa + b.data.length then b.data.getD (a - b.pa) 0 else s.byte a)) ∧
  (∀ (s : State) g, s.clearAt g [] [] = true →
    ∃ t, exec (.invl g) s = .next t ∧ Passed s t (s.issuing g) ∧ t.mem = s.mem ∧ (∀ l, t.lane s.cur.hr l = s.lane s.cur.hr l) ∧
      ((s.issuing g).ex ≠ [] → (t.core s.cur.hr.cr).l1 = []))) ∧
  (∀ (s : State) h, ((s.hand h).st = .opened ∨ (s.hand h).st = .dealt) → (s.hand h).ptsClk + 64 ≤ s.clk →
    ∃ t, exec (.ptsTick h) s = .next t ∧ WithinHand s t h ∧ (t.hand h).pts = (s.hand h).pts + 1 ∧ (t.hand h).ptsClk = (s.hand h).ptsClk + 64 ∧
      { t.hand h with pts := (s.hand h).pts, ptsClk := (s.hand h).ptsClk } = s.hand h)

end

namespace Sys2Proof.Machine

/-! ## Branches (07 R165, R166) -/

/-- The place at which a lane stands: its suit's, or its own while it is Held-ready. -/
def State.standsAt (s : State) (h : HandRef) (l : Nat) : Option Pos :=
  match (s.lane h l).st with
  | .active n => ((s.hand h).suit n).map Suit.pos
  | .heldReady => some (s.lane h l).pos
  | _ => none

/-- Address of the next clause, and that an offset names: the clause's own address plus 16 times the offset. -/
def Iss.nextClause (x : Iss) : Nat := x.u.pos.nextHdr
def Iss.offTarget (x : Iss) (off : W32) : Nat := wrapNat 57 ((x.u.pos.hdr : Int) + 16 * off.toInt)

/-- A branch as its row gives it: guard, link register, sources, and where a lane that executes it goes. -/
def branchForm : Instr → Option (Grd × Dst × List (Nat × Src) × (Iss → Nat → Nat))
  | .bra g off => some (g, .none, [], fun x _ => x.offTarget off)
  | .br g a off => some (g, .none, [(1, a)], fun x l => if x.w32 l a = 0 then x.nextClause else x.offTarget off)
  | .brx g a => some (g, .none, [(2, a)], fun x l => (x.w64 l a).toNat)
  | .call g d off => some (g, d, [], fun x _ => x.offTarget off)
  | .callx g d a => some (g, d, [(2, a)], fun x l => (x.w64 l a).toNat)
  | .ret g a => some (g, .none, [(2, a)], fun x l => (x.w64 l a).toNat)
  | _ => none

/-- No executing lane's condition or target is poisoned, and a target of its own is a clause address (24 R423, Table 24.1). -/
def Iss.targetsOk (x : Iss) (srcs : List (Nat × Src)) : Bool :=
  x.ex.all (fun l => srcs.all (fun a =>
    if a.1 = 2 then !x.pois .w64 l a.2 && decide ((x.w64 l a.2).toNat % 16 = 0) && decide ((x.w64 l a.2).toNat < 2 ^ 57)
    else !x.pois .w32 l a.2))

/-! ## Melds, ends and cuts -/

/-- What a MELD joins: an Active lane whose suit, not in Trap, stands at a place for a kernel, or a Held-ready lane there. -/
def State.atMeld (s : State) (h : HandRef) (kern : Nat) (pos : Pos) (l : Nat) : Prop :=
  match (s.lane h l).st with
  | .active n => ∃ u, (s.hand h).suit n = some u ∧ u.kern = kern ∧ u.pos = pos ∧ u.trap = none
  | .heldReady => (s.lane h l).pos = pos ∧ ∃ it, (s.lane h l).item = some it ∧ it.kern = kern
  | _ => False

/-- Every Active or Held-ready lane of the kernel is among them. -/
def State.allAtMeld (s : State) (h : HandRef) (kern : Nat) (pos : Pos) : Prop :=
  ∀ l it, l < 32 → (s.lane h l).item = some it → it.kern = kern →
    ((∃ n, (s.lane h l).st = .active n) ∨ (s.lane h l).st = .heldReady) → s.atMeld h kern pos l

/-- No executing lane has a lease, so that EXIT and SUSPEND need not wait (07 R168). -/
def Iss.unleased (x : Iss) : Bool := x.ex.all (fun l => (x.lane l).leases.isEmpty)

/-! ## Trap mode (22 R378, R381) -/

/-- Where the next trap record of a context goes: an entry is free for a record below 0x20, its address is mapped, and no engine operation holds its
line. -/
def State.trapPlace (s : State) (ctx : Nat) : Option Nat :=
  let x := s.ctxD ctx
  let va := x.tq + 64 * (s.reg ctx 0x194 % 2 ^ (x.tqq + 3))
  if s.unread ctx 0x194 0x195 < 2 ^ (x.tqq + 3) - 1 ∧ va % 64 = 0 then
    match s.xlate ctx (devNeed true) va with
    | .hit pa _ _ _ => if pa % 64 = 0 ∧ !s.offChans.contains (s.home pa).chan ∧ !s.runBars pa 64 true then some pa else none
    | _ => none
  else none

/-- A suit has entered trap mode: the lanes that enter keep their last results and hold the trap word, the suit stands at the
handler, and the trap queue's tail has moved. -/
structure EnteredTrap (s t : State) (r : SuitRef) (u : Suit) (kind : Nat) (amask : List Nat) (tpc : Pos) : Prop where
  lanes : ∀ l ∈ amask, (t.lane r.hr l).saved = some ((s.lane r.hr l).l0, (s.lane r.hr l).l0p, (s.lane r.hr l).l1, (s.lane r.hr l).l1p) ∧
    (t.lane r.hr l).l1 = (s.lane r.hr l).l0 ∧ (t.lane r.hr l).l1p = (s.lane r.hr l).l0p ∧ (t.lane r.hr l).l0p = false ∧
    (t.lane r.hr l).l0 = BitVec.ofNat 64 (s.reg (s.hand r.hr).ctx 0x194 % 2 ^ 32 + kind * 2 ^ 32) ∧
    (t.lane r.hr l).regs = (s.lane r.hr l).regs ∧ (t.lane r.hr l).preds = (s.lane r.hr l).preds ∧ (t.lane r.hr l).item = (s.lane r.hr l).item
  suit : (t.hand r.hr).suit r.suit = some { u with
    pos := Pos.at_ (s.reg (s.hand r.hr).ctx 0x11), stall := .ready, wait := 0, trap := some { tpc := tpc, amask := amask } }
  tail : t.reg (s.hand r.hr).ctx 0x194 = (s.reg (s.hand r.hr).ctx 0x194 + 1) % 2 ^ 64

/-- The suit of a reference can enter trap mode: its context is Open and has a handler, and its record can be written. -/
def State.trapReady (s : State) (r : SuitRef) : Bool :=
  (match s.ctx (s.hand r.hr).ctx with | some x => decide (x.state = 1) | none => false) &&
    decide (s.reg (s.hand r.hr).ctx 0x11 ≠ 0) && (s.trapPlace (s.hand r.hr).ctx).isSome

end Sys2Proof.Machine

section
open Sys2Proof Sys2Proof.Machine

/-- BRA, BR, BRX, CALL, CALLX and RET complete outside trap mode: each executing lane stands at the clause that it goes to and every other lane of the
suit at the next one, in a suit or Held-ready; CALL and CALLX write the address of the next clause to the executing lanes' link pair; nothing else of
any lane changes, and nothing outside the hand (07 R165, R166, 06 R152). CLAUSE_HEADER completes when the clause can be fetched, all of it decodes,
and every peg that WAIT names is zero: the suit stands at the word after the header, with the clause it decoded; with such a peg above zero the suit
stays, stalled. NOP completes by moving past itself, and changes nothing else (06 R135, R149, R150, R157). -/
def Obligations.ClauseFlowComplete : Prop :=
  (∀ i g d srcs go, branchForm i = some (g, d, srcs, go) → ∀ s : State, s.clearAt g (namesOf 2 d srcs) (windowsOf 2 d srcs) = true →
    s.noneParked = true → (s.issuing g).u.trap = none → (s.issuing g).targetsOk srcs = true →
    ∃ t, exec i s = .next t ∧ WithinHand s t s.cur.hr ∧
      (∀ l ∈ (s.issuing g).act, t.standsAt s.cur.hr l =
        some (Pos.at_ (if l ∈ (s.issuing g).ex then go (s.issuing g) l else (s.issuing g).nextClause))) ∧
      (∀ l ∈ (s.issuing g).ex, Received (s.lane s.cur.hr l)
        { t.lane s.cur.hr l with st := (s.lane s.cur.hr l).st, pos := (s.lane s.cur.hr l).pos }
        (gift64 d (BitVec.ofNat 64 (s.issuing g).nextClause) false)) ∧
      (∀ l, l ∉ (s.issuing g).ex →
        { t.lane s.cur.hr l with st := (s.lane s.cur.hr l).st, pos := (s.lane s.cur.hr l).pos } = s.lane s.cur.hr l) ∧
      (∀ l, l ∉ (s.issuing g).act → t.lane s.cur.hr l = s.lane s.cur.hr l)) ∧
  ((∀ (s s1 : State) setb seta wait chunks ws l, s.clearAt Grd.always [] [] = true →
    s.fetchWords s.cur.hr (s.hand s.cur.hr).gen (s.issuing Grd.always).ctx (s.issuing Grd.always).pl ((s.issuing Grd.always).u.pos.pc + 4)
      (4 * (chunks + 1) - 1) = .words ws s1 →
    decodeBody (barLegal (s.issuing Grd.always).kern.lrec) 16 1 false ws = .ok l →
    ((∀ p, p < 12 → wait.testBit p = true → (s.hand s.cur.hr).peg p = 0) →
      ∃ t, exec (.clauseHeader setb seta wait chunks) s = .next t ∧ t.mem = s.mem ∧ (∀ j, t.lane s.cur.hr j = s.lane s.cur.hr j) ∧
        (t.hand s.cur.hr).suit s.cur.suit = some { (s.issuing Grd.always).u with
          pos := { pc := (s.issuing Grd.always).u.pos.pc + 4, hdr := (s.issuing Grd.always).u.pos.pc, hw := headerWord setb seta wait chunks }
          stall := .ready, clause := some ((s.issuing Grd.always).u.pos.pc, ws) }) ∧
    (∀ p, p < 12 → wait.testBit p = true → (s.hand s.cur.hr).peg p ≠ 0 → s.noneParked = true →
      ∃ t, exec (.clauseHeader setb seta wait chunks) s = .next t ∧ t.mem = s.mem ∧ (∀ j, t.lane s.cur.hr j = s.lane s.cur.hr j) ∧
        (t.hand s.cur.hr).suit s.cur.suit = some { (s.issuing Grd.always).u with stall := .clause, wait := 0 })) ∧
  (∀ (s : State), ((s.hand s.cur.hr).suit s.cur.suit).isSome = true →
    ∃ t, exec .nop s = .next t ∧ WithinHand s t s.cur.hr ∧ (∀ l, t.lane s.cur.hr l = s.lane s.cur.hr l) ∧
      (∀ n, (t.hand s.cur.hr).suit n = if n = s.cur.suit then
        some { (s.issuing Grd.always).u with pos := (s.issuing Grd.always).u.pos.after s.npc } else (s.hand s.cur.hr).suit n)))

/-- MELD completes outside trap mode: everything of the suit's kernel that stands at it, in suits not in Trap or Held-ready, is in one suit, which goes on
at once when no other Active or Held-ready lane of the kernel is elsewhere, and nothing else of a lane changes (the time from which a Held-ready lane
has waited is the model's own); and MELD_WINDOW_EXPIRY does the same, and lets the suit go on, once every window open there is over (02 R45, 07 R167). -/
def Obligations.MeldsComplete : Prop :=
  (∀ (s : State) win, s.clearAt Grd.always [] [] = true → (s.issuing Grd.always).u.trap = none →
    ∃ t n, exec (.meld win) s = .next t ∧ WithinHand s t s.cur.hr ∧
      (∀ l, l < 32 → s.atMeld s.cur.hr (s.issuing Grd.always).u.kern (s.issuing Grd.always).u.pos l → (t.lane s.cur.hr l).st = .active n) ∧
      (∀ l, { t.lane s.cur.hr l with st := (s.lane s.cur.hr l).st, heldSince := (s.lane s.cur.hr l).heldSince } = s.lane s.cur.hr l) ∧
      (s.allAtMeld s.cur.hr (s.issuing Grd.always).u.kern (s.issuing Grd.always).u.pos →
        ((t.hand s.cur.hr).suit n).map (fun u => (u.pos, u.stall)) = some ((s.issuing Grd.always).u.pos.after s.npc, Stall.ready))) ∧
  (∀ (s : State) r u w, (s.hand r.hr).suit r.suit = some u → u.stall = .meld w → u.trap = none →
    (∀ e ∈ (s.hand r.hr).suits, ∀ v, e.2.stall = .meld v → v ≤ s.clk) →
    ∃ t n, exec (.meldWindowExpiry r) s = .next t ∧ WithinHand s t r.hr ∧
      (∀ l, l < 32 → s.atMeld r.hr u.kern u.pos l → (t.lane r.hr l).st = .active n) ∧
      ((t.hand r.hr).suit n).map (fun v => (v.pos, v.stall)) = some (u.pos.after (u.pos.pc + 12), Stall.ready))

/-- EXIT completes outside trap mode when its lanes have no leases, no operation of them stands before its issue point, and, where it seals an estate or
is the last of a table, no store of policy 1 of the table has still to enter the core and no engine operation holds the line of one that it publishes:
no executing lane holds an item, a lane without a will is Idle, and the lanes left stand at the next clause, or the suit's slot is Free (07 R168, 03
R55, 04 R103). -/
def Obligations.ExitComplete : Prop :=
  ∀ (s : State) g, s.clearAt g [] [] = true → s.noneParked = true → s.pointsPassed = true → (s.issuing g).u.trap = none →
    (s.issuing g).unleased = true → s.pubBars s.cur.hr.cr = false → (s.issuing g).exitDue = false →
    (∀ l ∈ (s.issuing g).ex, ((s.issuing g).lane l).will.isSome = true →
      s.itemWaits (s.issuing g).ctx ((s.issuing g).item l).kern ((s.issuing g).item l).item = false) →
    ∃ t, exec (.exit g) s = .next t ∧
      (∀ l ∈ (s.issuing g).ex, (t.lane s.cur.hr l).item = none) ∧
      (∀ l ∈ (s.issuing g).ex, (s.lane s.cur.hr l).item.isSome = true → (s.lane s.cur.hr l).will = none → (t.lane s.cur.hr l).st = .idle) ∧
      (∀ l ∈ (s.issuing g).act, l ∉ (s.issuing g).ex → t.standsAt s.cur.hr l = some (Pos.at_ (s.issuing g).nextClause)) ∧
      ((∀ l ∈ (s.issuing g).act, l ∈ (s.issuing g).ex ∧ (s.lane s.cur.hr l).item.isSome = true) → (t.hand s.cur.hr).suit s.cur.suit = none)

/-- CUT completes: it records its place and live ranges in every lane of the suit, which is then unsealed; and YIELD completes with the suit's waiting
time at zero, and nothing else (07 R170, R171, R177). DRAW completes outside trap mode in a hand that has made no fill action on this clock. The lanes
that join are those in which the fill action seats an item that starts there: items of the suit's kernel, in lanes that were Idle, Reserved or Pinned,
and none where the kernel is hand-dealt. With them the suit is its own lanes and the lanes that join, at the next instruction; n, their number, is in
D of all of them, not poisoned; the suit's own lanes are sealed and keep all else; and n has shifted the last-result slots of all of them, which in a
lane that joins is the model's choice (log 49). In a hand that has made a fill action on this clock the suit stays, stalled until the next (07 R169,
02 R34, R40). -/
def Obligations.SplitsOfItemsComplete : Prop :=
  ((∀ (s : State) (r1 r2 r3 : Rng), let live := [r1, r2, r3].filter (fun r => r.len ≠ 0)
    s.clearAt Grd.always (live.flatMap (fun r => rngKeys r.start r.len)) (live.flatMap (fun r => rngWin r.start r.len)) = true →
    (s.issuing Grd.always).u.trap = none →
    ∃ t, exec (.cut r1 r2 r3) s = .next t ∧ WithinHand s t s.cur.hr ∧ Passed s t (s.issuing Grd.always) ∧
      ∀ l, t.lane s.cur.hr l = if l ∈ (s.issuing Grd.always).act then
        { s.lane s.cur.hr l with cut := some { pos := (s.issuing Grd.always).u.pos, ranges := live }, isSealed := false } else s.lane s.cur.hr l) ∧
  (∀ (s : State), s.clearAt Grd.always [] [] = true → (s.issuing Grd.always).u.trap = none → Given s .yield Grd.always (fun _ _ => {})) ∧
  (∀ (s : State), s.clearAt Grd.always [] [] = true → (s.issuing Grd.always).u.trap = none →
    ∃ t, exec .yieldSlot s = .next t ∧ WithinHand s t s.cur.hr ∧ (t.hand s.cur.hr).suit s.cur.suit = none ∧
      (t.hand s.cur.hr).passOver = (s.issuing Grd.always).act ∧
      ∀ l, t.lane s.cur.hr l = if l ∈ (s.issuing Grd.always).act then
        { s.lane s.cur.hr l with st := .heldReady, pos := (s.issuing Grd.always).u.pos.after s.npc } else s.lane s.cur.hr l)) ∧
  (∀ (s : State) d, s.clearAt Grd.always (dstKeys 1 d) (dstWin 1 d) = true → (s.issuing Grd.always).u.trap = none →
    ((s.hand s.cur.hr).filled = false → (s.issuing Grd.always).u.stall = .ready →
      let join := ((s.draw s.cur.hr (s.issuing Grd.always).u.kern).got.filter (fun e => !e.2)).map Prod.fst
      ∃ t : State, exec (.draw d) s = .next t ∧
        ((s.issuing Grd.always).kern.lrec.hdeal = true → join = []) ∧ join.Nodup ∧
        (∀ l, (t.lane s.cur.hr l).st = .active s.cur.suit ↔ (s.lane s.cur.hr l).st = .active s.cur.suit ∨ l ∈ join) ∧
        ((t.hand s.cur.hr).suit s.cur.suit).map (fun u => (u.pos, u.stall)) = some ((s.issuing Grd.always).u.pos.after s.npc, Stall.ready) ∧
        (∀ l ∈ (s.issuing Grd.always).act, Received (s.lane s.cur.hr l) { t.lane s.cur.hr l with isSealed := (s.lane s.cur.hr l).isSealed }
          (gift32 d (BitVec.ofNat 32 join.length) false) ∧ (t.lane s.cur.hr l).isSealed = true) ∧
        (∀ l ∈ join, (∃ it, (t.lane s.cur.hr l).item = some it ∧ it.kern = (s.issuing Grd.always).u.kern) ∧
          ((s.lane s.cur.hr l).st = .idle ∨ (s.lane s.cur.hr l).st = .pinned ∨ ∃ q b, (s.lane s.cur.hr l).st = .reserved q b) ∧
          (∀ k ∈ dstKeys 1 d, rfVal (t.lane s.cur.hr l).regs k = BitVec.ofNat 32 join.length ∧ rfPois (t.lane s.cur.hr l).regs k = false) ∧
          (dstKeys 1 d ≠ [] → (t.lane s.cur.hr l).l0 = BitVec.ofNat 64 join.length ∧ (t.lane s.cur.hr l).l1 = 0))) ∧
    ((s.hand s.cur.hr).filled = true → ∃ t, exec (.draw d) s = .next t ∧ WithinHand s t s.cur.hr ∧ (∀ l, t.lane s.cur.hr l = s.lane s.cur.hr l) ∧
      (t.hand s.cur.hr).suit s.cur.suit = some { (s.issuing Grd.always).u with stall := .filled, wait := 0 }))

/-- SUSPEND of one lane completes when its event word is mapped and no engine operation holds its line: the lane is Pinned with a self-estate of its carry
range and holds no item, and the item waits in a record at the word's home for its target, or, where the word has reached it, at the end of its core's
continuation queue. Executed in no lane it only ends its clause (03 R76, R77, 07 R174). -/
def Obligations.SuspendComplete : Prop :=
  (∀ (s s1 : State) g a b off c n l it va pa pol rp lo, s.clearAt g (namesOf 0 .none [(2, a), (2, b)] ++ rngKeys c (n + 1))
      (windowsOf 0 .none [(2, a), (2, b)] ++ rngWin c (n + 1)) = true → s.eventClear g = true → (s.issuing g).u.trap = none →
    (s.issuing g).ex = [l] → (s.lane s.cur.hr l).item = some it → it.willed = false → (s.issuing g).kern.lrec.pcap ≠ 0 →
    (s.issuing g).unleased = true → (s.issuing g).pois .w64 l a = false → (s.issuing g).pois .w64 l b = false →
    ((s.issuing g).w64 l a).toNat % 8 = 0 →
    segCheck .gl (s.laneDesc s.cur.hr l (s.issuing g).u.kern .gl) { rd := true, wr := true, pl := (s.issuing g).pl } ((s.issuing g).w64 l a).toNat 8 = .ok va →
    s.translate s.cur.hr (s.hand s.cur.hr).gen (s.issuing g).ctx { rd := true, wr := true, pl := (s.issuing g).pl } va = (.hit pa pol rp lo, s1) →
    s.claimBars .mem s.cur.hr.cr (lineOf pa) true = false → (s.core s.cur.hr.cr).cbuf = [] →
    (((s.issuing g).w64 l b).toNat ≤ s.mem64 pa ∨ s.waitCount (s.home pa).die (s.home pa).slice < 2048) →
    ∃ t e k, exec (.suspend g a b off c n) s = .next t ∧ (t.lane s.cur.hr l).st = .pinned ∧ (t.lane s.cur.hr l).item = none ∧
      (t.lane s.cur.hr l).estate = some e ∧ e.self = true ∧ e.kern = it.kern ∧ e.item = it.item ∧ e.start = c ∧
      e.data = (rngKeys c (n + 1)).map (fun j => (rfVal (s.lane s.cur.hr l).regs j, rfPois (s.lane s.cur.hr l).regs j)) ∧
      k.ctx = (s.issuing g).ctx ∧ k.kern = it.kern ∧ k.item = it.item ∧ k.pc = (s.issuing g).offTarget off ∧ k.start = c ∧ k.len = n + 1 ∧
      (if ((s.issuing g).w64 l b).toNat ≤ s.mem64 pa then
         t.waitRecs = s.waitRecs ∧ (t.core s.cur.hr.cr).contq = (s.core s.cur.hr.cr).contq ++ [k]
       else t.waitRecs = s.waitRecs ++ [{ die := (s.home pa).die, slice := (s.home pa).slice, pa := pa, target := ((s.issuing g).w64 l b).toNat
                                          core := s.cur.hr.cr, cont := k }])) ∧
  (∀ (s : State) g a b off c n, s.clearAt g [] [] = true → s.noneParked = true → s.pointsPassed = true → (s.issuing g).u.trap = none →
    (s.issuing g).ex = [] → ∃ t, exec (.suspend g a b off c n) s = .next t ∧ (∀ l, (t.lane s.cur.hr l).item = (s.lane s.cur.hr l).item) ∧
      ∀ l ∈ (s.issuing g).act, t.standsAt s.cur.hr l = some (Pos.at_ (s.issuing g).nextClause))

/-- WAITP completes at once when its peg is at or below every executing lane's threshold, else the suit waits for 256 clocks at most; WAITP_GIVE_UP then
leaves the executing lanes Held-wait at the next instruction and frees the slot; and PEG_THRESHOLD_REACHED makes a Held-wait lane Held-ready (07 R175,
02 R30). -/
def Obligations.PegWaitsComplete : Prop :=
  (∀ (s : State) g a peg, s.clearAt g (srcKeys 1 a) (srcWin 1 a) = true →
    ((∀ l ∈ (s.issuing g).ex, (s.hand s.cur.hr).peg peg ≤ ((s.issuing g).w32 l a).toNat) → Given s (.waitp g a peg) g (fun _ _ => {})) ∧
    ((∃ l ∈ (s.issuing g).ex, ((s.issuing g).w32 l a).toNat < (s.hand s.cur.hr).peg peg) → s.noneParked = true →
      ∃ t, exec (.waitp g a peg) s = .next t ∧ WithinHand s t s.cur.hr ∧ (∀ l, t.lane s.cur.hr l = s.lane s.cur.hr l) ∧
        ((t.hand s.cur.hr).suit s.cur.suit).map (fun u => (u.pos, u.stall)) = some ((s.issuing g).u.pos,
          Stall.waitp (s.clk + 256) peg ((s.issuing g).ex.map (fun l => (l, ((s.issuing g).w32 l a).toNat)))))) ∧
  (∀ (s : State) r u w peg thrs, (s.hand r.hr).suit r.suit = some u → u.stall = .waitp w peg thrs → u.trap = none → w < s.clk →
    ∃ t, exec (.waitpGiveUp r) s = .next t ∧ WithinHand s t r.hr ∧ (t.hand r.hr).suit r.suit = none ∧
      ∀ l ∈ (s.hand r.hr).active r.suit, (t.lane r.hr l).pos = u.pos.after (u.pos.pc + 12) ∧
        (t.lane r.hr l).st = match thrs.find? (fun e => e.1 = l) with | some e => LaneSt.heldWait peg e.2 | none => .heldReady) ∧
  (∀ (s : State) h l p thr, (s.lane h l).st = .heldWait p thr → (s.hand h).peg p ≤ thr →
    ∃ t, exec (.pegThresholdReached h l) s = .next t ∧ WithinHand s t h ∧ t.lane h l = { s.lane h l with st := .heldReady } ∧
      ∀ j, j ≠ l → t.lane h j = s.lane h j)

/-- BAR completes outside trap mode, its suit's items in one unit of its level or in several: every item of the suit arrives at its unit, its lanes are
sealed, and an instance is complete when the items that have arrived, with those of the unit that have exited or will never be, are the unit's. Where
every instance of the suit is complete the suit goes on; else its lanes stand at the next instruction, Held-ready where their own instance is complete
and Held-barrier where it is not. A complete instance is over, and lanes held at it are Held-ready; the arrivals at another are kept. Where the unit
spans cores, the stores that it publishes are on lines that no engine operation holds. BARRIER_COMPLETE ends an instance that an exit has completed:
the lanes held at it are Held-ready, and no other lane changes (02 R28, 07 R176, 04 R103). -/
def Obligations.BarriersComplete : Prop :=
  (∀ (s : State) k, s.clearAt Grd.always [] [] = true → s.eventClear Grd.always = true → (s.issuing Grd.always).u.trap = none →
    (s.issuing Grd.always).u.stall = .ready → s.kern (s.issuing Grd.always).ctx (s.issuing Grd.always).u.kern = some (s.issuing Grd.always).kern →
    (lvScope ((s.issuing Grd.always).kern.lrec.level k) ≤ 1 ∨ s.pubBars s.cur.hr.cr = false) →
    let x := s.issuing Grd.always
    let unit := fun l => (x.item l).item / maxN 1 (x.kern.lrec.unitItems k)
    let here := fun q => (x.act.filter (fun l => unit l = q)).foldl (fun a l => insN (x.item l).item a) (kGet [] (barKey k q) x.kern.arrivals)
    let full := fun q => x.kern.lrec.unitItems k ≤ (here q).length + x.kern.unitOut k q
    ∃ t, exec (.bar k) s = .next t ∧
      (∀ l ∈ x.act, (t.lane s.cur.hr l).isSealed = true ∧ (t.lane s.cur.hr l).regs = (s.lane s.cur.hr l).regs ∧
        (t.lane s.cur.hr l).preds = (s.lane s.cur.hr l).preds ∧ (t.lane s.cur.hr l).item = (s.lane s.cur.hr l).item) ∧
      ((∀ l ∈ x.act, full (unit l)) → (∀ l ∈ x.act, (t.lane s.cur.hr l).st = .active s.cur.suit) ∧
        ((t.hand s.cur.hr).suit s.cur.suit).map (fun u => (u.pos, u.stall)) = some (x.u.pos.after s.npc, Stall.ready)) ∧
      ((∃ l ∈ x.act, ¬ full (unit l)) → ∀ l ∈ x.act, (t.lane s.cur.hr l).pos = x.u.pos.after s.npc ∧
        (full (unit l) → (t.lane s.cur.hr l).st = .heldReady) ∧ (¬ full (unit l) → (t.lane s.cur.hr l).st = .heldBarrier k)) ∧
      ∀ j ∈ x.act,
        (full (unit j) → kFind (barKey k (unit j)) (t.kernD x.ctx x.u.kern).arrivals = none ∧
          ∀ h l it, (s.hand h).ctx = x.ctx → (s.lane h l).item = some it → it.kern = x.u.kern →
            it.item / maxN 1 (x.kern.lrec.unitItems k) = unit j → (s.lane h l).st = .heldBarrier k → (t.lane h l).st = .heldReady) ∧
        (¬ full (unit j) → kGet [] (barKey k (unit j)) (t.kernD x.ctx x.u.kern).arrivals = here (unit j))) ∧
  (∀ (s : State) ctx kern level unit k, s.kern ctx kern = some k → (kFind (barKey level unit) k.arrivals).isSome = true →
    k.lrec.unitItems level ≤ (kGet [] (barKey level unit) k.arrivals).length + k.unitOut level unit →
    ∃ t, exec (.barrierComplete ctx kern level unit) s = .next t ∧ t.mem = s.mem ∧
      kFind (barKey level unit) (t.kernD ctx kern).arrivals = none ∧
      ∀ h l, t.lane h l = if (s.hand h).ctx = ctx ∧ (s.lane h l).st = .heldBarrier level ∧
          ∃ it, (s.lane h l).item = some it ∧ it.kern = kern ∧ it.item / maxN 1 (k.lrec.unitItems level) = unit then
        { s.lane h l with st := .heldReady } else s.lane h l)

/-- Entry into trap mode: the record of R378 is written at the tail of the trap queue, which advances; the lanes that enter save l0 and l1, l1 takes l0,
and l0 the trap word; and the suit stands at CX.TRAPPC with TPC saved (22 R378, R381). -/
def Obligations.TrapEntrySavesAndJumps : Prop :=
  ∀ (s : State) (r : SuitRef) (u : Suit) kind code cmask amask tpc a0 a1, amask.Nodup → (s.hand r.hr).suit r.suit = some u → u.trap = none →
    s.trapReady r = true →
    let t := s.trapEntry r kind code cmask amask tpc a0 a1
    EnteredTrap s t r u kind amask tpc ∧ ∀ pa, s.trapPlace (s.hand r.hr).ctx = some pa → ∀ i, i < 8 →
      t.mem64 (pa + 8 * i) = ([kind * 2 ^ 56 + code % 65536 * 2 ^ 32 + s.reg (s.hand r.hr).ctx 0x194 % 2 ^ 32, u.pos.pc % 2 ^ 57,
        maskOf cmask * 2 ^ 32 + maskOf amask, (s.hand r.hr).itemOf cmask, s.whoOf r u.kern, a0, a1, s.clk].getD i 0) % 2 ^ 64

/-- TRAP completes: the executing lanes enter trap mode, kind 1, with the next clause as TPC, and the others of the suit stand at the next clause;
executed in no lane it only ends its clause. TRET in trap mode puts the suit back at TPC, outside trap mode, with l0 and l1 as they stood and pegs,
cuts and leases as they are (07 R178, R179, 22 R381, R382). -/
def Obligations.TrapAndReturnComplete : Prop :=
  (∀ (s : State) g code, s.clearAt g [] [] = true → s.noneParked = true → (s.issuing g).u.trap = none →
    ((s.issuing g).ex = [] → ∃ t, exec (.trap g code) s = .next t ∧ WithinHand s t s.cur.hr ∧ (∀ l, t.lane s.cur.hr l = s.lane s.cur.hr l) ∧
      ((t.hand s.cur.hr).suit s.cur.suit).map Suit.pos = some (Pos.at_ (s.issuing g).nextClause)) ∧
    ((s.issuing g).ex ≠ [] → s.trapReady s.cur = true → ∃ t, exec (.trap g code) s = .next t ∧
      EnteredTrap s t s.cur (s.issuing g).u 1 (s.issuing g).ex (Pos.at_ (s.issuing g).nextClause) ∧
      ∀ l ∈ (s.issuing g).act, l ∉ (s.issuing g).ex → t.standsAt s.cur.hr l = some (Pos.at_ (s.issuing g).nextClause))) ∧
  (∀ (s : State) p, s.clearAt Grd.always [] [] = true → s.noneParked = true → (s.issuing Grd.always).u.trap = some p →
    ∃ t, exec .tret s = .next t ∧ WithinHand s t s.cur.hr ∧ (t.hand s.cur.hr).pegs = (s.hand s.cur.hr).pegs ∧
      (t.hand s.cur.hr).suit s.cur.suit = some { (s.issuing Grd.always).u with pos := p.tpc, stall := .ready, wait := 0, trap := none } ∧
      ∀ l, t.lane s.cur.hr l = match (s.lane s.cur.hr l).saved with
        | some (a, ap, b, bp) => if l ∈ (s.issuing Grd.always).act then
            { s.lane s.cur.hr l with l0 := a, l0p := ap, l1 := b, l1p := bp, saved := none } else s.lane s.cur.hr l
        | none => s.lane s.cur.hr l)

end

namespace Sys2Proof.Machine

/-! ## Engine operations (12, 17) -/

/-- What an engine instruction asks for once its leader's operands have passed: its kind, the ranges to claim in order, the bytes it
writes, whether there is nothing to do, the leader's generator after a word drawn for it, and, where its indices are still to be read, how far they may
reach. -/
structure EngWant where
  kind : EngK
  todo : List ERange
  total : Nat
  empty : Bool
  rng : Option W32 := none
  reach : Option Nat := none

/-- An engine instruction as its row gives it: guard, PSLOT, registers named and their windows, operands of the leader, whether it
seals, whether offsets, lengths and formats are right, and what it asks for where its segments allow it. -/
structure EngForm where
  g : Grd
  ps : Bool
  keys : List Nat
  wins : List (Nat × Nat)
  ops : List (OW × Src)
  seals : Bool := false
  ok : Iss → Nat → Bool
  want : Iss → Nat → Option EngWant
  /-- a remote instruction: PEER, the right it needs, and its remote offset and length -/
  far : Option (Nat × Nat × (Iss → Nat → Nat × Nat)) := none

/-- Where a checked range of the leader begins. -/
def Iss.place (x : Iss) (l : Nat) (sg : Seg) (wr : Bool) (rw : Bool) (off n : Nat) : Option EAddr :=
  match segCheck sg (x.s.laneDesc x.h l x.u.kern sg) { rd := !wr || rw, wr := wr, pl := x.pl } off n with
  | .ok va => some { sp := match sg with | .sc => .sc | .tl => .tl | _ => .mem, addr := va }
  | .error _ => none

/-- Bytes from an offset on that a segment of the leader holds, below bit 57 of the address (04 R84). -/
def Iss.roomAt (x : Iss) (l : Nat) (sg : Seg) (off : Nat) : Nat :=
  let d := x.s.laneDesc x.h l x.u.kern sg
  min (d.limit - off) (2 ^ 57 - d.base - off)

/-- A source range and a destination range. -/
def Iss.ends (x : Iss) (l : Nat) (dseg sseg : Seg) (rw : Bool) (a b nd ns : Nat) (k : EAddr → EAddr → EngK) (rng : Option W32 := none) : Option EngWant :=
  match x.place l sseg false false b ns, x.place l dseg true rw a nd with
  | some src, some dst => some { kind := k src dst, total := nd, empty := decide (nd = 0), rng := rng
                                 todo := [{ at_ := src, len := ns, dst := false }, { at_ := dst, len := nd, dst := true }] }
  | _, _ => none

def three (a b c : Src) : List (OW × Src) := [(.w64, a), (.w64, b), (.w32, c)]
def four (a b : Src) (c : Nat) : List (OW × Src) := [(.w64, a), (.w64, b), (.w32, .v c), (.w32, .v (c + 1)), (.w32, .v (c + 2)), (.w32, .v (c + 3))]
def by16 (x : Iss) (l : Nat) (a : Src) : Bool := decide ((x.w64 l a).toNat % 16 = 0)
/-- Word j of the range of four registers at c. -/
def Iss.quad (x : Iss) (l c j : Nat) : Nat := (x.w32 l (.v (c + j))).toNat

def engForm3 (g : Grd) (ps : Bool) (a b c : Src) (seals : Bool) (okN : Iss → Nat → Nat → Bool) (want : Iss → Nat → Option EngWant) : EngForm :=
  { g := g, ps := ps, keys := namesOf 0 .none [(2, a), (2, b), (1, c)], wins := windowsOf 0 .none [(2, a), (2, b), (1, c)]
    ops := three a b c, seals := seals, ok := fun x l => okN x l (x.w32 l c).toNat, want := want }

def engForm : Instr → Option EngForm
  | .cpy g ps dseg sseg a b c => some (engForm3 g ps a b c false (fun x l n => by16 x l a && by16 x l b && decide (n % 16 = 0))
      (fun x l => let n := (x.w32 l c).toNat; x.ends l dseg sseg false (x.w64 l a).toNat (x.w64 l b).toNat n n (fun src dst => .copy src dst n)))
  | .cpyw g ps sseg a b c => some (engForm3 g ps a b c false
      (fun x l n => by16 x l a && by16 x l b && decide (n % 16 = 0 ∧ (n = 0 ∨ (x.w64 l a).toNat + n ≤ 524288)))
      (fun x l => let n := (x.w32 l c).toNat; x.ends l .tl sseg false (x.w64 l a).toNat (x.w64 l b).toNat n n (fun src dst => .copy src dst n)))
  | .sred g ps dseg sseg bf mx r a b c => some (engForm3 g ps a b c true (fun x l n => by16 x l a && by16 x l b && decide (n % 16 = 0))
      (fun x l => let n := (x.w32 l c).toNat
        x.ends l dseg sseg true (x.w64 l a).toNat (x.w64 l b).toNat n n (fun src dst => .reduce src dst n bf mx (x.engEnv r l (!mx)).1) (x.engEnv r l (!mx)).2))
  | .scvt g ps dseg sseg dst src f r sat a b c => some (engForm3 g ps a b c false
      (fun x l n => by16 x l a && by16 x l b && decide (n % 32 = 0 ∧ n ≤ 2 ^ 28) && ((dst ≠ .nar && src ≠ .nar) || nLegal (x.fmt f)))
      (fun x l => let n := (x.w32 l c).toNat
        x.ends l dseg sseg false (x.w64 l a).toNat (x.w64 l b).toNat (cvtLen dst (x.fmt f) n) (cvtLen src (x.fmt f) n)
          (fun sr de => .convert sr de n src dst (BitVec.ofNat 32 (x.fmt f)) sat (x.engEnv r l true).1) (x.engEnv r l true).2))
  | .cpy2 g ps dseg sseg a b c => some {
      g := g, ps := ps, ops := four a b c, keys := namesOf 0 .none [(2, a), (2, b)] ++ rngKeys c 4, wins := windowsOf 0 .none [(2, a), (2, b)] ++ rngWin c 4
      ok := fun x l => by16 x l a && by16 x l b && (x.quad l c 0 = 0 || x.quad l c 1 = 0 ||
        decide (x.quad l c 0 % 16 = 0 ∧ x.quad l c 0 ≤ 2 ^ 24 ∧ x.quad l c 1 ≤ 65536 ∧ x.quad l c 2 % 16 = 0 ∧ x.quad l c 3 % 16 = 0 ∧
          (x.quad l c 0 ≤ x.quad l c 3 ∨ x.quad l c 1 = 1)))
      want := fun x l =>
        let (r, n, p, q) := (x.quad l c 0, x.quad l c 1, x.quad l c 2, x.quad l c 3)
        let span (t : Nat) : Nat := if r = 0 ∨ n = 0 then 0 else (n - 1) * t + r
        match x.place l sseg false false (x.w64 l b).toNat (span p), x.place l dseg true false (x.w64 l a).toNat (span q) with
        | some src, some dst => some {
            kind := .copy2 src dst r n p q, total := r * n, empty := r = 0 || n = 0
            todo := (List.range (if p = 0 then minN n 1 else n)).map (fun i => { at_ := src.plus (i * p), len := r, dst := false })
              ++ (List.range n).map (fun i => { at_ := dst.plus (i * q), len := r, dst := true }) }
        | _, _ => none }
  | .gath g ps dseg sseg a b c => some {
      g := g, ps := ps, ops := four a b c, keys := namesOf 0 .none [(2, a), (2, b)] ++ rngKeys c 4, wins := windowsOf 0 .none [(2, a), (2, b)] ++ rngWin c 4
      ok := fun x l => by16 x l a && by16 x l b && (x.quad l c 2 = 0 ||
        decide (x.quad l c 0 % 4 = 0 ∧ x.quad l c 2 ≤ 2 ^ 20 ∧ x.quad l c 3 % 16 = 0 ∧ 16 ≤ x.quad l c 3 ∧ x.quad l c 3 ≤ 65536))
      want := fun x l =>
        let (n, e) := (x.quad l c 2, x.quad l c 3)
        match x.place l sseg false false (x.w64 l (.v c)).toNat (4 * n), x.place l sseg false false (x.w64 l b).toNat (if n = 0 then 0 else e),
            x.place l dseg true false (x.w64 l a).toNat (n * e) with
        | some idx, some src, some dst => some { kind := .gather src dst idx n e, total := n * e, empty := decide (n = 0), reach := some (x.roomAt l sseg (x.w64 l b).toNat)
                                                 todo := [{ at_ := idx, len := 4 * n, dst := false }] }
        | _, _, _ => none }
  | .scat g ps dseg sseg a b c => some {
      g := g, ps := ps, ops := four a b c, keys := namesOf 0 .none [(2, a), (2, b)] ++ rngKeys c 4, wins := windowsOf 0 .none [(2, a), (2, b)] ++ rngWin c 4
      ok := fun x l => by16 x l a && by16 x l b && (x.quad l c 2 = 0 ||
        decide (x.quad l c 0 % 4 = 0 ∧ x.quad l c 2 ≤ 2 ^ 20 ∧ x.quad l c 3 % 16 = 0 ∧ 16 ≤ x.quad l c 3 ∧ x.quad l c 3 ≤ 65536))
      want := fun x l =>
        let (n, e) := (x.quad l c 2, x.quad l c 3)
        match x.place l sseg false false (x.w64 l (.v c)).toNat (4 * n), x.place l sseg false false (x.w64 l b).toNat (n * e),
            x.place l dseg true false (x.w64 l a).toNat (if n = 0 then 0 else e) with
        | some idx, some src, some dst => some { kind := .scatter src dst idx n e, total := n * e, empty := decide (n = 0), reach := some (x.roomAt l dseg (x.w64 l a).toNat)
                                                 todo := [{ at_ := idx, len := 4 * n, dst := false }] }
        | _, _, _ => none }
  | .rput g ps sseg peer a b c => some { engForm3 g ps a b c true (fun x l n => by16 x l b && decide (n % 16 = 0 ∧ n ≤ 2 ^ 20))
      (fun x l => let n := (x.w32 l c).toNat
        (x.place l sseg false false (x.w64 l b).toNat n).map (fun src =>
          { kind := .put src n, todo := [{ at_ := src, len := n, dst := false }], total := n, empty := decide (n = 0) })) with
      far := some (peer, 0, fun x l => ((x.w64 l a).toNat, (x.w32 l c).toNat)) }
  | .rget g ps dseg peer a b c => some { engForm3 g ps a b c true (fun x l n => by16 x l a && decide (n % 16 = 0 ∧ n ≤ 2 ^ 20))
      (fun x l => let n := (x.w32 l c).toNat
        (x.place l dseg true false (x.w64 l a).toNat n).map (fun dst =>
          { kind := .get dst n, todo := [{ at_ := dst, len := n, dst := true }], total := n, empty := decide (n = 0) })) with
      far := some (peer, 1, fun x l => ((x.w64 l b).toNat, (x.w32 l c).toNat)) }
  | .rsig g ps peer a b => some {
      g := g, ps := ps, keys := namesOf 0 .none [(2, a), (2, b)], wins := windowsOf 0 .none [(2, a), (2, b)], ops := [(.w64, a), (.w64, b)]
      seals := true, ok := fun x l => decide ((x.w64 l a).toNat % 8 = 0)
      want := fun x l => some { kind := .signal (x.w64 l b), todo := [], total := 8, empty := false }
      far := some (peer, 2, fun x l => ((x.w64 l a).toNat, 8)) }
  | _ => none

/-- What the peer table gives an instruction: nothing to one that is not remote; else the message, where PEER lies in the table, the leader's read of the
entry succeeds and is not poisoned, the entry has the right, its port is the partition's, and a remote range that is not empty lies within its window
(12 R257, 17 R347). -/
def Iss.peerMay (x : Iss) (l : Nat) (f : EngForm) (m : Option Msg) : Prop :=
  match f.far with
  | none => m = none
  | some (peer, right, far) => peer < x.s.reg x.ctx 0x171 ∧ ∃ va e s1,
      segCheck .ep x.ks.ep entNeed (x.s.reg x.ctx 0x170 + 16 * peer) 16 = .ok va ∧
      x.s.readEntry { h := x.h, gen := x.hd.gen, ctx := x.ctx } l va
        { kind := 1, req := 0, acc := 0, fdie := x.r.die, item := (x.item l).item, who := x.s.whoOf x.r x.u.kern } = (.got e false, s1) ∧
      s1.peerOk x.ctx right e = true ∧ ((far x l).2 = 0 ∨ (far x l).1 + (far x l).2 ≤ e.w1 % 2 ^ 48) ∧ m = some (peerMsg x.ctx peer (far x l).1 e)

/-- One claim on each side of a copy within memory. -/
def Eng.oneCopy (g : Eng) (ks kd : EClaim) : Prop :=
  g.kind = .copy ks.at_ kd.at_ ks.len ∧ ks.at_.sp = .mem ∧ kd.at_.sp = .mem ∧ ks.dst = false ∧ kd.dst = true ∧ ks.len = kd.len ∧ g.held = [ks, kd]

/-- The engine part of an operation. -/
def State.engAt (s : State) (id : Nat) (o : Op) (g : Eng) : Prop := kFind id s.ops = some o ∧ o.kind = .engine g

end Sys2Proof.Machine

section
open Sys2Proof Sys2Proof.Machine

/-- CPY, CPY2, CPYW, GATH, SCAT, SRED, SCVT, RPUT, RGET and RSIG complete for a leader whose operands pass: one operation is in flight, with the leader's
ranges still to claim, of a GATH or SCAT its index list and how far its indices may reach, and its message where it has one; with nothing to do it is
only counted. No byte of memory changes, and no lane but by sealing and by a word drawn from the leader's generator (12 R244 to R257). That SRED MAX
draws no word, and that SCVT takes any F where neither side is narrow, are the model's reading (log 28). -/
def Obligations.EngineInstructionsComplete : Prop :=
  ∀ (i : Instr) (f : EngForm), engForm i = some f → ∀ (s : State) (l : Nat) (rest : List Nat) (w : EngWant) (m : Option Msg),
    s.clearAt f.g f.keys f.wins = true → s.eventClear f.g = true → s.pegRoom f.ps = true → (s.issuing f.g).ex = l :: rest →
    (∀ a ∈ f.ops, (s.issuing f.g).pois a.1 l a.2 = false) → f.ok (s.issuing f.g) l = true → f.want (s.issuing f.g) l = some w →
    (s.issuing f.g).peerMay l f m →
    ∃ t, exec i s = .next t ∧ t.nextOp = s.nextOp + 1 ∧ t.mem = s.mem ∧ Passed s t (s.issuing f.g) ∧
      (∀ j, t.lane s.cur.hr j = { s.lane s.cur.hr j with
        isSealed := (s.lane s.cur.hr j).isSealed || (f.seals && decide (j ∈ (s.issuing f.g).ex))
        rng := if j = l then w.rng.getD (s.lane s.cur.hr j).rng else (s.lane s.cur.hr j).rng }) ∧
      (if w.empty then t.ops = s.ops
       else ∃ o g, t.engAt s.nextOp o g ∧ (∀ k, k ≠ s.nextOp → kFind k t.ops = kFind k s.ops) ∧ o.h = s.cur.hr ∧ o.lanes.map LaneOp.lane = [l] ∧
         o.peg = pegOf (s.issuing f.g).u.pos.hw f.ps ∧ g.kind = w.kind ∧ g.todo = w.todo ∧ g.total = w.total ∧ g.held = [] ∧ g.issued = false ∧
         g.reached = w.reach.isNone ∧ (∀ n, w.reach = some n → g.room = n) ∧ g.leader = l ∧ g.msg.bind (fun k => kFind k t.msgs) = m)

/-- CLAIM_GRANT completes when no other claim conflicts and the run's slices have records free, or records that operations of a higher ticket give up: the
next chunk of the first range, up to the end of its page of 64 KiB, is claimed at the address it translates to, and the rest is still to claim; an
operation of a higher ticket that holds a conflicting claim, and is before its issue point, not parked and not stopped, gives its claims back; so does
one that holds records of a full slice. Where one conflicts, or a slice is full, the engine waits. A claim on the core's scratchpad or talon takes a
range whole. With its index list claimed, a GATH or SCAT whose indices reach no further than its segment has its other ranges to claim (04 R99 to
R102, 12 R253; that claims and records are given back, and what an operation with unread indices is taken to claim, are the model's reading, log 28).
ENGINE_ISSUE_POINT completes: a copy within memory, its ranges all claimed, puts the source's bytes into the destination and changes no other byte, at
one logical time that is later than every read of the lines it writes; and a remote signal sends its message, numbered in the order of its peer entry
(12 R246, R248, R257, 04 R99). ENGINE_LINE_RELEASE completes, unless its context is being saved and the engine stands at a unit at which it stops: the
engine gives up the first line of its first claim, at a multiple of 64 bytes; with the last line of the last claim, and no message out, the operation
has arrived for its peg (04 R100, 12 Table 12.7, 15 R318, R319). -/
def Obligations.EngineProgressComplete : Prop :=
  ((∀ (s : State) id o g (r : ERange) rs, s.engAt id o g → s.engMoves o g = true → g.issued = false → g.todo = r :: rs → r.len ≠ 0 →
    let n := minN r.len (65536 - r.at_.addr % 65536)
    (r.at_.sp = .mem → ∀ pa pol rp lo, s.xlate o.ctx (g.need r.dst (s.kernD o.ctx o.kern).lrec.pl) r.at_.addr = .hit pa pol rp lo →
      (s.claimConflict id o g .mem pa n r.dst = true ∨ s.sliceFull id g pa n = true → exec (.claimGrant id) s = .next s) ∧
      (s.claimConflict id o g .mem pa n r.dst = false → s.sliceFull id g pa n = false →
        ∃ t e, exec (.claimGrant id) s = .next t ∧ t.mem = s.mem ∧ t.engAt id { o with kind := .engine e } e ∧
          e = { g with todo := (if n = r.len then rs else { r with at_ := r.at_.plus n, len := r.len - n } :: rs)
                       held := addClaim g.held { at_ := r.at_, pa := pa, len := n, dst := r.dst, repl := rp } } ∧
          ∀ j q k, j ≠ id → s.engAt j q k →
            let gives : Prop := k.keeps = false ∧ k.meets .mem pa n r.dst = true ∨ j ∈ s.givers id g (s.fullSlices pa n)
            (gives → t.engAt j { q with kind := .engine k.giveBack } k.giveBack) ∧ (¬gives → t.engAt j q k))) ∧
    (r.at_.sp ≠ .mem → s.claimConflict id o g r.at_.sp r.at_.addr r.len r.dst = false →
      ∃ t, exec (.claimGrant id) s = .next t ∧ t.mem = s.mem ∧
        kFind id t.ops = some { o with kind := .engine { g with todo := rs, held := g.held ++ [{ at_ := r.at_, pa := r.at_.addr, len := r.len, dst := r.dst }] } })) ∧
  (∀ (s : State) id o g xs rs, s.engAt id o g → s.engMoves o g = true → g.issued = false → g.todo = [] → g.reached = false →
    s.reachOf o g = some (xs, rs) →
    ∃ t, exec (.claimGrant id) s = .next t ∧ { t with ops := s.ops } = s ∧
      kFind id t.ops = some { o with kind := .engine { g with todo := rs, idx := xs, reached := true } })) ∧
  ((∀ (s : State) id o g ks kd, s.engAt id o g → s.engMoves o g = true → g.issued = false → g.todo = [] → g.reached = true →
    s.teamReads o g = false → g.oneCopy ks kd → s.offChans = [] → (s.core o.h.cr).cbuf = [] → s.memPois ks.pa ks.len = false →
    ∃ t, exec (.engineIssuePoint id) s = .next t ∧ kFind id t.ops = some { o with kind := .engine { g with issued := true, pt := s.engTime o g } } ∧
      (∀ a, t.byte a = if kd.pa ≤ a ∧ a < kd.pa + kd.len then s.byte (ks.pa + (a - kd.pa)) else s.byte a) ∧
      (∀ a, kd.pa ≤ a → a < kd.pa + kd.len → (t.lineTs (lineOf a)).wts = s.engTime o g ∧ (s.lineTs (lineOf a)).rts < s.engTime o g)) ∧
  (∀ (s : State) id o g v k m, s.engAt id o g → s.engMoves o g = true → g.issued = false → g.todo = [] → g.reached = true → g.held = [] →
    s.teamReads o g = false → g.kind = .signal v → g.msg = some k → kFind k s.msgs = some m →
    ∃ t e, exec (.engineIssuePoint id) s = .next t ∧ t.mem = s.mem ∧ t.engAt id { o with kind := .engine e } e ∧ e.issued = true ∧
      e.msg = some s.nextMsg ∧ kFind s.nextMsg t.msgs = some { m with body := .sig v, op := id, segs := [(0, 1)]
                                                                      seq := kGet 0 m.entry (s.ctxD o.ctx).peerSeq })) ∧
  (∀ (s : State) id o g k ks, s.engAt id o g → g.written = true → g.stopped = false → g.held = k :: ks →
    (s.saving o.ctx && g.atUnit) = false →
    let here := if k.at_.sp = .mem then k.pa else k.at_.addr
    let n := 64 - here % 64
    ∃ t o' e, exec (.engineLineRelease id) s = .next t ∧ t.mem = s.mem ∧ t.engAt id o' e ∧
      e = { g with rel := g.rel + 1, held := if k.len ≤ n then ks else { k with at_ := k.at_.plus n, pa := k.pa + n, len := k.len - n } :: ks } ∧
      (k.len ≤ n → ks = [] → g.msg = none → (∀ x ∈ o.lanes, x.lane = g.leader ∧ x.due ≤ 1) → ∀ x ∈ o'.lanes, x.st = .arrived []))

/-- Answers from peers complete: PEER_ACK ends a put or signal; PEER_REFUSAL for a reason of 1 to 4, and LINK_LOSS after 8 transmissions of a segment, end
the operation without effect and count in CX.RFAIL; RGET_DATA_RETURN puts the peer's bytes into the local range; and SEGMENT_RETRANSMISSION counts a
transmission, up to 8 (12 Table 12.7, 17 R348, 24 R417). PEER_MESSAGE_APPLY completes: a message next in its order to a context that is not Open is
refused, for reason 3, and changes no memory; one that puts bytes within a page of a window that allows it, at a place that no engine claims, puts
them there and is answered as taken (12 R257, 17 R348, 24 R416, R417). -/
def Obligations.PeerEventsComplete : Prop :=
  ((∀ (s : State) k m o g, kFind k s.msgs = some m → s.engAt m.op o g → g.issued = true → g.msg = some k →
    (isGet m.body = false → ∃ t o', exec (.peerAck k) s = .next t ∧ t.mem = s.mem ∧ kFind k t.msgs = none ∧ t.engAt m.op o' { g with msg := none } ∧
      (g.held = [] → (∀ x ∈ o.lanes, x.lane = g.leader ∧ x.due ≤ 1) → ∀ x ∈ o'.lanes, x.st = .arrived [])) ∧
    ((s.ctx m.ctx).isSome = true → (∀ i, (i = .linkLoss k ∧ ∃ e ∈ m.segs, 8 ≤ e.2) ∨ (∃ r, i = .peerRefusal k r ∧ 1 ≤ r ∧ r ≤ 4) →
      ∃ t o' e, exec i s = .next t ∧ kFind k t.msgs = none ∧ t.engAt m.op o' e ∧ e.msg = none ∧ (isGet m.body = true → e.held = []) ∧
        t.reg m.ctx 0x19C = (s.reg m.ctx 0x19C + 1) % 2 ^ 64)) ∧
    (∀ j n, kFind j m.segs = some n → n < 8 →
      ∃ t, exec (.segmentRetransmission k j) s = .next t ∧ kFind k t.msgs = some { m with segs := kSet j (n + 1) m.segs } ∧ { t with msgs := s.msgs } = s) ∧
    (∀ kd data pois, g.kind = .get kd.at_ kd.len → kd.at_.sp = .mem → kd.dst = true → g.held = [kd] → data.length = kd.len → s.offChans = [] →
      ∃ t o', exec (.rgetDataReturn k data pois) s = .next t ∧ kFind k t.msgs = none ∧ t.engAt m.op o' { g with msg := none } ∧
        ∀ a, t.byte a = if kd.pa ≤ a ∧ a < kd.pa + kd.len then data.getD (a - kd.pa) 0 else s.byte a))) ∧
  (∀ (s : State) (m : PeerMsg), s.inbox = [] → m.seq = seqOf s.inSeq (msgKey m) →
    let told (st : Nat) : Reply := { port := m.port, sender := m.sender, seq := m.seq, st := st, data := [], pois := [] }
    ((∀ x, s.ctx m.ctx = some x → x.state ≠ 1) →
      ∃ t, exec (.peerMessageApply m) s = .next t ∧ t.mem = s.mem ∧ t.replies = s.replies ++ [told 3] ∧ t.inbox = []) ∧
    (∀ x e q d pz pa pol rp lo, s.ctx m.ctx = some x → x.state = 1 → bitN (kGet {} x.part s.parts).ports m.port = true → m.win < s.reg m.ctx 0x173 →
      s.winEntry m = .ok (e, q) → q.pois = false → bitN e.w0 63 = true → bitN e.w0 60 = true → m.op = .put d pz → d ≠ [] → m.off.toNat + d.length ≤ e.w1 % 2 ^ 48 →
      let va := e.w0 % 2 ^ 57 + m.off.toNat
      va % 65536 + d.length ≤ 65536 → q.s.xlate m.ctx { rd := false, wr := true, pl := 2 } va = .hit pa pol rp lo →
      (∀ l ∈ spanOf 64 pa d.length, s.claimBars .mem { die := 0, core := 0 } l true = false) → s.offChans = [] →
      ∃ t, exec (.peerMessageApply m) s = .next t ∧ t.replies = s.replies ++ [told 0] ∧ t.inbox = [] ∧
        ∀ a, t.byte a = if pa ≤ a ∧ a < pa + d.length then d.getD (a - pa) 0 else s.byte a))

end

namespace Sys2Proof.Machine

/-! ## The matrix array (13) -/

/-- The suit may use the array with a tile: its hand is Dealt to a hand-dealing kernel, and the block has the slot (13 R266). -/
def State.mayTile (s : State) (g : Grd) (tile : Nat) : Bool :=
  let x := s.issuing g
  decide (x.hd.st = .dealt) && x.kern.lrec.hdeal && decide (tile < x.kern.lrec.tiles ∧ tile < x.hd.tiles.length)

/-- The suit holds all 32 lanes of one table. -/
def State.wholeTable (s : State) : Bool :=
  let x := s.issuing Grd.always
  decide (x.act.length = 32) && x.act.all (fun l => decide ((x.item l).table = (x.item 0).table))

/-- The pot slot that a tile names. -/
def State.slotAt (s : State) (g : Grd) (tile : Nat) : Nat := (s.issuing g).hd.tiles.getD tile 0

/-- Every lane keeps what software sees of it. -/
def State.lanesKept (s t : State) (h : HandRef) : Prop :=
  ∀ l, (t.lane h l).regs = (s.lane h l).regs ∧ (t.lane h l).l0 = (s.lane h l).l0 ∧ (t.lane h l).l1 = (s.lane h l).l1 ∧
    (t.lane h l).preds = (s.lane h l).preds ∧ (t.lane h l).item = (s.lane h l).item ∧ (t.lane h l).st = (s.lane h l).st

/-- Nothing is counted on a peg, and no lane is sealed by it. -/
def State.uncounted (s t : State) (h : HandRef) : Prop :=
  (t.hand h).pegs = (s.hand h).pegs ∧ ∀ l, (t.lane h l).isSealed = (s.lane h l).isSealed

/-- Only one pot slot of a core has changed. -/
def State.otherSlots (s t : State) (c : CoreRef) (n : Nat) : Prop := ∀ m, m ≠ n → t.slot c m = s.slot c m

/-- The rows and tiles of an MMA or MMAG, and whether its group table is poisoned; none when the table cannot be read. -/
def Iss.tiles (x : Iss) (i : MmaI) : Option (List RowGrp × Bool) :=
  let b := x.val .w32 x.leader i.b
  if !i.mmag then some ([{ g := 0, first := 0, n := 32, off := b }], x.pois .w32 x.leader i.b)
  else match x.groupTable i with
    | .ok (ws, p) => some (tableGroups ws, p || (i.gsrc && x.pois .w32 x.leader i.b))
    | .error _ => none

/-- An image stands right at a talon offset: its bytes are there, and its header and groups are those of K columns of fmtB (12 R251,
13 R269). -/
def Iss.imageRight (x : Iss) (fb k o : Nat) : Bool :=
  let c := x.s.core x.h.cr
  decide (o % 16 = 0) && !x.s.tlBusy x.h.cr o 16 && !x.s.tlBusy x.h.cr o (c.tlWord (o + 4)) && decide (c.tlWord o % 65536 = k) &&
    decide (fld (c.tlWord o) 23 16 = nWidth fb) && (decide (c.tlWord (o + 8) ≠ 0) == decide (nScale fb ≠ 0)) &&
    decide (o + c.tlWord (o + 4) ≤ 524288) && (c.groupsEnd (nWidth fb) (o + c.tlWord (o + 4)) (k / 32 * 64) (o + 16)).isSome

/-- An MMA or MMAG passes every check of 13 R269 and R274. -/
def Iss.mmaRight (x : Iss) (i : MmaI) (gs : List RowGrp) : Bool :=
  let fa := x.fmt i.m.fa
  let fb := x.fmt i.m.fb
  nLegal fa && nLegal fb && decide (i.a + rowRegs fa i.k ≤ x.seat) && (decide (nScale fa = 0) == i.c.isNone) &&
    (match i.c with | some c => decide (c + scaleRegs fa i.k ≤ x.seat) | none => true) &&
    (!i.mmag || (!i.gsrc || decide (x.val .w32 x.leader i.b % 16 = 0)) && decide ((gs.map RowGrp.n).foldl (· + ·) 0 = 32)) &&
    gs.all (fun r => x.imageRight fb i.k r.off)

/-- A row of A in a lane, and a column of a tile. -/
def Iss.rowOf (x : Iss) (i : MmaI) (l : Nat) : List FV :=
  rowVals (x.fmt i.m.fa) i.k ((x.regs l i.a (rowRegs (x.fmt i.m.fa) i.k)).map Prod.fst)
    (match i.c with | some q => (x.regs l q (scaleRegs (x.fmt i.m.fa) i.k)).map Prod.fst | none => [])
def Iss.columnOf (x : Iss) (i : MmaI) (off j : Nat) : List FV := ((x.s.core x.h.cr).columns (x.fmt i.m.fb) i.k off).getD j []

/-- Every product of a member's rows and its tiles is in a slot, beside what was there: sums and flags (05 R129, 13 R270, R274). -/
def Iss.Multiplied (x : Iss) (i : MmaI) (gs : List RowGrp) (a b : Slot) : Prop :=
  ∀ r ∈ gs, ∀ d, d < r.n → ∀ j, j < 64 →
    let e := dotOf (x.rowOf i (r.first + d)) (x.columnOf i r.off j)
    let k := accKey (r.first + d) j
    kGet 0 k b.acc = kGet 0 k a.acc + BitVec.ofInt 192 e.sum ∧ (b.nan.contains k = (a.nan.contains k || e.nan)) ∧
      (b.pinf.contains k = (a.pinf.contains k || e.pinf)) ∧ (b.ninf.contains k = (a.ninf.contains k || e.ninf))

/-- Poison that the array reads: a register of A or its scales, the talon, or what names the tiles. -/
def Iss.mmaPoisoned (x : Iss) (i : MmaI) (gs : List RowGrp) (p : Bool) : Bool :=
  p || gs.any (fun r => (x.s.core x.h.cr).imagePois (x.fmt i.m.fb) i.k r.off) ||
    x.act.any (fun l => (mmaKeys (x.fmt i.m.fa) i.k i.a i.c).any (fun k => (x.reg l k).2))

/-- The fields of an MMA or MMAG. -/
def mmaForm : Instr → Option MmaI
  | .mma ps m a b c => some { mmag := false, ps := ps, gsrc := false, m := m, a := a, b := b, c := c }
  | .mmag ps gsrc m a b c => some { mmag := true, ps := ps, gsrc := gsrc, m := m, a := a, b := b, c := c }
  | _ => none

/-- Column j of a drained row, in FP32, BF16 or FP16, and its poison (13 R277). -/
def Iss.drainAt (x : Iss) (sl : Slot) (om : OFmt) (smode : Bool) (r : Rnd) (sat : Bool) (b : Src) (l j : Nat) : Nat × Bool :=
  let e := x.fp r 64 l
  let c := kGet scaleOne j sl.scale
  let g := if smode then FV.mul (e.arg f32 (x.w32 l b).toNat) (e.arg f32 c.1.toNat) else e.arg f32 (x.w32 l b).toNat
  (e.res (outFmt om) j (sat || e.satf) (sl.drain l j g), sl.pois || x.pois .w32 l b || (smode && c.2))

/-- Register k of a drained row (13 Table 13.6). -/
def Iss.drainWord (x : Iss) (sl : Slot) (om : OFmt) (smode : Bool) (r : Rnd) (sat : Bool) (b : Src) (l k : Nat) : W32 × Bool :=
  let v (j : Nat) : Nat × Bool := x.drainAt sl om smode r sat b l j
  if om = .f32 then (BitVec.ofNat 32 (v k).1, (v k).2)
  else (BitVec.ofNat 32 ((v (2 * k)).1 % 65536 + 65536 * ((v (2 * k + 1)).1 % 65536)), (v (2 * k)).2 || (v (2 * k + 1)).2)

/-- The store of a whole row by a lane of an MDST, before it is cut into pieces: a row that holds any poison is poisoned whole (13 R278). -/
def Iss.rowReq (x : Iss) (seg : Seg) (pol : Pol) (l va : Nat) (row : PBytes) : Req :=
  { op := x.s.nextOp, lane := l, h := x.h, gen := x.hd.gen, ctx := x.ctx, kern := (x.item l).kern, item := (x.item l).item, pa := 0, pol := pol, repl := 0
    acc := { kind := .store, sc := seg = .sc, addr := va, len := row.length, pol := pol, dst := [], data := row.map Prod.fst
             rowPois := (marks row).map (fun _ => pAny row), pl := x.pl } }

end Sys2Proof.Machine

section
open Sys2Proof Sys2Proof.Machine

/-- MZERO, MSCALE and MSTAT complete in a Dealt hand. MZERO clears the slot but for its column scales; MSCALE writes the scales of the executing lanes'
two columns with their poison; neither changes what a lane holds, is counted or seals. MSTAT compares the slot first when it checks, and its word
arrives in D of each executing lane (13 R273, R276, R279). -/
def Obligations.SlotInstructionsComplete : Prop :=
  (∀ (s : State) tile, s.clearAt Grd.always [] [] = true → s.mayTile Grd.always tile = true →
    let n := s.slotAt Grd.always tile
    ∃ t, exec (.mzero tile) s = .next t ∧ Passed s t (s.issuing Grd.always) ∧ t.mem = s.mem ∧ s.uncounted t s.cur.hr ∧
      (∀ l, t.lane s.cur.hr l = s.lane s.cur.hr l) ∧
      t.slot s.cur.hr.cr n = { scale := (s.slot s.cur.hr.cr n).scale } ∧ s.otherSlots t s.cur.hr.cr n) ∧
  (∀ (s : State) g tile a b, s.clearAt g (namesOf 0 .none [(1, a), (1, b)]) (windowsOf 0 .none [(1, a), (1, b)]) = true →
    s.mayTile g tile = true → (s.issuing g).ex ≠ [] →
    let n := s.slotAt g tile
    let x := s.issuing g
    ∃ t sc, exec (.mscale g tile a b) s = .next t ∧ Passed s t x ∧ t.mem = s.mem ∧ s.lanesKept t s.cur.hr ∧ s.uncounted t s.cur.hr ∧
      t.slot s.cur.hr.cr n = { s.slot s.cur.hr.cr n with scale := sc } ∧ s.otherSlots t s.cur.hr.cr n ∧
      ∀ l, l < 32 → kGet scaleOne l sc = (if l ∈ x.ex then (x.w32 l a, x.pois .w32 l a) else kGet scaleOne l (s.slot s.cur.hr.cr n).scale) ∧
        kGet scaleOne (32 + l) sc = (if l ∈ x.ex then (x.w32 l b, x.pois .w32 l b) else kGet scaleOne (32 + l) (s.slot s.cur.hr.cr n).scale)) ∧
  (∀ (s : State) g ps tile chk d, s.clearAt g (dstKeys 1 d) (dstWin 1 d) = true → s.pegRoom ps = true → s.mayTile g tile = true →
    (s.issuing g).ex ≠ [] →
    let n := s.slotAt g tile
    let sl := if chk then (s.slot s.cur.hr.cr n).compare else s.slot s.cur.hr.cr n
    ∃ t o, exec (.mstat g ps tile chk d) s = .next t ∧ Passed s t (s.issuing g) ∧ t.mem = s.mem ∧ s.lanesKept t s.cur.hr ∧
      t.slot s.cur.hr.cr n = sl ∧ s.otherSlots t s.cur.hr.cr n ∧ kFind s.nextOp t.ops = some o ∧
      o.lanes.map (fun e => (e.lane, e.st)) =
        (s.issuing g).ex.map (fun l => (l, .arrived ((dstKeys 1 d).map (fun k => (k, BitVec.ofNat 32 (sl.stat l), false))))))

/-- MMA and MMAG complete when every check of them passes: with TEAM 0 every product is in the slot, which is poisoned when a register or a talon sector
that the array reads is (that header, groups and scale bytes are what it reads is log 31, the model's reading), and the operation is over for its peg;
with TEAM 1 the suit waits in its slot for its team. The lanes are sealed and otherwise as they were (13 R268 to R270, R274, R275). TEAM_START
completes when every member that is still Dealt has arrived and they agree in their instruction, K, the format of B and what names the tiles, as each
read it at its issue: every member's suit goes on behind its instruction, and a team of one member has its products in its slot (13 R275). -/
def Obligations.MultiplicationsComplete : Prop :=
  (∀ (i : Instr) (f : MmaI), mmaForm i = some f → ∀ (s : State) gs p,
    let x := { s.issuing Grd.always with ex := (s.issuing Grd.always).act }
    let n := s.slotAt Grd.always f.m.tile
    s.clearAt Grd.always (mmaKeys (x.fmt f.m.fa) f.k f.a f.c ++ srcKeys 1 f.b) (srcWin 1 f.b) = true →
    (f.gsrc = true → s.settled Grd.always = true) → s.pegRoom f.ps = true → s.mayTile Grd.always f.m.tile = true → s.wholeTable = true →
    (f.m.team = true → 2 ≤ x.kern.lrec.team) → x.tiles f = some (gs, p) → x.mmaRight f gs = true →
    ∃ t o, exec i s = .next t ∧ t.mem = s.mem ∧ s.lanesKept t s.cur.hr ∧ s.otherSlots t s.cur.hr.cr n ∧ kFind s.nextOp t.ops = some o ∧
      o.lanes.map LaneOp.lane = x.act ∧ (∀ l ∈ x.act, (t.lane s.cur.hr l).isSealed = true) ∧
      (if f.m.team then
         t.slot s.cur.hr.cr n = s.slot s.cur.hr.cr n ∧ (∀ e ∈ o.lanes, e.st = .pending) ∧
         ∃ u w, (t.hand s.cur.hr).suit s.cur.suit = some u ∧ u.pos = x.u.pos ∧ u.stall = .team w ∧ w.i = f ∧ w.op = s.nextOp ∧ w.npc = s.npc ∧ w.groups = gs ∧ w.pois = p
       else
         x.Multiplied f gs (s.slot s.cur.hr.cr n) (t.slot s.cur.hr.cr n) ∧ (∀ e ∈ o.lanes, e.st = .arrived []) ∧
         (t.slot s.cur.hr.cr n).pois = ((s.slot s.cur.hr.cr n).pois || x.mmaPoisoned f gs p) ∧
         ((t.hand s.cur.hr).suit s.cur.suit) = some { x.u with pos := x.u.pos.after s.npc, stall := .ready, wait := 0 })) ∧
  (∀ (s : State) c ctx kern team, (∀ a ∈ s.teamReady c ctx kern team, (s.member a).isSome = true) →
    (∀ a ∈ s.teamReady c ctx kern team, ∀ b ∈ s.teamReady c ctx kern team, (s.member a).map (fun x => x.teamKey a.w) = (s.member b).map (fun x => x.teamKey b.w)) →
    ((s.teamReady c ctx kern team).map Arrived.r).Nodup → ((s.teamReady c ctx kern team).map (fun a => a.r.hr)).Nodup →
    ∃ t, exec (.teamStart c ctx kern team) s = .next t ∧ t.mem = s.mem ∧
      (∀ a ∈ s.teamReady c ctx kern team, ∀ u, (s.hand a.r.hr).suit a.r.suit = some u →
        (t.hand a.r.hr).suit a.r.suit = some { u with pos := u.pos.after a.w.npc, stall := .ready, wait := 0 } ∧
        (t.hand a.r.hr).teamN = (s.hand a.r.hr).teamN + 1) ∧
      (∀ a x, s.teamReady c ctx kern team = [a] → s.member a = some x → (a.w.groups.map RowGrp.first).Nodup →
        (∀ q ∈ a.w.groups, ∀ r ∈ a.w.groups, q.first < r.first → q.first + q.n ≤ r.first) →
        x.Multiplied a.w.i a.w.groups (s.slot x.h.cr (x.tile a.w.i.m.tile)) (t.slot x.h.cr (x.tile a.w.i.m.tile))))

/-- MDRAIN and MDST complete in a Dealt hand: the slot is compared, and each executing lane's row of it, each column times the scale and rounded once,
arrives in its registers, leased until then, or is stored, to memory as one store for each 16 bytes in ascending address, under a policy other than .c
each on its way (13 R277, R278, 05 R130). -/
def Obligations.DrainsComplete : Prop :=
  (∀ (s : State) g ps tile om smode fo r sat d b, om ≠ .nar → s.clearAt g (rngKeys d (drainRegs om 0) ++ srcKeys 1 b) (rngWin d (drainRegs om 0) ++ srcWin 1 b) = true →
    s.pegRoom ps = true → s.mayTile g tile = true → (s.issuing g).ex ≠ [] →
    let n := s.slotAt g tile
    let x := s.issuing g
    ∃ t o, exec (.mdrain g ps tile om smode fo r sat d b) s = .next t ∧ Passed s t x ∧ t.mem = s.mem ∧ s.lanesKept t s.cur.hr ∧
      t.slot s.cur.hr.cr n = (s.slot s.cur.hr.cr n).compare ∧ s.otherSlots t s.cur.hr.cr n ∧ kFind s.nextOp t.ops = some o ∧
      (∀ l ∈ x.ex, (t.lane s.cur.hr l).leases = (s.lane s.cur.hr l).leases ++ (rngKeys d (drainRegs om 0)).map (fun k => (k, s.nextOp))) ∧
      o.lanes.map (fun e => (e.lane, e.st)) = x.ex.map (fun l => (l, .arrived ((List.range (drainRegs om 0)).map (fun k =>
        let w := x.drainWord (s.slot s.cur.hr.cr n).compare om smode r sat b l k
        (d + k, w.1, w.2)))))) ∧
  (∀ (s : State) g ps tile smode fo r sat d b, let x := s.issuing g
    let m := drainRegs .nar (s.fmtNow fo)
    s.clearAt g (rngKeys d m ++ srcKeys 1 b) (rngWin d m ++ srcWin 1 b) = true →
    nLegal (s.fmtNow fo) = true → s.pegRoom ps = true → s.mayTile g tile = true → x.ex ≠ [] →
    let n := s.slotAt g tile
    ∃ t o, exec (.mdrain g ps tile .nar smode fo r sat d b) s = .next t ∧ Passed s t x ∧ s.lanesKept t s.cur.hr ∧
      t.slot s.cur.hr.cr n = (s.slot s.cur.hr.cr n).compare ∧ kFind s.nextOp t.ops = some o ∧
      o.lanes.map (fun e => (e.lane, e.st)) = x.ex.map (fun l => (l, .arrived (regWords 64 d
        (x.drainRow (s.slot s.cur.hr.cr n).compare .nar smode (s.fmtNow fo) r sat b l).1)))) ∧
  (∀ (s : State) g ps tile om smode seg pol r sat a b l va, s.clearAt g (namesOf 0 .none [(2, a), (1, b)]) (windowsOf 0 .none [(2, a), (1, b)]) = true →
    s.noneParked = true → s.pointsPassed = true → s.pegRoom ps = true → s.mayTile g tile = true → om ≠ .nar →
    let x := s.issuing g
    let n := s.slotAt g tile
    let row := x.drainRow (s.slot s.cur.hr.cr n).compare om smode 0 r sat b l
    x.ex = [l] → x.pois .w64 l a = false → (x.w64 l a).toNat % 16 = 0 → x.u.stall = .ready →
    segCheck seg (s.laneDesc s.cur.hr l x.u.kern seg) { rd := false, wr := true, pl := x.pl } (x.w64 l a).toNat row.1.length = .ok va →
    let ps16 := pieces16 va (row.1.map Prod.fst)
    let s0 := x.drained b [(l, row)] (s.compare s.cur.hr.cr n)
    ∀ xs, (seg = .sc ∨ (s0.rowXlate (x.rowReq seg pol l va row.1) ps16).1 = .ok xs) →
    ∃ t o, exec (.mdst g ps tile om smode seg pol r sat a b) s = .next t ∧ s.lanesKept t s.cur.hr ∧
      ((t.hand s.cur.hr).suit s.cur.suit).map (fun u => (u.pos, u.stall)) = some (x.u.pos.after s.npc, Stall.ready) ∧
      t.slot s.cur.hr.cr n = (s.slot s.cur.hr.cr n).compare ∧ kFind s.nextOp t.ops = some o ∧ o.lanes.map LaneOp.lane = [l] ∧
      row.1.length = (if om = .f32 then 256 else 128) ∧
      (seg ≠ .sc → (∀ q ∈ xs, q.2.1 ≠ Pol.core) → t.mem = s.mem ∧ ∀ j, j < row.1.length / 16 → ∃ q, kFind (s.nextReq + j) t.reqs = some q ∧
        q.op = s.nextOp ∧ q.lane = l ∧ (xs[j]?).map Prod.fst = some q.pa ∧ q.acc.kind = .store ∧ q.acc.data = ((row.1.map Prod.fst).drop (16 * j)).take 16))

end

namespace Sys2Proof.Machine

/-! ## Estates (03, 14) -/

/-- The device reaches a run of bytes of a context at a physical address: for reading and for writing, in a row, online and clean, and no engine operation
holds a line of it. -/
def State.devAt (s : State) (ctx va n pa : Nat) : Prop :=
  s.offChans = [] ∧ s.memPois pa n = false ∧ s.runBars pa n true = false ∧ va % 65536 + n ≤ 65536 ∧
  ∀ j, j < n → (∃ c rp lo, s.xlate ctx (devNeed false) (va + j) = .hit (pa + j) c rp lo) ∧ ∃ c rp lo, s.xlate ctx (devNeed true) (va + j) = .hit (pa + j) c rp lo

/-- Words of 32 bits in memory. -/
def State.words (s : State) (pa n : Nat) : List W32 := (List.range n).map (fun j => BitVec.ofNat 32 (ofBytes (s.bytesAt (pa + 4 * j) 4)))

/-- HBM holds some bytes at an address, and is otherwise as it was. -/
def State.stored (s t : State) (pa : Nat) (bs : List Byte) : Prop :=
  ∀ a, t.byte a = if pa ≤ a ∧ a < pa + bs.length then bs.getD (a - pa) 0 else s.byte a

/-- A claim whose item still stands in its lane, neither killed nor rewound. -/
def State.claimant (s : State) (c : ClaimReq) : Prop :=
  c.void = false ∧ s.sameGen c.h c.gen = true ∧ ∃ it, (s.lane c.h c.lane).item = some it ∧ it.item = c.item ∧ it.kern = c.kern

/-- A claim has resolved with a status and words: they are in its registers, whose lease is over, and other registers are as they were
(03 R60 to R62). -/
structure Claimed (s t : State) (c : ClaimReq) (st : Nat) (ws : Nat → W32 × Bool) : Prop where
  landed : ∀ j, j < c.n → rfVal (t.lane c.h c.lane).regs (c.dst + j) = (ws j).1 ∧ rfPois (t.lane c.h c.lane).regs (c.dst + j) = (ws j).2
  kept : ∀ k, k < c.dst ∨ c.dst + c.n ≤ k → rfVal (t.lane c.h c.lane).regs k = rfVal (s.lane c.h c.lane).regs k
  due : (t.lane c.h c.lane).claimsDue = (s.lane c.h c.lane).claimsDue - 1
  unleased : (t.lane c.h c.lane).leases = (s.lane c.h c.lane).leases.filter (fun e => some e.2 ≠ c.op)
  status : match c.j with | some j => kFind j (t.lane c.h c.lane).claims = some st | none => (t.lane c.h c.lane).late = some st

end Sys2Proof.Machine

section
open Sys2Proof Sys2Proof.Machine

/-- WILL, CLAIM and ESTAT complete. WILL keeps the identity and the range in each lane, whose item has willed; CLAIM sends a claim of one identity for
each executing lane and leases the registers it will write; ESTAT's word arrives in the lanes whose claims have all resolved, and waits in the others.
WILL and CLAIM seal (14 R287 to R289, 03 R54, R62). -/
def Obligations.EstateInstructionsComplete : Prop :=
  (∀ (s : State) a n b, let x := s.issuing Grd.always
    s.clearAt Grd.always (rngKeys a (n + 1) ++ srcKeys 2 b) (rngWin a (n + 1) ++ srcWin 2 b) = true → (∀ l ∈ x.act, x.pois .w64 l b = false) →
    x.kern.lrec.heirk ≠ 0xFFFF → (∀ l ∈ x.act, (x.item l).willed = false) →
    ∃ t, exec (.will a n b) s = .next t ∧ WithinHand s t s.cur.hr ∧ Passed s t x ∧
      ∀ l, t.lane s.cur.hr l = if l ∈ x.act then
        { s.lane s.cur.hr l with will := some { ident := (x.w64 l b).toNat % 2 ^ 48, range := { start := a, len := n + 1 } }, isSealed := true
                                 item := (s.lane s.cur.hr l).item.map (fun it => { it with willed := true }) }
        else s.lane s.cur.hr l) ∧
  (∀ (s : State) g ps d n a, let x := s.issuing g
    s.clearAt g (rngKeys d (n + 1) ++ srcKeys 2 a) (rngWin d (n + 1) ++ srcWin 2 a) = true → s.noneParked = true → s.pointsPassed = true →
    s.pegRoom ps = true → x.ex ≠ [] → (∀ l ∈ x.ex, x.pois .w64 l a = false) →
    ∃ t o, exec (.claim g ps d n a) s = .next t ∧ Passed s t x ∧ t.mem = s.mem ∧ kFind s.nextOp t.ops = some o ∧ o.lanes.map LaneOp.lane = x.ex ∧
      (∀ l, t.lane s.cur.hr l = if l ∈ x.ex then
        { s.lane s.cur.hr l with leases := (s.lane s.cur.hr l).leases ++ (rngKeys d (n + 1)).map (fun k => (k, s.nextOp)), isSealed := true
                                 claimsDue := (s.lane s.cur.hr l).claimsDue + 1 }
        else s.lane s.cur.hr l) ∧
      ∀ i, i < x.ex.length → ∃ c, kFind (s.nextClaim + i) t.claims = some c ∧ c.h = s.cur.hr ∧ c.lane = x.ex.getD i 0 ∧ c.dst = d ∧ c.n = n + 1 ∧
        c.ident = (x.w64 (x.ex.getD i 0) a).toNat % 2 ^ 48 ∧ c.j = none ∧ c.op = some s.nextOp ∧ c.outside = !x.kern.inDeck c.ident) ∧
  (∀ (s : State) g ps d, let x := s.issuing g
    s.clearAt g (dstKeys 1 d) (dstWin 1 d) = true → s.pegRoom ps = true → x.ex ≠ [] →
    ∃ t o, exec (.estat g ps d) s = .next t ∧ Passed s t x ∧ t.mem = s.mem ∧ kFind s.nextOp t.ops = some o ∧
      (∀ l, t.lane s.cur.hr l = if l ∈ x.ex then
        { s.lane s.cur.hr l with leases := (s.lane s.cur.hr l).leases ++ (dstKeys 1 d).map (fun k => (k, s.nextOp)) } else s.lane s.cur.hr l) ∧
      o.lanes.map (fun e => (e.lane, e.st)) = x.ex.map (fun l => (l, if (x.lane l).claimsDue = 0
        then .arrived ((dstKeys 1 d).map (fun k => (k, BitVec.ofNat 32 (x.lane l).estat, false))) else .pending)))

/-- CLAIM_RESOLVE completes for an item that still stands in its lane: an identity outside the deck is missing, status 12, and its registers are zero; one
whose record holds it in memory has the record's registers, as many as the claim asks for, zeros after them, with the status of Table 3.2, and the
record's STATE is 3 (03 R60 to R62). Evictions complete: AFFINITY_WINDOW_EXPIRY, more than 8,192 clocks after its seal, and PILE_EVICT_RETRY put a
pinned estate whose record names its lane, or a self-estate whose pile record is free, into that record with its header and registers, STATE 2; and
the lane is Idle (03 R67, R77). -/
def Obligations.ClaimsAndEvictionsComplete : Prop :=
  (∀ (s : State) id c, kFind id s.claims = some c → s.claimReady id c = true → s.claimant c →
    (c.outside = true → ∃ t, exec (.claimResolve id) s = .next t ∧ kFind id t.claims = none ∧ t.mem = s.mem ∧ Claimed s t c 12 (fun _ => (0, false))) ∧
    (∀ k pa, c.outside = false → s.kern c.ctx c.kern = some k → s.devAt c.ctx (k.recVa c.ident) 96 pa → s.mem64 pa / 2 ^ 62 = 2 →
      let len := minN 16 (fld (s.mem64 pa) 61 57)
      let at_ (j : Nat) : W32 × Bool := if j < len then ((s.words (pa + 32) 16).getD j 0, bitN (fld (s.mem64 (pa + 8)) 63 48) j) else (0, false)
      ∃ t, exec (.claimResolve id) s = .next t ∧ kFind id t.claims = none ∧
        Claimed s t c (8 + (if len = c.n then 1 else if len < c.n then 2 else 3)) at_ ∧
        s.stored t pa (bytesOf 8 (s.mem64 pa % 2 ^ 62 + 3 * 2 ^ 62)))) ∧
  (∀ (s : State) h l e pa, s.evictable h l = true → (s.lane h l).estate = some e →
    let w1 := e.w1 h l (s.hand h).tag
    let full := estateBytes (estW0 2 e.data.length e.ident) w1 e.item 0 (e.data.map Prod.fst)
    (∀ k, e.self = false → s.kern (s.hand h).ctx e.deck = some k → s.devAt (s.hand h).ctx (k.recVa e.ident) 96 pa →
      pinnedHere (s.mem64 pa) (s.mem64 (pa + 8)) e.ident h l (s.hand h).tag = true →
      ∃ t, exec (.affinityWindowExpiry h l) s = .next t ∧ (t.lane h l).st = .idle ∧ (t.lane h l).estate = none ∧ s.stored t pa full) ∧
    (e.self = true → s.devAt (s.hand h).ctx ((s.kernD (s.hand h).ctx e.kern).pileVa e.item) 96 pa →
      (s.mem64 pa / 2 ^ 62 = 0 ∨ s.mem64 pa / 2 ^ 62 = 3) →
      ∀ i, (i = .pileEvictRetry h l ∨ i = .affinityWindowExpiry h l) →
        ∃ t, exec i s = .next t ∧ (t.lane h l).st = .idle ∧ (t.lane h l).estate = none ∧ s.stored t pa full))

end

namespace Sys2Proof.Machine

/-! ## Work: launches, decks, completion (14, 15) -/

/-- A leader's range passes its check, and no engine operation has still to write it: the bytes of its scratchpad, or those of a run of online, clean memory
within a page of 64 KiB. -/
def State.sourceIs (s : State) (g : Grd) (seg : Seg) (l off n : Nat) (bs : List Byte) : Prop :=
  let x := s.issuing g
  (s.core s.cur.hr.cr).cbuf = [] ∧
  ∃ va, segCheck seg (s.laneDesc s.cur.hr l x.u.kern seg) { rd := true, wr := false, pl := x.pl } off n = .ok va ∧
    ((seg = .sc ∧ (∀ u ∈ spanOf 64 va n, s.claimBars .sc s.cur.hr.cr u false = false) ∧ bs = ((s.core s.cur.hr.cr).scRead va n).1) ∨
     (seg ≠ .sc ∧ va % 65536 + n ≤ 65536 ∧ s.offChans = [] ∧ ∃ pa c rp lo, s.xlate x.ctx { rd := true, wr := false, pl := x.pl } va = .hit pa c rp lo ∧
       s.memPois pa n = false ∧ (∀ u ∈ spanOf 64 pa n, s.claimBars .mem s.cur.hr.cr u false = false) ∧ bs = s.bytesAt pa n))

/-- The word of D has arrived in every executing lane, which leases D. -/
def State.wordArrived (s t : State) (x : Iss) (d : Dst) (v : Nat) : Prop :=
  ∃ o, kFind s.nextOp t.ops = some o ∧
    o.lanes.map (fun e => (e.lane, e.st)) = x.ex.map (fun l => (l, .arrived ((dstKeys 1 d).map (fun k => (k, BitVec.ofNat 32 v, false)))))

/-- A launch record is one that the device takes, and it makes kernel n (15 Table 15.3, R303). -/
def State.takes (s : State) (ctx : Nat) (bs : List Byte) (parent : Option Nat) (n : Nat) : Prop :=
  s.launchBad ctx (LaunchRec.parse bs) parent = [] ∧ s.launchPlace ctx (LaunchRec.parse bs) = some n

/-- DECKQ as its row gives it: guard, PSLOT, D, deck, and the word for a deck (14 Table 14.4). -/
def deckqForm : Instr → Option (Grd × Bool × Dst × Src × (State → Nat → Nat → Kernel → Nat))
  | .deckqPend g ps d a => some (g, ps, d, a, fun s c v k => minN (k.undrawn + s.woken c v) 0x7FFFFFFF)
  | .deckqClose g ps d a => some (g, ps, d, a, fun _ _ _ k => minN k.undrawn 0x7FFFFFFF)
  | .deckqState g ps d a => some (g, ps, d, a, fun s c v _ => match s.kernState c v with | .live => 0 | .drained => 1 | .exited => 2 | .complete => 3)
  | .deckqCancel g ps d a => some (g, ps, d, a, fun _ _ _ k => if k.cst = .complete then 0 else minN k.undrawn 0x7FFFFFFF)
  | _ => none

end Sys2Proof.Machine

section
open Sys2Proof Sys2Proof.Machine

/-- LAUNCH completes, its record in memory or in the scratchpad: a record that the device takes makes its kernel, whose number arrives in D; one that it
refuses gives the lowest reason of Table 15.3 in bits 23:16 with bit 31, and no kernel (14 R291, 15 R303). DEAL completes, its records in memory or in
the scratchpad: with a count of 0 the word in D is 0; one record dealt to a task deck that is open with room is in an entry of the deck's ring that
holds no undrawn task, which counts it, and 1 arrives in D; a deck that is full takes none and gives 0, and one that is missing, no task deck or
closed gives 0x80000001, 2 or 3 (14 R290, 15 R306; which free entry it takes is the model's choice, log 53). -/
def Obligations.LaunchAndDealComplete : Prop :=
  (∀ (s : State) g ps seg d a l rest bs, let x := s.issuing g
    s.clearAt g (namesOf 1 d [(2, a)]) (windowsOf 1 d [(2, a)]) = true → s.eventClear g = true → s.pegRoom ps = true → x.ex = l :: rest →
    x.pois .w64 l a = false → (x.w64 l a).toNat % 64 = 0 → s.sourceIs g seg l (x.w64 l a).toNat 512 bs →
    (∀ n, s.takes x.ctx bs (some x.pl) n →
      ∃ t k, exec (.launch g ps seg d a) s = .next t ∧ s.wordArrived t x d n ∧ t.mem = s.mem ∧ t.kern x.ctx n = some k ∧
        k.lrec = LaunchRec.parse bs) ∧
    (∀ code, leastBy id (s.launchBad x.ctx (LaunchRec.parse bs) (some x.pl)) = some code →
      ∃ t, exec (.launch g ps seg d a) s = .next t ∧ s.wordArrived t x d (2 ^ 31 + code * 65536 + 0xFFFF) ∧ t.mem = s.mem ∧
        ∀ n, (t.kern x.ctx n).map Kernel.lrec = (s.kern x.ctx n).map Kernel.lrec)) ∧
  (∀ (s : State) g ps seg d a b c l rest bs, let x := s.issuing g
    let v := (x.w32 l c).toNat
    let n := (x.w32 l b).toNat
    s.clearAt g (namesOf 1 d [(2, a), (1, b), (1, c)]) (windowsOf 1 d [(2, a), (1, b), (1, c)]) = true → s.eventClear g = true →
    s.pegRoom ps = true → x.ex = l :: rest → x.pois .w64 l a = false → x.pois .w32 l b = false → x.pois .w32 l c = false →
    (x.w64 l a).toNat % 64 = 0 → n ≤ 4096 → s.sourceIs g seg l (x.w64 l a).toNat (64 * n) bs →
    ((n = 0 → ∃ t, exec (.deal g ps seg d a b c) s = .next t ∧ s.wordArrived t x d 0 ∧ t.mem = s.mem) ∧
     (n ≠ 0 → ∀ r, s.dealBar x.ctx v = some r → ∃ t, exec (.deal g ps seg d a b c) s = .next t ∧ s.wordArrived t x d (2 ^ 31 + r) ∧ t.mem = s.mem) ∧
     (∀ k, n ≠ 0 → s.deck x.ctx v = some k → s.dealBar x.ctx v = none → k.ringFree = 0 →
       ∃ t, exec (.deal g ps seg d a b c) s = .next t ∧ s.wordArrived t x d 0 ∧ t.mem = s.mem) ∧
     (∀ k ring, n = 1 → s.deck x.ctx v = some k → s.dealBar x.ctx v = none → 0 < k.ringFree → s.devAt x.ctx (k.ringVa (k.ringPlace k.appended)) 64 ring →
       ∃ t, exec (.deal g ps seg d a b c) s = .next t ∧ s.wordArrived t x d 1 ∧ s.stored t ring bs ∧
         (t.kernD x.ctx v).appended = k.appended + 1 ∧ kFind k.appended (t.kernD x.ctx v).ring = some (k.ringPlace k.appended))))

/-- DECKQ completes: the word of Table 14.4, or 0x80000000 for a number that is no kernel or deck, arrives in D; DECKQ.close leaves a task deck that is
not Complete closed, and DECKQ.cancel a kernel that is not Complete cancelled, closed and with nothing left to draw (14 R292). CHKE completes: D has
s.psum in bit 0, in bit 1 whether an item of the kernel consumed poison on the core, in bit 2 whether a slot of the block is poisoned and in bit 3
EPOIS. CHKE.trap does the same where no executing lane has s.psum, and otherwise those lanes enter trap mode with the word in D of every executing
lane, kind 8 and in ARG0 the word of the lowest of them, and every other lane of the suit stands at the next instruction (14 R293, 22 Table 22.4). -/
def Obligations.QueriesComplete : Prop :=
  (∀ (i : Instr) g ps d a f, deckqForm i = some (g, ps, d, a, f) → ∀ (s : State) l rest, let x := s.issuing g
    let v := (x.w32 l a).toNat
    s.clearAt g (namesOf 1 d [(1, a)]) (windowsOf 1 d [(1, a)]) = true → s.eventClear g = true → s.pegRoom ps = true → x.ex = l :: rest →
    x.pois .w32 l a = false →
    (s.deck x.ctx v = none → ∃ t, exec i s = .next t ∧ s.wordArrived t x d (2 ^ 31) ∧ Passed s t x ∧ t.mem = s.mem) ∧
    (∀ k, s.deck x.ctx v = some k → ∃ t, exec i s = .next t ∧ s.wordArrived t x d (f s x.ctx v k) ∧
      ((∀ h p e q, i ≠ .deckqCancel h p e q) → (∀ h p e q, i ≠ .deckqClose h p e q) → t.ctxs = s.ctxs ∧ t.mem = s.mem) ∧
      ((∃ h p e q, i = .deckqClose h p e q) → k.lrec.task = true → k.cst ≠ .complete → (t.kernD x.ctx v).closed = true) ∧
      ((∃ h p e q, i = .deckqCancel h p e q) → k.cst ≠ .complete → k.cancelled = false →
        (t.kernD x.ctx v).cancelled = true ∧ (t.kernD x.ctx v).closed = true ∧ ∀ b ∈ (t.kernD x.ctx v).tables, b.2.left = []))) ∧
  ((∀ g d, Gives (.chke g d) g (dstKeys 1 d) (dstWin 1 d) (fun x l => gift32 d (
    BitVec.ofBool (x.lane l).psum |>.setWidth 32 |> (fun w => w
      ||| (BitVec.ofBool ((x.s.core x.h.cr).kpsum.contains (kernKey x.ctx x.u.kern))).setWidth 32 <<< 1
      ||| (BitVec.ofBool (x.hd.tiles.any (fun n => (x.s.slot x.h.cr n).pois))).setWidth 32 <<< 2
      ||| (BitVec.ofBool (x.lane l).epois).setWidth 32 <<< 3)) false)) ∧
  (∀ g d (s : State), s.clearAt g (dstKeys 1 d) (dstWin 1 d) = true →
    ((∀ l ∈ (s.issuing g).ex, (s.lane s.cur.hr l).psum = false) →
      Given s (.chkeTrap g d) g (fun x l => gift32 d (BitVec.ofNat 32 (x.chke l)) false)) ∧
    (∀ l rest, (s.issuing g).ex.filter (fun l => (s.lane s.cur.hr l).psum) = l :: rest → (s.issuing g).u.trap = none → s.trapReady s.cur = true →
      ∃ t m, exec (.chkeTrap g d) s = .next t ∧ m.ctxs = s.ctxs ∧ (m.hand s.cur.hr).ctx = (s.issuing g).ctx ∧ (m.hand s.cur.hr).suit s.cur.suit = some (s.issuing g).u ∧
        (∀ j ∈ (s.issuing g).ex, Received (s.lane s.cur.hr j) { m.lane s.cur.hr j with st := (s.lane s.cur.hr j).st, pos := (s.lane s.cur.hr j).pos }
          (gift32 d (BitVec.ofNat 32 ((s.issuing g).chke j)) false)) ∧
        EnteredTrap m t s.cur (s.issuing g).u 8 (l :: rest) ((s.issuing g).u.pos.after s.npc) ∧
        (∀ j ∈ (s.issuing g).ex, (t.lane s.cur.hr j).regs = (m.lane s.cur.hr j).regs) ∧
        (∀ j ∈ (s.issuing g).act, j ∉ l :: rest → t.standsAt s.cur.hr j = some ((s.issuing g).u.pos.after s.npc)) ∧
        ∀ pa, s.trapPlace (s.issuing g).ctx = some pa → t.mem64 pa / 2 ^ 56 = 8 ∧ t.mem64 (pa + 40) = (s.issuing g).chke l)))

/-- The launch queue completes: a write of CX.LQTAIL by a requester with nothing on its way sets it, unless it is below CX.LQHEAD, when it changes
nothing; and LAUNCH_QUEUE_ENTRY makes the kernel of a record that the device takes, writes its number in the entry's result word, and advances
CX.LQHEAD (15 R308, R309, 21 R371). -/
def Obligations.LaunchQueueComplete : Prop :=
  (∀ (s : State) r ctx (v : W64), (s.ctx ctx).isSome = true → (s.host r).live = [] → (s.host r).waiting = [] →
    (v.toNat < s.reg ctx 0x122 → exec (.launchRegisterWrite ⟨r, ctx⟩ v) s = .next s) ∧
    (s.reg ctx 0x122 ≤ v.toNat → ∃ t, exec (.launchRegisterWrite ⟨r, ctx⟩ v) s = .next t ∧ WithinCtx s t ctx ∧ t.reg ctx 0x123 = v.toNat ∧
      ∀ q, q ≠ 0x123 → t.reg ctx q = s.reg ctx q)) ∧
  (∀ (s : State) ctx pa rpa n, s.entryDue ctx = true →
    let m := s.reg ctx 0x122 % 2 ^ s.reg ctx 0x121
    s.devAt ctx (s.reg ctx 0x120 + 512 * m) 512 pa → s.devAt ctx (s.reg ctx 0x124 + 4 * m) 4 rpa → s.takes ctx (s.bytesAt pa 512) none n →
    ∃ t k, exec (.launchQueueEntry ctx) s = .next t ∧ t.kern ctx n = some k ∧ k.lrec = LaunchRec.parse (s.bytesAt pa 512) ∧
      s.stored t rpa (bytesOf 4 n) ∧ t.reg ctx 0x122 = (s.reg ctx 0x122 + 1) % 2 ^ 64)

/-- KERNEL_COMPLETE completes for a kernel that has Exited with nothing of it on its way and no estates of its own: it is Complete, no other kernel waits
for it, and its completion event word, where it has one that is mapped and whose line no engine operation holds, is one higher (15 R310, R311, 02
Table 2.7). -/
def Obligations.KernelCompletionComplete : Prop :=
  ∀ (s : State) ctx kn k, s.completes ctx kn = true → s.kern ctx kn = some k → k.cst ≠ .complete → k.finish = 0 → k.deckOnly = false →
    k.probate = none → (k.lrec.kf = 0 ∨ k.probated = true) → (∀ c ∈ s.cores, c.2.kpsum.contains (kernKey ctx kn) = false) →
    let done (t : State) : Prop := (∃ q, t.kern ctx kn = some q ∧ q.cst = .complete ∧ q.finish = 3) ∧
      (∀ j q, j ≠ kn → s.kern ctx j = some q → ∃ p, t.kern ctx j = some p ∧ p.preds = q.preds.filter (fun i => i ≠ kn)) ∧
      ∀ c ∈ t.cores, c.2.serves ≠ some (ctx, kn)
    (k.lrec.cev = 0 → ∃ t, exec (.kernelComplete ctx kn) s = .next t ∧ t.mem = s.mem ∧ done t) ∧
    (∀ va pa c rp lo, k.lrec.cev ≠ 0 → segCheck .gl k.gl { rd := true, wr := true, pl := 2 } k.lrec.cev 8 = .ok va → s.offChans = [] → pa % 8 = 0 →
      s.xlate ctx { rd := true, wr := true, pl := 2 } va = .hit pa c rp lo → s.runBars pa 8 true = false →
      ∃ t, exec (.kernelComplete ctx kn) s = .next t ∧ t.mem64 pa = (s.mem64 pa + 1) % 2 ^ 64 ∧ done t)

end

namespace Sys2Proof.Machine

/-! ## Privileged registers, keys and scrubs (14) -/

/-- The level that MOVP needs: 2 for another context's registers, the sharing registers and writes of the buckets, else 1 (14 R295). -/
def movpLevel (wr other : Bool) (prn : Nat) : Nat :=
  if other = true ∨ (0x140 ≤ prn ∧ prn ≤ 0x143) ∨ (wr = true ∧ (prn = 0x150 ∨ prn = 0x151)) then 2 else 1

/-- A context number is free or of the issuing context's partition (23 R404). -/
def State.ownPart (s : State) (g : Grd) (c : Nat) : Bool :=
  match s.ctx c with
  | some y => decide (y.part = (s.ctxD (s.issuing g).ctx).part)
  | none => true

/-- The executing lanes receive something and are sealed; the other lanes, memory and other hands are as they were. -/
structure SealedGift (s t : State) (x : Iss) (f : Nat → Gift) : Prop where
  lanes : ∀ l ∈ x.ex, Received (s.lane x.r.hr l) { t.lane x.r.hr l with isSealed := (s.lane x.r.hr l).isSealed } (f l) ∧ (t.lane x.r.hr l).isSealed = true
  others : ∀ l, l ∉ x.ex → t.lane x.r.hr l = s.lane x.r.hr l
  hand : OnlyHand s t x.r.hr
  suit : Passed s t x

/-- Registers that MOVP writes as a plain value (14 R296): what they take is rwTakes, and the page-table root is written only while the
context is Stopped. -/
def plainPrn (prn : Nat) : Bool := prn ≠ 0x181 && prn ≠ 0x125 && prn ≠ 0x002 && prn ≠ 0x192

/-- Bytes of a core's scratchpad, talon and pot that a unit of a scrub zeroes: 12 to 15 the scratchpad, 16 to 23 the talon, 29 the pot
(26 R435; the pot as a whole at its last unit is the model's choice, log 34). -/
def unitZero (c d : Core) (j : Nat) : Prop :=
  (∀ a, kGet 0 a d.scr = if 12 ≤ j ∧ j < 16 ∧ a / 65536 = j - 12 then 0 else kGet 0 a c.scr) ∧
  (∀ a, kGet 0 a d.tal = if 16 ≤ j ∧ j < 24 ∧ a / 65536 = j - 16 then 0 else kGet 0 a c.tal) ∧
  (d.pot = if j = 29 then [] else c.pot) ∧ d.hands = c.hands

end Sys2Proof.Machine

section
open Sys2Proof Sys2Proof.Machine

/-- MOVP completes at the level its register needs, on a context of its own partition. A read writes the register's value to D; a write of a register that
holds plain values stores what the register takes from B and changes no other register and no other context, and a value that it cannot hold changes
none. Executing lanes are sealed (14 R295, R296, 23 R404). -/
def Obligations.MovpComplete : Prop :=
  (∀ (s : State) g other c prn d, s.clearAt g (dstKeys 2 d) (dstWin 2 d) = true → s.eventClear g = true → s.mayAt (movpLevel false other prn) = true →
    (other = true → s.ownPart g c = true) →
    ∃ t, exec (.movpRead g other c prn d) s = .next t ∧ SealedGift s t (s.issuing g)
      (fun _ => gift64 d (BitVec.ofNat 64 (s.pregRead (if other then c else (s.issuing g).ctx) prn)) false)) ∧
  (∀ (s : State) g other c prn b l rest y, s.clearAt g (srcKeys 2 b) (srcWin 2 b) = true → s.eventClear g = true →
    s.mayAt (movpLevel true other prn) = true → (other = true → s.ownPart g c = true) → (s.issuing g).ex = l :: rest →
    (s.issuing g).pois .w64 l b = false → plainPrn prn = true → ((prn = 0x150 ∨ prn = 0x151) → other = true) →
    let n := if other then c else (s.issuing g).ctx
    s.ctx n = some y → (prn = 0x130 → y.state = 3) →
    ∃ t, exec (.movpWrite g other c prn b) s = .next t ∧ t.mem = s.mem ∧ Passed s t (s.issuing g) ∧ (∀ m, m ≠ n → t.ctx m = s.ctx m) ∧
      (∀ j, t.lane s.cur.hr j = { s.lane s.cur.hr j with isSealed := (s.lane s.cur.hr j).isSealed || decide (j ∈ (s.issuing g).ex) }) ∧
      (match rwTakes prn ((s.issuing g).w64 l b).toNat with
       | some v => t.reg n prn = v % 2 ^ 64 ∧ (∀ q, q ≠ prn → t.reg n q = s.reg n q) ∧ (t.ctx n).map (fun z => { z with regs := y.regs }) = some y
       | none => t.ctx n = s.ctx n))

/-- KEYZ completes: on a context that is free, not Stopped or unprotected the executing lanes receive 3, 1 or 2; otherwise its key slot is zeroised and
the suit waits for the channels, under the number that its KEYZ has of its own. While no offline channel holds the slot, KEYZ_DONE then gives 0 to its
lanes and empties every slot; past the deadline KEYZ_ACK_TIMEOUT gives 4, and takes the named channels offline, which halts the running contexts whose
save area has a line there; either way the suit goes on (14 R297, 22 R390). Which contexts a channel holds (log 37), and that 0 is given only while no
offline channel holds the slot and 4 after the deadline otherwise (log 34), are the model's reading. -/
def Obligations.KeyzComplete : Prop :=
  (∀ (s : State) g d a l rest, let x := s.issuing g
    let c := (x.w32 l a).toNat
    s.clearAt g (namesOf 1 d [(1, a)]) (windowsOf 1 d [(1, a)]) = true → s.eventClear g = true → s.mayAt 2 = true → x.ex = l :: rest →
    x.pois .w32 l a = false → s.ownPart g c = true →
    (∀ st, (st = 3 ∧ s.ctx c = none) ∨ (∃ y, s.ctx c = some y ∧ (st = 1 ∧ y.state ≠ 3 ∨ st = 2 ∧ y.state = 3 ∧ y.prot = false)) →
      ∃ t, exec (.keyz g d a) s = .next t ∧ SealedGift s t x (fun _ => gift32 d (BitVec.ofNat 32 st) false)) ∧
    (∀ y, s.ctx c = some y → y.state = 3 → y.prot = true →
      ∃ t z, exec (.keyz g d a) s = .next t ∧ t.nextOp = s.nextOp + 1 ∧ t.mem = s.mem ∧ t.ctx c = some z ∧ z.kstate = 2 ∧ { z with kstate := y.kstate, keyz := y.keyz } = y ∧
        z.keyz = y.keyz ++ [{ id := s.nextOp, h := s.cur.hr, suit := s.cur.suit, dst := d, lanes := x.ex, deadline := s.clk + 2048 }] ∧
        (t.hand s.cur.hr).suit s.cur.suit = some { x.u with stall := .keyz s.nextOp, wait := 0 })) ∧
  (∀ (s : State) c k ks u, (s.ctxD c).keyz = k :: ks → (s.hand k.h).suit k.suit = some u → u.stall = .keyz k.id → k.lanes.Nodup →
    let ended (t : State) (st : Nat) : Prop := (t.ctxD c).keyz = ks ∧
      (t.hand k.h).suit k.suit = some { u with pos := u.pos.after (u.pos.pc + 12), stall := .ready, wait := 0 } ∧
      ∀ l, (l ∈ k.lanes ∧ (s.lane k.h l).st = .active k.suit → Received (s.lane k.h l) (t.lane k.h l) (gift32 k.dst (BitVec.ofNat 32 st) false)) ∧
        (¬(l ∈ k.lanes ∧ (s.lane k.h l).st = .active k.suit) → t.lane k.h l = s.lane k.h l)
    let held : Prop := ∃ e ∈ (s.ctxD c).slots, s.offChans.contains e.1 = true
    (¬held → ∃ t, exec (.keyzDone c) s = .next t ∧ ended t 0 ∧ t.mem = s.mem ∧ t.offChans = s.offChans ∧ (t.ctxD c).slots = []) ∧
    (held → k.deadline < s.clk → ∃ t, exec (.keyzAckTimeout c []) s = .next t ∧ ended t 4 ∧ t.mem = s.mem ∧ t.offChans = s.offChans) ∧
    (∀ ch, k.deadline < s.clk → ch < 256 → s.dies.contains (ch / 64) = true → s.offChans.contains ch = false → s.badChans.contains ch = false →
      ∃ t, exec (.keyzAckTimeout c [ch]) s = .next t ∧ ended t 4 ∧ (∀ j, t.offChans.contains j = (decide (j = ch) || s.offChans.contains j)) ∧
        (∀ e ∈ (t.ctxD c).slots, t.offChans.contains e.1 = true) ∧ ((∀ m, s.savedOn m ch = false) → t.mem = s.mem) ∧
        ∀ m y, s.ctx m = some y → y.state = 1 → s.savedOn m ch = true → ∃ z, t.ctx m = some z ∧ z.state = 2))

/-- SCRUB completes: on a context that is free, not Stopped, or protected with a key the word 3, 1 or 2 arrives in D; otherwise the scrub is under way and
D waits. SCRUB_UNIT zeroes the next unit of a core on which no hand is formed, or the lowest frame that is marked for the context then, whose mark it
clears, counting it; with the last core unit and no frame marked the context is scrubbed and D receives 0 (14 R298, 26 R435). That the registers and
the pot are zeroed with their last unit is the model's choice (log 34). -/
def Obligations.ScrubComplete : Prop :=
  (∀ (s : State) g ps d a l rest, let x := s.issuing g
    let c := (x.w32 l a).toNat
    s.clearAt g (namesOf 1 d [(1, a)]) (windowsOf 1 d [(1, a)]) = true → s.eventClear g = true → s.pegRoom ps = true → s.mayAt 2 = true →
    x.ex = l :: rest → x.pois .w32 l a = false → s.ownPart g c = true →
    (∀ st, (st = 3 ∧ s.ctx c = none) ∨ (∃ y, s.ctx c = some y ∧ (st = 1 ∧ y.state ≠ 3 ∨ st = 2 ∧ y.state = 3 ∧ y.prot = true ∧ y.kstate ≠ 2)) →
      ∃ t, exec (.scrub g ps d a) s = .next t ∧ Passed s t x ∧ t.ctxs = s.ctxs ∧ t.mem = s.mem ∧ s.wordArrived t x d st) ∧
    (∀ y, s.ctx c = some y → y.state = 3 → (y.prot = true → y.kstate = 2) → y.scrub = none →
      ∃ t o z b, exec (.scrub g ps d a) s = .next t ∧ Passed s t x ∧ t.mem = s.mem ∧ kFind s.nextOp t.ops = some o ∧
        o.lanes.map (fun e => (e.lane, e.st)) = x.ex.map (fun j => (j, LaneOpSt.pending)) ∧ t.ctx c = some z ∧ z.scrubP = 0 ∧ z.scrub = some b ∧
        b.ops = [s.nextOp] ∧ b.skipped = [] ∧ ∀ r j, (r, j) ∈ b.cores ↔ j = 0 ∧ s.dies.contains r.die = true ∧ r ∈ y.coreRefs)) ∧
  (∀ (s : State) c y b r j rest, s.ctx c = some y → y.scrub = some b → b.cores = (r, j) :: rest → j < 29 →
    (∀ h ∈ (s.core r).hands, h.2.st = .unformed) →
    ∃ t z, exec (.scrubUnit c) s = .next t ∧ t.mem = s.mem ∧ unitZero (s.core r) (t.core r) j ∧ t.ctx c = some z ∧ z.scrubP = y.scrubP + 1 ∧
      z.scrub = some { b with cores := (r, j + 1) :: rest }) ∧
  (∀ (s : State) c y b f e, s.ctx c = some y → y.scrub = some b → b.cores = [] → kSorted s.frames = true →
    s.frames.filter (fun q => q.2.req = some c) = [(f, e)] → s.offChans = [] → b.skipped = [] → s.runBars (65536 * f) 65536 true = false →
    ∃ t z, exec (.scrubUnit c) s = .next t ∧ (∀ a, t.byte a = if a / 65536 = f then 0 else s.byte a) ∧ (t.frame f).req = none ∧ t.ctx c = some z ∧
      z.scrub = none ∧ z.scrubOk = true ∧ z.scrubP = y.scrubP + 1 ∧
      ∀ op o c2 dst, b.ops = [op] → kFind op s.ops = some o → o.kind = .scrub c2 dst → ∃ q, kFind op t.ops = some q ∧
        q.lanes.map (fun e => (e.lane, e.st)) = o.lanes.map (fun e => (e.lane, .arrived (match dst with | some k => [(k, 0, false)] | none => []))))

end

namespace Sys2Proof.Machine

/-! ## Slots, hands and windows (02, 15, 16) -/

/-- A lane as it was but for its state, and the time from which it has waited as a Held-ready lane. -/
def State.restKept (s t : State) (h : HandRef) (l : Nat) : Prop :=
  { t.lane h l with st := (s.lane h l).st, heldSince := (s.lane h l).heldSince } = s.lane h l

/-- A block deal of the simplest kernel: index items, no estates, no team, no residency cap, no barriers (02 R48). -/
def Kernel.plainBlocks (k : Kernel) : Bool :=
  !k.lrec.task && decide (k.lrec.kf = 0 ∧ k.lrec.team = 1 ∧ k.lrec.cap = 0) && !k.lrec.barTables

/-- The largest request count of a list of dies, and the lowest die that has it. -/
def Share.topDie (e : Share) (ds : List Nat) (d : Nat) : Prop :=
  d ∈ ds ∧ ∀ j ∈ ds, kGet 0 j e.rr ≤ kGet 0 d e.rr ∧ (kGet 0 j e.rr = kGet 0 d e.rr → d ≤ j)

end Sys2Proof.Machine

section
open Sys2Proof Sys2Proof.Machine

/-- Fills of a Free slot complete: HELD_REFORM takes the group of source 1 into it, CONTINUATION_SEAT a woken continuation whose self-estate is pinned in
the hand, its registers back in place, and ENTRY_DRAW a suit of what it drew, each in the one fill of its clock. When lanes have waited 8,192 clocks
and no slot is Free, ROTATION leaves the lanes of the suit that has held its slot longest Held-ready at its clause, and the slot Free; where that suit
waits at a MELD, its window ends instead (02 R34, R41, R44, 03 R79, 07 R180). -/
def Obligations.SlotFillsComplete : Prop :=
  (∀ (s : State) h kern pos lanes n, s.fillable h = true → (s.hand h).group = some (kern, pos, lanes) → (s.hand h).freeSlot = some n →
    ∃ t, exec (.heldReform h) s = .next t ∧ WithinHand s t h ∧ (∀ l, (t.lane h l).st = if l ∈ lanes then LaneSt.active n else (s.lane h l).st) ∧
      (∀ l, s.restKept t h l) ∧ ((t.hand h).suit n).map (fun u => (u.kern, u.pos, u.stall)) = some (kern, pos, Stall.filled) ∧ (t.hand h).filled = true ∧
      ∀ m, m ≠ n → (t.hand h).suit m = (s.hand h).suit m) ∧
  (∀ (s : State) h c l n e, s.fillable h = true → (s.hand h).group = none → s.contCand h = some (c, l) → s.contLane h c = some l →
    (s.hand h).freeSlot = some n → (s.lane h l).estate = some e →
    ∃ t, exec (.continuationSeat h) s = .next t ∧ (t.lane h l).st = .active n ∧ (t.lane h l).pos = Pos.at_ c.pc ∧ (t.lane h l).estate = none ∧
      (∃ it, (t.lane h l).item = some it ∧ it.kern = c.kern ∧ it.item = c.item ∧ it.cont = true ∧ it.age = ((s.hand h).seq + 1) % 2 ^ 32) ∧
      (∀ j, j < e.data.length → rfVal (t.lane h l).regs (c.start + j) = (e.data.getD j (0, false)).1) ∧ c ∉ (t.core h.cr).contq ∧ t.mem = s.mem ∧ (t.hand h).filled = true ∧
      ((t.hand h).suit n).map (fun u => (u.kern, u.pos)) = some (c.kern, Pos.at_ c.pc)) ∧
  (∀ (s : State) h kn n, s.fillable h = true → (s.hand h).st = .opened → (s.hand h).group = none → s.contCand h = none →
    s.waiting (s.hand h).ctx (.draw h) = false → s.entryKern h = some kn → (s.hand h).freeSlot = some n → (s.draw h kn).got ≠ [] →
    ∃ t l, exec (.entryDraw h) s = .next t ∧ l ∈ (s.draw h kn).got.map Prod.fst ∧ (t.lane h l).st = .active n ∧ (t.hand h).filled = true ∧
      ∃ u, (t.hand h).suit n = some u ∧ u.kern = kn ∧ u.pos = ((s.draw h kn).s.lane h l).pos) ∧
  (∀ (s : State) h n u, (s.hand h).waited s.clk ≠ [] → (s.hand h).filled = false → (s.hand h).freeSlot = none → s.runs (s.hand h).ctx = true →
    (s.hand h).rotating = some n → (s.hand h).suit n = some u →
    ((∀ w, u.stall ≠ .meld w) → u.pos.pc = u.pos.hdr → ∃ t, exec (.rotation h) s = .next t ∧ WithinHand s t h ∧ (t.hand h).suit n = none ∧
      ∀ l, t.lane h l = if l ∈ (s.hand h).active n then { s.lane h l with st := .heldReady, pos := Pos.at_ u.pos.hdr } else s.lane h l) ∧
    (∀ w, u.stall = .meld w → ∃ t, exec (.rotation h) s = .next t ∧ WithinHand s t h ∧ (∀ l, t.lane h l = s.lane h l) ∧
      (t.hand h).suit n = some { u with pos := u.pos.after (u.pos.pc + 12), stall := .ready, wait := 0 } ∧
      ∀ m, m ≠ n → (t.hand h).suit m = (s.hand h).suit m))

/-- Hands and tables complete: HAND_FORM forms the next hand for the kernel that needs it first, its lanes Idle; BLOCK_DEAL seats the items of a block in
a hand that is then Dealt with its pot slots; BARRIER_TABLE_GRANT grants a table whose lanes it has reserved; DEALT_RETURN opens a hand whose lanes
are all Idle and whose matrix operations have finished, and clears its slots; HAND_RELEASE leaves a hand Unformed with the next tag (02 R37, R38, R48
to R51, 13 R262, 15 R302, 19 R363). -/
def Obligations.HandsComplete : Prop :=
  (∀ (s : State) c ctx kn n, s.nextHand c = some n → s.needer c = some (ctx, kn) → s.seatSum c + (s.kernD ctx kn).lrec.seat ≤ 6144 →
    s.coreSum c n (s.kernD ctx kn).lrec.energy ≤ 96 →
    ∃ t, exec (.handForm c ctx kn) s = .next t ∧ t.mem = s.mem ∧ (t.hand (c.hr n)).st = .opened ∧ (t.hand (c.hr n)).ctx = ctx ∧
      (t.hand (c.hr n)).seat = (s.kernD ctx kn).lrec.seat ∧ (t.hand (c.hr n)).gen = (s.hand (c.hr n)).gen ∧ (t.hand (c.hr n)).suits = [] ∧
      (t.hand (c.hr n)).pegs = [] ∧ (∀ l, (t.lane (c.hr n) l).st = .idle ∧ (t.lane (c.hr n) l).item = none) ∧
      ∀ m, m ≠ n → kGet {} m (t.core c).hands = kGet {} m (s.core c).hands) ∧
  (∀ (s s1 : State) c ctx kn k tb items h rest, s.runs ctx = true → s.bound ctx kn c = true → s.mayUse ctx c = true → s.kernReady ctx kn = true → s.kern ctx kn = some k →
    k.lrec.hdeal = true → k.plainBlocks = true → s.nextBlocks c ctx kn = some (s1, tb, items) → items ≠ [] → (items.map (fun i => i % 32)).Nodup →
    s1.blockHands c ctx kn tb = h :: rest → (s1.hand h).ctx = ctx → s1.admits h kn = true → k.lrec.tiles ≤ (s1.core c).freeSlots.length →
    ∃ t, exec (.blockDeal c ctx kn) s = .next t ∧ (t.hand h).st = .dealt ∧ (t.hand h).block = some (kn, (tb * k.lrec.fan1 + items.headD 0) / 32) ∧
      (t.hand h).tiles.length = k.lrec.tiles ∧ (∀ n ∈ (t.hand h).tiles, t.slot c n = {}) ∧
      ((t.hand h).suit 0).map (fun u => (u.kern, u.pos)) = some (kn, Pos.at_ k.lrec.entry) ∧
      ∀ i ∈ items, (t.lane h (i % 32)).st = .active 0 ∧ ∃ it, (t.lane h (i % 32)).item = some it ∧ it.kern = kn ∧ it.table = tb ∧ it.tix = i ∧
        it.item = tb * k.lrec.fan1 + i) ∧
  (∀ (s s1 s2 : State) c ctx kn tb, let k := s.kernD ctx kn
    s.runs ctx = true → s.bound ctx kn c = true → s.mayUse ctx c = true → s.kernReady ctx kn = true → k.lrec.barTables = true → k.leftOn c true = [] →
    s.nextUnit ctx kn = some [tb] → (k.lrec.cap = 0 ∨ s.resident c ctx kn + s.reservedN c ctx kn + k.tableItems tb ≤ k.lrec.cap) →
    s.reserve kn tb (k.tableItems tb) (s.idleFor c ctx kn) = some s1 → s1.grant ctx kn tb c = some s2 →
    ∃ t b, exec (.barrierTableGrant c ctx kn) s = .next t ∧ t.mem = s.mem ∧ kFind tb (t.kernD ctx kn).tables = some b ∧ b.core = c ∧ b.barrier = true ∧
      b.left = List.range (k.tableItems tb) ∧
      ∀ h l, t.lane h l = s.lane h l ∨ t.lane h l = { s.lane h l with st := .reserved kn tb }) ∧
  (∀ (s : State) h, (s.hand h).st = .dealt → (∀ l, l < 32 → (s.lane h l).st = .idle) → s.matrixBusy h = false →
    ∃ t, exec (.dealtReturn h) s = .next t ∧ (t.hand h).st = .opened ∧ (t.hand h).tiles = [] ∧ (t.hand h).block = none ∧
      (∀ l, t.lane h l = s.lane h l) ∧ ∀ n, t.slot h.cr n = if n ∈ (s.hand h).tiles then {} else s.slot h.cr n) ∧
  (∀ (s : State) h, s.runs (s.hand h).ctx = true → s.mayRelease h = true →
    ∃ t, exec (.handRelease h) s = .next t ∧ t.hand h = { gen := ((s.hand h).gen + 1) % 256 } ∧ t.mem = s.mem ∧ t.ctxs = s.ctxs ∧
      (∀ c, coreKey c ≠ coreKey h.cr → t.core c = s.core c) ∧
      (∀ n, n ≠ h.hand → kGet {} n (t.core h.cr).hands = kGet {} n (s.core h.cr).hands) ∧ (t.core h.cr).scr = (s.core h.cr).scr ∧
      (t.core h.cr).tal = (s.core h.cr).tal ∧ (t.core h.cr).pot = (s.core h.cr).pot)

/-- The periods complete: a die's dealer gives cores of it to stage decks that want one and may use it, and to the only one, which has none, the lowest
core that serves none; at the end of a sampling window the counts are cleared, and a region read-mostly enough takes the die with the most requests
above the threshold into its replica set; and at a bandwidth window every bucket gains its rate up to its depth (15 R316, 16 R331, R335, R336). -/
def Obligations.PeriodsComplete : Prop :=
  (∀ (s : State) die, s.dies.contains die = true → kGet 0 die s.dealerAt < s.clk / 4096 →
    ∃ t, exec (.dealerPeriod die) s = .next t ∧ kGet 0 die t.dealerAt = s.clk / 4096 ∧ t.mem = s.mem ∧ t.ctxs = s.ctxs ∧
      (∀ c, c.core < 64 → { t.core c with serves := (s.core c).serves } = s.core c ∧ ((t.core c).serves = (s.core c).serves ∨
        ∃ d ∈ s.stages die, (t.core c).serves = some (d.ctx, d.kern) ∧ c.die = die ∧ s.mayUse d.ctx c = true ∧
          (s.serving die d = [] ∨ 64 * (s.kernD d.ctx d.kern).lrec.sthi ≤ s.stageLoad d))) ∧
      ∀ d c, s.stages die = [d] → s.serving die d = [] → (coresOf die).find? (fun x => (s.serves x).isNone && s.mayUse d.ctx x) = some c →
        (t.core c).serves = some (d.ctx, d.kern) ∧ ∀ x, x.core < 64 → x ≠ c → t.core x = s.core x) ∧
  (∀ (s : State), s.sampleAt < s.clk / 65536 →
    ∃ t, exec .samplingWindowEnd s = .next t ∧ { t with share := s.share, sampleAt := s.sampleAt } = s ∧
      ∀ key e, kFind key s.share = some e → ∃ n, kFind key t.share = some n ∧ n.rr = [] ∧ n.w = 0 ∧ n.bar = false ∧ n.max = [] ∧
        let r := kGet 0 0 e.rr + kGet 0 1 e.rr + kGet 0 2 e.rr + kGet 0 3 e.rr
        let thr (d : Nat) : Nat := if e.max.contains d then 0 else (s.partOf (key / 4 * 2 ^ 21)).rthr
        let cand := s.dies.filter (fun d => decide (d ≠ key % 4) && !e.rset.contains d && decide (thr d < kGet 0 d e.rr))
        ((e.bar = true ∨ e.wclk = some s.clk ∨ ¬ 64 * e.w < e.w + r ∨ cand = []) → n.rset = e.rset ∧ n.g = e.g) ∧
        (∀ d, e.bar = false → e.wclk ≠ some s.clk → 64 * e.w < e.w + r → s.dies.Pairwise (· < ·) → (∀ j, kGet 0 j e.rr ≤ 0xFFFF) → e.topDie cand d →
          n.rset = (if e.max = [] then insN d e.rset else s.dies.filter (fun x => decide (x ≠ key % 4))) ∧ n.g = 1 + n.rset.length)) ∧
  (∀ (s : State), s.bandAt < s.clk / 2048 → s.dies.Nodup →
    ∃ t, exec .bandwidthWindow s = .next t ∧ t.bandAt = s.clk / 2048 ∧ t.mem = s.mem ∧ t.cores = s.cores ∧
      ∀ c x, s.ctx c = some x → ∃ y, t.ctx c = some y ∧ y.hbmq = x.reg 0x150 ∧ y.l2q = x.reg 0x151 ∧
        { y with hbmq := x.hbmq, l2q := x.l2q, tokH := x.tokH, tokP := x.tokP } = x ∧
        (bitN (x.reg 0x150).toNat 31 = true → ∀ d ∈ s.dies, ∀ j, j < 64 →
          kGet 0 (64 * d + j) y.tokH = minN (kGet 0 (64 * d + j) x.tokH + fld (x.reg 0x150).toNat 11 0) (fld (x.reg 0x150).toNat 28 16)) ∧
        (bitN (x.reg 0x151).toNat 31 = true → ∀ d ∈ s.dies, ∀ j, j < 32 →
          kGet 0 (32 * d + j) y.tokP = minN (kGet 0 (32 * d + j) x.tokP + fld (x.reg 0x151).toNat 11 0) (fld (x.reg 0x151).toNat 28 16)))

/-- Pre-emption completes: SAVE and RESTORE written to CX.PCTL change CX.PSTAT of an Open context alone; SAVE_COMPLETE leaves every hand of the context
Unformed with the next tag, saved; and RESTORE_PROCEED puts a saved hand back under its number once its core is free; either ends in Lost, the context
halting, when the save area cannot be written or read (15 R318 to R321, 24 R427). That the hands of a saved context read Unformed, where R318 calls
them Swapped, and that an offline channel of the save area ends the save, are the model's reading (log 32). -/
def Obligations.PreemptionComplete : Prop :=
  (∀ (s : State) c x, s.ctx c = some x → x.state = 1 →
    (x.pstat = .running → ∃ t, exec (.pctlSave c) s = .next t ∧ WithinCtx s t c ∧ t.ctx c = some { x with pstat := .saving }) ∧
    (x.pstat = .saved → ∃ t, exec (.pctlRestore c) s = .next t ∧ WithinCtx s t c ∧ t.ctx c = some { x with pstat := .restoring })) ∧
  (∀ (s : State) c x, s.ctx c = some x → x.state = 1 → x.pstat = .saving → x.estateWaits = false → s.saveReady c = true → s.toPublish c = [] →
    (∀ h ∈ s.handsOf c, ∀ l, s.mayEvict h l = false) → (s.handsOf c).Nodup →
    (s.offIn (s.saveArea c).1 (s.saveArea c).2 = none → ∃ t y, exec (.saveComplete c) s = .next t ∧ t.ctx c = some y ∧ y.pstat = .saved ∧
      ∀ h ∈ s.handsOf c, t.hand h = { gen := ((s.hand h).gen + 1) % 256 }) ∧
    (∀ loc, s.offIn (s.saveArea c).1 (s.saveArea c).2 = some loc → ∃ t y, exec (.saveComplete c) s = .next t ∧ t.ctx c = some y ∧ y.pstat = .lost ∧
      y.state = 2 ∧ y.saves = [])) ∧
  (∀ (s : State) c x, s.ctx c = some x → x.state = 1 → x.pstat = .restoring → x.saves.all (s.coreFree c) = true →
    (∀ loc, s.areaBad (s.saveArea c).1 (s.saveArea c).2 = some loc → ∃ t y, exec (.restoreProceed c) s = .next t ∧ t.ctx c = some y ∧ y.pstat = .lost ∧
      y.state = 2 ∧ y.saves = []) ∧
    (s.areaBad (s.saveArea c).1 (s.saveArea c).2 = none → ∃ t y, exec (.restoreProceed c) s = .next t ∧ t.ctx c = some y ∧ y.pstat = .running ∧
      y.saves = [] ∧ ∀ v n d, x.saves = [v] → v.hands = [(n, d)] → s.ops = [] → (d.lanes.map Prod.fst).Nodup →
        (t.hand (v.core.hr n)).st = (if d.block.isSome then .dealt else .opened) ∧ (t.hand (v.core.hr n)).seat = d.seat ∧
        (t.hand (v.core.hr n)).gen = (s.hand (v.core.hr n)).gen ∧ (t.hand (v.core.hr n)).tiles = d.tiles ∧
        (∀ m, ((t.hand (v.core.hr n)).suit m).map (fun u => (u.kern, u.pos)) = (d.suit m).map (fun u => (u.kern, u.pos))) ∧
        ∀ l, (t.lane (v.core.hr n) l).regs = (d.lane l).regs ∧ (t.lane (v.core.hr n) l).st = (d.lane l).st ∧
          (t.lane (v.core.hr n) l).item = (d.lane l).item ∧ (t.lane (v.core.hr n) l).pos = (d.lane l).pos))

end

namespace Sys2Proof.Machine

/-! ## The host, contexts and the device's services (14, 17, 21) -/

/-- The pieces of a write's payload from a virtual address on, where its page lies at pa: in order, none crossing a multiple of 16, each on the route
of its home, none sent (17 R344). -/
def State.piecesFor (s : State) (va pa : Nat) (bs : List (Option Byte)) (ps : List Piece) : Prop :=
  (ps.map Piece.data).flatten = bs ∧
  ∀ i p, ps[i]? = some p → p.va = va + ((ps.take i).map (fun q => q.data.length)).sum ∧ 0 < p.data.length ∧ p.va % 16 + p.data.length ≤ 16 ∧
    p.die = (s.home (pa + (p.va - va))).die ∧ p.ord = none ∧ p.applied = false ∧ p.acked = false

/-- Nothing of the device has changed but the host requesters. -/
def HostsOnly (s t : State) : Prop := { t with hosts := s.hosts } = s

/-- What a context's halt leaves of its saves: a save, a saved context and a restore are lost (15 R321). -/
def PStat.halted (p : PStat) : PStat := match p with | .saving | .saved | .restoring => .lost | q => q

/-- A privileged register whose writes are taken as rwTakes says, at the time they arrive. -/
def bar0Reg (o : Nat) : Bool := decide (0x1000 ≤ o) && decide (o < 0x9000) && decide (o % 8 = 0)

/-- No fetch of a hand waits at a fault. -/
def Hand.noFetch (d : Hand) : Prop := d.fetches = [] ∧ ∀ e ∈ d.suits, ∀ va, e.2.stall ≠ .fault va

/-- What a replay-all starts from: what it retries stands after what the host has written, there are no pending entries, and SUSPENDs that were held are
Held-ready. -/
def State.replayStart (s : State) (c : Nat) : State :=
  (s.handsOf c).foldl (fun a h => a.modHand h Hand.replay) ((s.replayTime c s.hostTop).modCtx c (fun x => { x with pend := [], waitFull := [] }))

/-- Contexts are as they were but for the tokens of their buckets. -/
def TokensOnly (s t : State) : Prop := ∀ d x, s.ctx d = some x → ∃ y, t.ctx d = some y ∧ { y with tokH := x.tokH, tokP := x.tokP } = x

end Sys2Proof.Machine

section
open Sys2Proof Sys2Proof.Machine

/-- Host requests complete. A write through an open window is taken as pieces of 16 bytes, each on the route of its home; one through a closed window is
dropped; a read answers with the bytes of memory, its requester then standing after the writes that it saw, or with Unsupported Request or Completer
Abort. XD sends a piece when those of its request before it on other routes are acknowledged, and not a write without Relaxed Ordering while an
earlier write waits on another route, or a piece sent on another route, of whatever request, is not acknowledged; a walk that a request makes charges
its context, and what the requester does in order after it stands after the writes that the walk saw; the home applies the enabled bytes of the next
piece of a route to memory where its page then lies, drops it when the page is no longer mapped for writing, and an acknowledgement of all pieces ends
the write (17 R342 to R344, R359, 21 R369 to R371). -/
def Obligations.HostRequestsComplete : Prop :=
  (∀ (s : State) q, q.data ≠ [] → q.off % 4096 + q.data.length ≤ 4096 → q.bar ≠ 0 → (s.host q.req).waiting = [] → (s.host q.req).live = [] →
    (s.window q.fn q.off = none → ∃ t, exec (.hostWriteRequest q) s = .next t ∧ HostsOnly s t ∧ ∀ r, t.host r = s.host r) ∧
    (∀ ctx va pa c rp lo, s.window q.fn q.off = some (ctx, va) → s.xlate ctx { rd := false, wr := true, pl := 2 } va = .hit pa c rp lo →
      ∃ t ps, exec (.hostWriteRequest q) s = .next t ∧ t.mem = s.mem ∧ t.cores = s.cores ∧ TokensOnly s t ∧ s.piecesFor va pa q.data ps ∧
        t.host q.req = { s.host q.req with live := [{ ro := q.ro, ctx := ctx, pieces := ps }]
                                           pts := if q.ro then (s.host q.req).pts else maxN (s.host q.req).pts (s.walkTime ctx va) } ∧ ∀ r, r ≠ q.req → t.host r = s.host r)) ∧
  (∀ (s : State) q, q.data = [] → q.off % 4096 + q.len ≤ 4096 → (s.host q.req).waiting = [] → (s.host q.req).live = [] →
    (q.bar = 0 → ∃ t, exec (.hostReadRequest q) s = .next t ∧ t.mem = s.mem ∧
      t.cpls = s.cpls ++ [{ req := q.req, st := .ok, data := s.barRead q.fn q.off q.len }]) ∧
    (q.bar ≠ 0 → s.window q.fn q.off = none → ∃ t, exec (.hostReadRequest q) s = .next t ∧ t.mem = s.mem ∧
      t.cpls = s.cpls ++ [{ req := q.req, st := .unsupported, data := [] }]) ∧
    (∀ ctx va x, q.bar ≠ 0 → s.window q.fn q.off = some (ctx, va) → s.xlate ctx { rd := true, wr := false, pl := 2 } va = x →
      match x with
      | .hit pa _ _ _ => (∀ l ∈ spanOf 64 pa q.len, s.claimBars .mem { die := 0, core := 0 } l false = false) →
          ∃ t, exec (.hostReadRequest q) s = .next t ∧ t.mem = s.mem ∧ t.cores = s.cores ∧
            t.cpls = s.cpls ++ [{ req := q.req, st := if s.memPois pa q.len then .poisoned else .ok, data := (List.range q.len).map (fun i => s.byte (pa + i)) }] ∧
            (s.host q.req).pts ≤ (t.host q.req).pts ∧ ∀ l ∈ spanOf 64 pa q.len, (s.lineTs l).wts ≤ (t.host q.req).pts
      | _ => ∃ t, exec (.hostReadRequest q) s = .next t ∧ t.cpls = s.cpls ++ [{ req := q.req, st := .abort, data := [] }])) ∧
  (∀ (s : State) r x pre p post, (s.host r).live = [x] → x.pieces = pre ++ p :: post → p.ord = none →
    (∀ b ∈ pre, b.ord.isSome = true ∧ (b.die = p.die ∨ b.acked = true)) → (∀ b ∈ post, b.ord = none) →
    ∃ t, exec (.xdPieceSend r) s = .next t ∧ { t with hosts := s.hosts, order := s.order } = s ∧ t.order = s.order + 1 ∧
      t.host r = { s.host r with live := [{ x with pieces := pre ++ { p with ord := some s.order, p := (s.host r).pts } :: post }] } ∧
      ∀ k, k ≠ r → t.host k = s.host k) ∧
  (∀ (s : State) r x y p q, (s.host r).live = [x, y] → (s.host r).waiting = [] → x.pieces = [p] → y.pieces = [q] → y.ro = false → p.ord.isSome = true → p.acked = false →
    q.die ≠ p.die → exec (.xdPieceSend r) s = .next s) ∧
  (∀ (s : State) r x y p q, (s.host r).live = [x, y] → (s.host r).waiting = [] → x.pieces = [p] → y.pieces = [q] → x.ro = false → p.ord = none →
    q.ord.isSome = true → q.acked = false → q.die ≠ p.die → exec (.xdPieceSend r) s = .next s) ∧
  (∀ (s : State) r die x pre p post, (s.host r).live = [x] → x.pieces = pre ++ p :: post → p.die = die → p.ord.isSome = true → p.applied = false →
    (∀ b ∈ pre, b.die = die → b.applied = true) → (∀ b ∈ post, b.die = die → b.ord = none) →
    (∀ pa rp lo, s.piecePlace x.ctx p = some (pa, rp, lo) → s.offChans = [] → pa % 16 + p.data.length ≤ 16 → (∃ b, some b ∈ p.data) →
      s.claimBars .mem { die := 0, core := 0 } (pa / 64) true = false →
      let at_ := maxN (maxN (maxN p.p (if x.ro then 0 else kGet 0 die (s.host r).q)) x.qreq) (s.walkTime x.ctx p.va)
      let w := maxN at_ ((s.lineTs (pa / 64)).rts + 1)
      ∃ t, exec (.hostPieceApply r die) s = .next t ∧ t.cores = s.cores ∧ t.lineTs (pa / 64) = { wts := w, rts := w } ∧
        (∀ a, t.byte a = match (if pa ≤ a then (p.data[a - pa]?).join else none) with | some b => b | none => s.byte a) ∧
        (t.host r).live = [{ x with pieces := pre ++ { p with applied := true, p := w } :: post, qreq := w }] ∧
        kGet 0 die (t.host r).q = maxN (kGet 0 die (s.host r).q) w) ∧
    (s.piecePlace x.ctx p = none → ∃ t, exec (.hostPieceApply r die) s = .next t ∧ t.cores = s.cores ∧
        (t.host r).live = [{ x with pieces := pre ++ { p with applied := true, p := 0 } :: post }] ∧ kGet 0 die (t.host r).q = kGet 0 die (s.host r).q)) ∧
  (∀ (s : State) r die x, (s.host r).live = [x] → (s.host r).waiting = [] → x.pieces ≠ [] →
    (∀ p ∈ x.pieces, p.die = die ∧ p.applied = true ∧ p.acked = false) →
    ∃ t, exec (.routeAck r die) s = .next t ∧ HostsOnly s t ∧
      t.host r = { s.host r with live := [], pts := x.pieces.foldl (fun v p => maxN v p.p) (s.host r).pts } ∧ ∀ k, k ≠ r → t.host k = s.host k)

/-- The life of a context completes. CREATE with a descriptor that passes makes an Open context with the cores and queues it names, running nothing, and
CRESULT reads 0; one for a number in use leaves 1, and one by a function without a valid partition 2 (the last is the model's reading, log 57). STOP
makes an Open context Stopping, its saves lost, and keeps the completion state that each of its kernels has then; operations that have not stopped
2,048 clocks later are abandoned with CX.HSTAT.TMO; HALT_DONE, once the halt line has reached every hand and the stores on their way have taken
effect, leaves it Stopped, its hands Unformed and its claims, messages and suspended items gone; DESTROY then frees the number, at once or, while a
scrub runs, at its end (17 R352, R353, 22 R385, R386). -/
def Obligations.ContextLifeComplete : Prop :=
  (∀ (s : State) fn addr p, let pa := addr.toNat
    let w := recWord (s.memRead pa 256)
    let c := fld (w 0) 63 56
    s.power ≠ .recovery → kFind (fn - 1) s.parts = some p → p.valid = true → p.holds pa 256 = true → s.memPois pa 256 = false →
    (s.createBad (fn - 1) w = 0 → ∃ t y, exec (.create fn addr) s = .next t ∧ { t with ctxs := s.ctxs, cresult := s.cresult } = s ∧
      kGet 0 fn t.cresult = 0 ∧ t.ctx c = some y ∧ (∀ d, d ≠ c → t.ctx d = s.ctx d) ∧ y.state = 1 ∧ y.pstat = .running ∧ y.kerns = [] ∧
      y.part = fn - 1 ∧ y.maxpl = fld (w 0) 55 54 ∧ y.prot = bitN (w 0) 53 ∧ y.kstate = (if bitN (w 0) 53 then 2 else 0) ∧
      (y.reg 0x130).toNat = w 9 % 2 ^ 64 ∧ ∀ d, d < 4 → kGet 0 d y.cores = w (5 + d) % 2 ^ 48) ∧
    ((s.ctx c).isSome = true → ∃ t, exec (.create fn addr) s = .next t ∧ { t with cresult := s.cresult } = s ∧ kGet 0 fn t.cresult = 1)) ∧
  (∀ (s : State) fn addr, s.power ≠ .recovery → (∀ p, kFind (fn - 1) s.parts = some p → p.valid = false) →
    ∃ t, exec (.create fn addr) s = .next t ∧ { t with cresult := s.cresult } = s ∧ kGet 0 fn t.cresult = 2) ∧
  (∀ (s : State) c x, s.ctx c = some x → x.state = 1 →
    ∃ t, exec (.stop c) s = .next t ∧ { t with ctxs := s.ctxs, msis := s.msis } = s ∧ (∀ d, d ≠ c → t.ctx d = s.ctx d) ∧
      t.ctx c = some { x with
        state := 2, pstat := x.pstat.halted
        halt := some { cause := 0, clk := s.clk, states := s.kernStates c, ahead := if x.pstat = .running then s.handsOf c else [] } }) ∧
  (∀ (s : State) c x h e, s.ctx c = some x → x.state = 2 → x.halt = some h → h.clk + 2048 ≤ s.clk → e ∈ s.ops → e.2.ctx = c →
    e.2.engCode.isSome = true →
    ∃ t, exec (.skidTimeout c) s = .next t ∧ WithinCtx s t c ∧ t.ctx c = some { x with halt := some { h with tmo := true } }) ∧
  (∀ (s : State) c x, s.ctx c = some x → x.state = 2 → x.lineThere = true → s.settling c = false → s.pubWaits c = false →
    ∃ t y, exec (.haltDone c) s = .next t ∧ t.ctx c = some y ∧ y.state = 3 ∧ y.saves = [] ∧ y.waits = [] ∧ y.busy = [] ∧ (∀ h, y.halt = some h → h.done = true) ∧
      (∀ k ∈ y.kerns, k.2.tables = []) ∧ (∀ h ∈ s.handsOf c, (t.hand h).st = .unformed) ∧ (∀ e ∈ t.claims, e.2.ctx ≠ c) ∧
      (∀ e ∈ t.msgs, e.2.ctx ≠ c) ∧ ∀ e ∈ t.waitRecs, e.cont.ctx ≠ c) ∧
  (∀ (s : State) c x, s.ctx c = some x → x.state = 3 →
    (x.scrub = none → (x.prot = true → x.scrubOk = true) →
      (∃ t, exec (.destroy c) s = .next t ∧ t.ctx c = none ∧ (∀ d, d ≠ c → t.ctx d = s.ctx d) ∧ t.mem = s.mem) ∧
      (x.destroyDue = true → ∃ t, exec (.deferredDestroy c) s = .next t ∧ t.ctx c = none ∧ (∀ d, d ≠ c → t.ctx d = s.ctx d) ∧ t.mem = s.mem)) ∧
    (x.scrub.isSome = true → ∃ t, exec (.destroy c) s = .next t ∧ WithinCtx s t c ∧ t.ctx c = some { x with destroyDue := true }))

/-- A replay-all completes: the pending entries go; lanes held by a fault of SUSPEND are Held-ready where they stand; those held by a fault of their fetch
are Held-ready when it now translates, and stay held when it does not; and a parked access that now translates is on its way as one request at the
address it translates to. What is retried stands no earlier than what the host has written (24 R412). That lanes held at SUSPEND become Held-ready
whether or not their access translates, and that fetches are retried, are the model's reading (log 24). -/
def Obligations.ReplayComplete : Prop :=
  ∀ (s : State) c x, s.ctx c = some x → x.state = 1 → x.pstat ≠ .saved → x.waits = [] →
    (s.ops = [] → (∀ e ∈ s.reqs, e.2.parked = false) → (∀ h ∈ s.handsOf c, (s.hand h).noFetch) →
      ∃ t, exec (.replay c) s = .next t ∧ t.mem = s.mem ∧ t.reqs = s.reqs ∧ t.ctx c = some { x with pend := [], waitFull := [] } ∧
      (∀ d, d ≠ c → t.ctx d = s.ctx d) ∧
      ∀ h ∈ s.handsOf c, ∀ l, t.lane h l = match (s.lane h l).st with
        | .heldFault .suspend | .heldFault (.waitRecord _ _ _) => { s.lane h l with st := .heldReady }
        | _ => s.lane h l) ∧
    (∀ h va kn, s.ops = [] → s.handsOf c = [h] → (s.hand h).fetches = [(va, kn)] → (∀ e ∈ (s.hand h).suits, ∀ w, e.2.stall ≠ .fault w) →
      let s1 := s.replayStart c
      let got := (s1.translate h (s.hand h).gen c { rd := true, wr := false, pl := (s.kernD c kn).lrec.pl } va).1
      (∀ pa ceil rp pg, got = .hit pa ceil rp pg → ∃ t, exec (.replay c) s = .next t ∧ t.mem = s.mem ∧
        ∀ l, t.lane h l = if l < 32 ∧ (s.hand h).fetchOf l = some (va, kn) then { s1.lane h l with st := .heldReady } else s1.lane h l) ∧
      (∀ lv en, got = .miss lv en → ∃ t, exec (.replay c) s = .next t ∧ ∀ l, t.lane h l = s1.lane h l)) ∧
    (∀ id o lo a pa ceil rp pg, s.ops = [(id, o)] → o.ctx = c → o.gen ≠ swappedGen → o.kind = .access → o.lanes = [lo] → lo.st = .parked a →
      lo.lane < 32 → (∀ e ∈ s.reqs, e.2.parked = false) → a.len ≤ 16 → s.holds o lo = true → (∀ h ∈ s.handsOf c, (s.hand h).noFetch) →
      ((s.replayStart c).translate o.h o.gen c a.need a.addr).1 = .hit pa ceil rp pg →
      ∃ t r, exec (.replay c) s = .next t ∧ t.mem = s.mem ∧ kFind id t.ops = some { o with pts := maxN o.pts s.hostTop, lanes := [{ lo with st := .pending, due := 1 }] } ∧
        kFind s.nextReq t.reqs = some r ∧ r.op = id ∧ r.lane = lo.lane ∧ r.ctx = c ∧ r.acc = a ∧ r.pa = pa ∧ r.repl = rp)

/-- The device's services complete: a write to CX.SHQ names the region whose sharing entry is read; a register of a context's page takes what a requester
with no write on its way writes to it, and a window register holds its defined bits; the oldest SUSPEND that waits for a wait record is Held-ready
once there is room; a key is loaded at every channel that can be reached; an attestation report is given; and an Ethernet frame reaches the partition
that owns its port (16 R333, 17 R341, R342, R346, R354, 24 R418). The order of the report's words, its key and its nonce (log 19), and the channels at
which a key is loaded (log 34), are the model's choice. -/
def Obligations.DeviceServicesComplete : Prop :=
  (∀ (s : State) c x a, s.ctx c = some x →
    ∃ t, exec (.shqLookup c a) s = .next t ∧ { t with ctxs := s.ctxs } = s ∧ (∀ d, d ≠ c → t.ctx d = s.ctx d) ∧
      t.reg c 0x140 = (if Nat.land a.toNat 0x000FFFFFFFE00000 = a.toNat then a.toNat else s.reg c 0x140) ∧ ∀ q, q ≠ 0x140 → t.reg c q = s.reg c q) ∧
  (∀ (s : State) req fn c x o v, s.power = .running → s.hostClear req = true → s.ctx c = some x → x.part = fn - 1 → c < 256 → bar0Reg o = true →
    plainPrn ((o - 0x1000) / 8) = true → ((o - 0x1000) / 8 = 0x130 → x.state = 3) →
    let prn := (o - 0x1000) / 8
    ∃ t, exec (.registerWrite ⟨req, fn⟩ (65536 * c + o) v) s = .next t ∧ { t with ctxs := s.ctxs } = s ∧ (∀ d, d ≠ c → t.ctx d = s.ctx d) ∧
      (∀ w, rwTakes prn v.toNat = some w → t.reg c prn = w % 2 ^ 64) ∧ (rwTakes prn v.toNat = none → t.reg c prn = s.reg c prn) ∧
      ∀ q, q ≠ prn → t.reg c q = s.reg c q) ∧
  (∀ (s : State) req fn w v, s.power = .running → s.hostClear req = true → w < 4 →
    ∃ t, exec (.registerWrite ⟨req, fn⟩ (0x1000000 + 8 * w) v) s = .next t ∧ { t with hwin := s.hwin } = s ∧
      (kGet 0 (4 * fn + w) t.hwin).toNat = Nat.land v.toNat 0x81FFFFFC000000FF ∧ ∀ k, k ≠ 4 * fn + w → kGet 0 k t.hwin = kGet 0 k s.hwin) ∧
  (∀ (s : State) die sl h l o, h ∈ s.handList → l < 32 → (s.lane h l).st = .heldFault (.waitRecord die sl o) → s.runs (s.hand h).ctx = true →
    (∀ g ∈ s.handList, ∀ j, j < 32 → ∀ m, (s.lane g j).st = .heldFault (.waitRecord die sl m) → s.runs (s.hand g).ctx = true → (g = h ∧ j = l) ∨ o < m) →
    s.waitCount die sl < 2048 →
    ∃ t, exec (.waitfullRetry die sl) s = .next t ∧ t.mem = s.mem ∧ t.lane h l = { s.lane h l with st := .heldReady }) ∧
  (∀ (s : State) c x key, s.ctx c = some x → x.prot = true →
    ∃ t y, exec (.keyLoad ⟨c, key⟩) s = .next t ∧ WithinCtx s t c ∧ t.ctx c = some y ∧ { y with slots := x.slots } = { x with kstate := 1 } ∧
      ∀ ch, kGet 0 ch y.slots = if ch ∈ s.liveChans then key else kGet 0 ch x.slots) ∧
  (∀ (s : State) c x, s.ctx c = some x → s.power ≠ .off → s.power ≠ .held →
    ∃ t r, exec (.attestationReport c) s = .next t ∧ { t with reports := s.reports } = s ∧ t.reports = s.reports ++ [r] ∧ r.ctx = c ∧
      r.words = s.fwstat :: ((List.range 16).map (s.partWord x.part) ++ [x.kstate]) ∧ r.sig = attest r.words) ∧
  (∀ (s : State) port data n p rest, s.parts = (n, p) :: rest → p.valid = true → bitN p.ports port = true → port < 8 → s.badPorts.contains port = false →
    ∃ t, exec (.ethernetFrameDeliver port data) s = .next t ∧ { t with frameOut := s.frameOut } = s ∧
      t.frameOut = s.frameOut ++ [(n, port, data)])

end

namespace Sys2Proof.Machine

/-! ## Errors, resets and power (17, 22, 24) -/

/-- A device error record: its class, location code and clock under the next number of the log; classes 2 and 3 signal vector 0 of the PF
(22 R391). -/
def State.recorded (s t : State) (cls loc : Nat) : Prop :=
  t.derrt = s.derrt + 1 ∧ (∃ m, kGet (0#64, 0#64) (s.derrt % 256) t.derr = (BitVec.ofNat 64 (loc * 2 ^ 32 + cls * 2 ^ 24 + m * 2 ^ 16 + 1), BitVec.ofNat 64 s.clk)) ∧
  t.msis = s.msis ++ (if 2 ≤ cls then [{ fn := 0, vec := 0 }] else [])

/-- A lane of a kernel's table. -/
def Lane.ofTable (l : Lane) (kern table : Nat) : Prop := ∃ it, l.item = some it ∧ it.kern = kern ∧ it.table = table

/-- What a reset leaves of everything that is on the dies: no context, core state, operation, request, claim, waiting write, message or copy, clock 0. -/
structure Cleared (t : State) : Prop where
  none_ : t.ctxs = [] ∧ t.cores = [] ∧ t.ops = [] ∧ t.reqs = [] ∧ t.claims = [] ∧ t.late = [] ∧ t.msgs = [] ∧ t.waitRecs = [] ∧ t.hosts = []
  copies : t.lines = [] ∧ t.replicas = [] ∧ t.slices = [] ∧ t.share = [] ∧ t.tickets = []
  log : t.derr = [] ∧ t.derrt = 0 ∧ t.hwin = [] ∧ t.offChans = []
  clk : t.clk = 0

/-- Why the image in package flash is not booted, by rising precedence of the conditions that this model checks first to last (22 R392; log 38);
none when it is. -/
def Flash.refused (f : Flash) (unusable : Bool) : Option Nat :=
  if f.request then some 5
  else if !f.primary.readable then some 3
  else if !f.verifies f.primary then some 1
  else if f.primary.version < f.rollback then some 2
  else if unusable then some 4
  else none

/-- A boot of firmware, which seals the partitions that hold what 17 R350 asks and share nothing, or of the recovery image for a reason; when that is bad
too the device is held (17 R350, R357, 22 R392). -/
def State.bootedFrom (s t : State) (fs : List UnitFail) : Prop :=
  t.bist = fs ∧
  match s.flash.refused (selfTest fs).unusable with
  | none => t.power = .running ∧ t.fwRecovery = false ∧ t.fwVersion = s.flash.primary.version ∧ t.partsSealed = true ∧
      t.flash = { s.flash with rollback := max s.flash.rollback s.flash.primary.minVersion } ∧
      (∀ n p, kFind n t.parts = some p → p.valid = true → p.lawful t.devPart n = true) ∧
      (∀ m n p q, m < n → kFind m t.parts = some p → kFind n t.parts = some q → p.valid = true → q.valid = true → q.apart p = true)
  | some why => t.power = (if s.flash.recoveryGood then .recovery else .held) ∧ t.fwRecovery = true ∧ t.fwReason = why ∧ t.parts = [] ∧
      t.fwVersion = (if s.flash.recoveryGood then s.flash.recovery.version else 0) ∧
      t.flash = { s.flash with request := false }

end Sys2Proof.Machine

section
open Sys2Proof Sys2Proof.Machine

/-- Errors complete. A register error that an instruction of an Active lane reads sends an unsealed lane whose cut does not keep the register back to its
cut, its l slots and predicates zero, and kills the table of any other lane; one read in a Pinned lane discards its estate, also when its table has
ended; a held lane reads none before it resumes; an error of a hand's own state kills the table of its items; either, read by a save, ends it, the
context halting Lost; an offline core draws nothing more, its hands Unformed; a clean copy is dropped and a dirty sector lost, its sector poisoned; an
uncorrectable sector of HBM or the talon, checksum or column scale is poisoned where it lies; a corrected error is recorded; and a device-fatal error
waits for a reset (22 R376, R384, R390, 24 R419, R421, R424, R425, R427, R428). That unpublished stores of an L1 are lost as its dirty sectors, and
which errors CACHE_ERROR carries, are the model's reading (log 37). -/
def Obligations.ErrorsComplete : Prop :=
  (∀ (s : State) h l r it c, (s.lane h l).item = some it → (s.lane h l).isSealed = false → (s.lane h l).cut = some c →
    s.saving (s.hand h).ctx = false → (∃ n, (s.lane h l).st = .active n) →
    (∀ n, r = .v n → ∀ g ∈ c.ranges, ¬(g.start ≤ n ∧ n < g.start + g.len)) →
    ∃ t, exec (.registerError h l r) s = .next t ∧ t.mem = s.mem ∧ t.ctxs = s.ctxs ∧ (t.lane h l).st = .heldReady ∧ (t.lane h l).pos = c.pos ∧
      (t.lane h l).item = some it ∧ (t.lane h l).l0 = 0 ∧ (t.lane h l).l1 = 0 ∧ (t.lane h l).preds = 0 ∧
      (∀ g ∈ c.ranges, ∀ n, g.start ≤ n → n < g.start + g.len → rfVal (t.lane h l).regs n = rfVal (s.lane h l).regs n) ∧
      ∀ j, j ≠ l → t.lane h j = s.lane h j) ∧
  (∀ (s : State) h l r it tb, (s.lane h l).item = some it → ((s.lane h l).isSealed = true ∨ ∀ c, (s.lane h l).cut = some c → c.keeps r = true) → kFind it.table (s.kernD (s.hand h).ctx it.kern).tables = some tb →
    coreKey tb.core = coreKey h.cr → s.saving (s.hand h).ctx = false → (∃ n, (s.lane h l).st = .active n) →
    ∃ t, exec (.registerError h l r) s = .next t ∧ ∀ j, (s.lane h j).ofTable it.kern it.table → (t.lane h j).st = .idle ∧ (t.lane h j).item = none) ∧
  (∀ (s : State) h l r e, (s.lane h l).st = .pinned → (s.lane h l).item = none → (s.lane h l).estate = some e → s.saving (s.hand h).ctx = false →
    kFind (e.item / (s.kernD (s.hand h).ctx e.kern).lrec.fan1) (s.kernD (s.hand h).ctx e.kern).tables = none →
    ∃ t, exec (.registerError h l r) s = .next t ∧ (t.lane h l).st = .idle ∧ (t.lane h l).estate = none) ∧
  (∀ (s : State) h l r, s.saving (s.hand h).ctx = false → (∀ n, (s.lane h l).st ≠ .active n) → (s.lane h l).st ≠ .pinned →
    exec (.registerError h l r) s = .next s) ∧
  (∀ (s : State) h l r x, s.ctx (s.hand h).ctx = some x → x.state = 1 → s.saving (s.hand h).ctx = true →
    (s.saveReads h l r = true → ∃ t y, exec (.registerError h l r) s = .next t ∧ t.ctx (s.hand h).ctx = some y ∧ y.pstat = .lost ∧ y.state = 2) ∧
    ((s.hand h).st ≠ .unformed → ∃ t y, exec (.handStateError h) s = .next t ∧ t.ctx (s.hand h).ctx = some y ∧ y.pstat = .lost ∧ y.state = 2)) ∧
  (∀ (s : State) h l it tb, l < 32 → (s.lane h l).item = some it → (∀ j, j < 32 → j ≠ l → (s.lane h j).item = none ∧ (s.lane h j).estate = none) →
    kFind it.table (s.kernD (s.hand h).ctx it.kern).tables = some tb → coreKey tb.core = coreKey h.cr → s.saving (s.hand h).ctx = false →
    ∃ t, exec (.handStateError h) s = .next t ∧ (t.lane h l).st = .idle ∧ (t.lane h l).item = none) ∧
  (∀ (s : State) c, c.core < 64 → (s.core c).offline = false →
    ∃ t, exec (.coreOffline c) s = .next t ∧ (t.core c).offline = true ∧ (t.core c).contq = [] ∧ (t.core c).serves = none ∧
      ∀ n, (t.hand (c.hr n)).st = .unformed) ∧
  (∀ (s : State) c line, (∀ b ∈ (s.core c).cbuf, b.pa + b.data.length ≤ 64 * line ∨ 64 * line + 64 ≤ b.pa) → (∀ b ∈ (s.core c).cbuf, b.pa / 64 ≠ line) →
    (kFind line (s.core c).l1).isSome = true →
    ∃ t, exec (.cacheError (.l1 c line)) s = .next t ∧ t.mem = s.mem ∧ kFind line (t.core c).l1 = none ∧
      (∀ k, k ≠ line → kFind k (t.core c).l1 = kFind k (s.core c).l1) ∧ s.recorded t 0 (s.locCore c 3)) ∧
  (∀ (s : State) c line, ∃ t, exec (.cacheError (.l1 c line)) s = .next t ∧ ∀ b ∈ (s.core c).cbuf, ∀ k, 4 * line ≤ k → k < 4 * line + 4 →
    b.pa < 16 * k + 16 → 16 * k < b.pa + b.data.length → t.secPois k = true) ∧
  (∀ (s : State) die line, (kFind (replicaKey die line) s.replicas).isSome = true →
    ∃ t, exec (.cacheError (.replica die line)) s = .next t ∧ t.mem = s.mem ∧ kFind (replicaKey die line) t.replicas = none ∧
      s.recorded t 0 (locSlice die (s.home (64 * line)).slice)) ∧
  (∀ (s : State) line sec e, kFind line s.slices = some e → sec < 4 →
    (kFind sec e.dirty = none → ∃ t, exec (.cacheError (.home line sec)) s = .next t ∧ t.mem = s.mem ∧ kFind line t.slices = none ∧
      s.recorded t 0 (locSlice (s.home (64 * line)).die (s.home (64 * line)).slice)) ∧
    ((kFind sec e.dirty).isSome = true → ∃ t, exec (.cacheError (.home line sec)) s = .next t ∧ t.secPois (4 * line + sec) = true ∧
      ∀ a, a / 16 ≠ 4 * line + sec → t.byte a = s.byte a)) ∧
  (∀ (s : State) sec, ∃ t, exec (.cacheError (.hbm sec)) s = .next t ∧ t.secPois sec = true ∧ ∀ a, a / 16 ≠ sec → t.byte a = s.byte a) ∧
  (∀ (s : State) c n, ∃ t, exec (.cacheError (.checksum c n)) s = .next t ∧ t.mem = s.mem ∧ t.ctxs = s.ctxs ∧ t.slot c n = { s.slot c n with pois := true } ∧
    ∀ m, m ≠ n → t.slot c m = s.slot c m) ∧
  (∀ (s : State) c n col, col < 64 → ∃ t, exec (.cacheError (.scale c n col)) s = .next t ∧ t.mem = s.mem ∧ t.ctxs = s.ctxs ∧
    { t.slot c n with scale := (s.slot c n).scale } = s.slot c n ∧ (∀ m, m ≠ n → t.slot c m = s.slot c m) ∧
    ∀ k, kGet scaleOne k (t.slot c n).scale = ((kGet scaleOne k (s.slot c n).scale).1, (kGet scaleOne k (s.slot c n).scale).2 || decide (k = col))) ∧
  (∀ (s : State) c sec, ∃ t, exec (.cacheError (.talon c sec)) s = .next t ∧ t.mem = s.mem ∧ t.ctxs = s.ctxs ∧
    { t.core c with talPois := (s.core c).talPois } = s.core c ∧ ∀ k, k ∈ (t.core c).talPois ↔ k = sec ∨ k ∈ (s.core c).talPois) ∧
  (∀ (s : State) loc mech, mech < 2 → ∃ t, exec (.cacheError (.corrected loc mech)) s = .next t ∧ s.recorded t 0 loc ∧ t.mem = s.mem ∧ t.ctxs = s.ctxs ∧
    t.cores = s.cores) ∧
  (∀ (s : State) loc, ∃ t, exec (.deviceFatalError loc) s = .next t ∧ t.power = .awaitReset ∧ t.fatalOut = s.fatalOut ++ [loc] ∧ s.recorded t 3 loc ∧
    t.mem = s.mem ∧ t.ctxs = s.ctxs ∧ t.cores = s.cores)

/-- Resets and power complete. A cold reset clears the device and its memory, a warm reset the device alone, and both boot what package flash holds; power
that is lost leaves flash; a module that is powered takes a readable image that verifies and that the rollback counter does not bar, and a warm reset
follows, and takes no other; and a recovery request boots the recovery image for reason 5, but not in a module that is off or held (01 R20, 17 R357,
22 R392). That a warm reset keeps memory whole (log 18), the order in which the reasons are checked and what an update and the recovery image need
(log 38), and what sealing the partitions asks (log 59), are the model's reading. -/
def Obligations.ResetsComplete : Prop :=
  (∀ (s : State) b, ∃ t, exec (.coldReset b) s = .next t ∧ Cleared t ∧ t.mem = [] ∧ t.pois = [] ∧ t.frames = [] ∧ t.quarn = 0 ∧ s.bootedFrom t b.failing) ∧
  (∀ (s : State) b, s.power ≠ .off → ∃ t, exec (.warmReset b) s = .next t ∧ Cleared t ∧ t.mem = s.mem ∧ t.quarn = s.quarn ∧
    (∀ ch, (kGet [] ch t.pois).map PoisEnt.sector = (kGet [] ch s.pois).map PoisEnt.sector) ∧ s.bootedFrom t b.failing) ∧
  (∀ (s : State), ∃ t, exec .powerLoss s = .next t ∧ Cleared t ∧ t.mem = [] ∧ t.power = .off ∧ t.flash = s.flash) ∧
  (∀ (s : State) f, s.power ≠ .off → s.power ≠ .held →
    (f.readable = true → s.flash.rollback ≤ f.version → ∃ t, exec (.firmwareUpdate f) s = .next t ∧
      (s.flash.verifies f = true → t.flash = { s.flash with primary := f } ∧ { t with flash := s.flash, agenda := s.agenda } = s ∧
        t.agenda = .event (.warmReset { failing := s.bist }) :: s.agenda) ∧ (s.flash.verifies f = false → t = s)) ∧
    (f.readable = false ∨ f.version < s.flash.rollback → exec (.firmwareUpdate f) s = .next s)) ∧
  (∀ (s : State), s.power = .off ∨ s.power = .held → exec .recoveryRequest s = .next s) ∧
  (∀ (s : State), s.power ≠ .off → s.power ≠ .held → ∃ t, exec .recoveryRequest s = .next t ∧ Cleared t ∧ t.mem = s.mem ∧ t.fwRecovery = true ∧ t.fwReason = 5 ∧
    t.power = (if s.flash.recoveryGood then .recovery else .held) ∧ t.flash = { s.flash with request := false })

end
end

