-- ==== Sys2Proof/Laws/Claims.lean ====
section
/-! SUPPORT. Sys2Proof/Laws/Claims.lean: what engine claims and writes that wait for them hold back, and when they hold back nothing. -/

namespace Sys2Proof.Machine

/-- No operation is an engine's, and no write waits. -/
def State.unclaimed (s : State) : Prop := (∀ e ∈ s.ops, ∀ g, e.2.kind ≠ .engine g) ∧ s.late = []

/-- Where no operation is an engine's, nothing is claimed. -/
theorem State.claimsOn_nil {s : State} (h : ∀ e ∈ s.ops, ∀ g, e.2.kind ≠ .engine g) (sp : ESpace) (c : CoreRef) (u : Nat) :
    s.claimsOn sp c u = [] := by
  simp only [State.claimsOn, List.flatMap_eq_nil_iff]
  intro e he
  split
  · exact absurd ‹_› (h e he _)
  · rfl

theorem State.lateOn_nil {s : State} (h : s.late = []) (line : Nat) : s.lateOn line = false := by simp [State.lateOn, h]

/-- Nothing bars an access of a core to any place. -/
theorem State.claimBars_free {s : State} (h : s.unclaimed) (sp : ESpace) (c : CoreRef) (u : Nat) (w : Bool) : s.claimBars sp c u w = false := by
  simp [State.claimBars, State.claimsOn_nil h.1, State.lateOn_nil h.2]

/-- Nothing bars an access of the device, the host or a peer to any bytes. -/
theorem State.runBars_free {s : State} (h : s.unclaimed) (pa n : Nat) (w : Bool) : s.runBars pa n w = false := by
  simp [State.runBars, State.claimBars_free h]

/-- A write of the device is made at its home when nothing bars it, and waits else. -/
theorem State.putLate_now {s : State} {w : LateW} (h : s.runBars w.pa w.data.length true = false) : s.putLate w = s.lateOne w := by
  simp [State.putLate, h]

theorem State.putLate_waits {s : State} {w : LateW} (h : s.runBars w.pa w.data.length true = true) :
    s.putLate w = { s with late := s.late ++ [w] } := by simp [State.putLate, h]

/-- With no write that waits, there is none to make. -/
theorem State.lateGo_nil {s : State} (h : s.late = []) : s.lateGo = s := by
  cases s; simp_all [State.lateGo]

end Sys2Proof.Machine
end

