-- ==== Sys2Proof/Laws/KMap.lean ====
section
/-! SUPPORT. Sys2Proof/Laws/KMap.lean: a map read after it is written, and the canonical forms of maps and memory kept. -/

namespace Sys2Proof.Machine

variable {α : Type}

@[simp] theorem kFind_kSet_same (k : Nat) (v : α) (m : KMap α) : kFind k (kSet k v m) = some v := by
  induction m with
  | nil => simp [kSet, kFind]
  | cons e m ih =>
    obtain ⟨j, x⟩ := e
    by_cases h : j = k
    · simp [kSet, kFind, h]
    · by_cases h2 : k < j
      · simp [kSet, kFind, h, h2]
      · simp [kSet, kFind, h, h2, ih]

@[simp] theorem kFind_kSet_ne {j k : Nat} (h : j ≠ k) (v : α) (m : KMap α) : kFind j (kSet k v m) = kFind j m := by
  induction m with
  | nil => simp [kSet, kFind, Ne.symm h]
  | cons e m ih =>
    obtain ⟨i, x⟩ := e
    by_cases h1 : i = k
    · subst h1; simp [kSet, kFind, Ne.symm h]
    · by_cases h2 : k < i
      · simp [kSet, kFind, h1, h2, Ne.symm h]
      · simp [kSet, kFind, h1, h2, ih]

@[simp] theorem kFind_kErase_same (k : Nat) (m : KMap α) : kFind k (kErase k m) = none := by
  induction m with
  | nil => rfl
  | cons e m ih =>
    obtain ⟨j, x⟩ := e
    by_cases h : j = k
    · simpa [kErase, h] using ih
    · simpa [kErase, h, kFind] using ih

@[simp] theorem kFind_kErase_ne {j k : Nat} (h : j ≠ k) (m : KMap α) : kFind j (kErase k m) = kFind j m := by
  induction m with
  | nil => rfl
  | cons e m ih =>
    obtain ⟨i, x⟩ := e
    by_cases h1 : i = k
    · have h2 : i ≠ j := fun q => h (by rw [← q, h1])
      simpa [kErase, h1, kFind, Ne.symm h] using ih
    · by_cases h2 : i = j
      · simp [kErase, kFind, h2, h]
      · simpa [kErase, kFind, h1, h2] using ih

@[simp] theorem kGet_kPut_same [DecidableEq α] (d : α) (k : Nat) (v : α) (m : KMap α) : kGet d k (kPut d k v m) = v := by
  unfold kGet kPut; split
  · next h => simp [h]
  · simp

@[simp] theorem kGet_kPut_ne [DecidableEq α] {j k : Nat} (h : j ≠ k) (d v : α) (m : KMap α) :
    kGet d j (kPut d k v m) = kGet d j m := by
  unfold kGet kPut; split <;> simp [h]

@[simp] theorem kGet_kSet_same (d : α) (k : Nat) (v : α) (m : KMap α) : kGet d k (kSet k v m) = v := by simp [kGet]

@[simp] theorem kGet_kSet_ne {j k : Nat} (h : j ≠ k) (d v : α) (m : KMap α) : kGet d j (kSet k v m) = kGet d j m := by
  simp [kGet, h]

/-! ## Canonical form -/

theorem kAbove_weaken {a b : Nat} (h : a ≤ b) : ∀ {m : KMap α}, kAbove b m = true → kAbove a m = true
  | [], _ => rfl
  | (j, _) :: m, hm => by
    simp only [kAbove, Bool.and_eq_true, decide_eq_true_eq] at hm ⊢
    exact ⟨by omega, hm.2⟩

theorem kAbove_kSet {b k : Nat} (v : α) (hb : b < k) : ∀ {m : KMap α}, kAbove b m = true → kAbove b (kSet k v m) = true
  | [], _ => by simp [kSet, kAbove, hb]
  | (j, x) :: m, hm => by
    simp only [kAbove, Bool.and_eq_true, decide_eq_true_eq] at hm
    by_cases h1 : j = k
    · subst h1; simp [kSet, kAbove, hb, hm.2]
    · by_cases h2 : k < j
      · simp [kSet, kAbove, h1, h2, hb, hm.2]
      · have h3 : j < k := by omega
        simp [kSet, kAbove, h1, h2, hm.1, kAbove_kSet v h3 hm.2]

theorem kSorted_kSet (k : Nat) (v : α) : ∀ {m : KMap α}, kSorted m = true → kSorted (kSet k v m) = true
  | [], _ => rfl
  | (j, x) :: m, hm => by
    simp only [kSorted] at hm
    by_cases h1 : j = k
    · subst h1; simpa [kSet, kSorted] using hm
    · by_cases h2 : k < j
      · simp [kSet, kSorted, kAbove, h1, h2, hm]
      · have h3 : j < k := by omega
        simpa [kSet, kSorted, h1, h2] using kAbove_kSet v h3 hm

theorem kAbove_filter (p : Nat × α → Bool) : ∀ {b : Nat} {m : KMap α}, kAbove b m = true → kAbove b (m.filter p) = true
  | _, [], _ => rfl
  | b, (j, x) :: m, hm => by
    simp only [kAbove, Bool.and_eq_true, decide_eq_true_eq] at hm
    by_cases h : p (j, x) = true
    · rw [List.filter_cons_of_pos h]
      simp [kAbove, hm.1, kAbove_filter p hm.2]
    · rw [List.filter_cons_of_neg h]
      exact kAbove_weaken (Nat.le_of_lt hm.1) (kAbove_filter p hm.2)

theorem kSorted_of_kAbove {b : Nat} : ∀ {m : KMap α}, kAbove b m = true → kSorted m = true
  | [], _ => rfl
  | (_, _) :: _, hm => by
    simp only [kAbove, Bool.and_eq_true] at hm
    exact hm.2

theorem kSorted_kErase (k : Nat) : ∀ {m : KMap α}, kSorted m = true → kSorted (kErase k m) = true
  | [], _ => rfl
  | (j, x) :: m, hm => by
    simp only [kSorted] at hm
    by_cases h : j = k
    · simpa [kErase, h] using kSorted_of_kAbove (kAbove_filter (fun e => decide (e.1 ≠ k)) hm)
    · simpa [kErase, h, kSorted] using kAbove_filter (fun e => decide (e.1 ≠ k)) hm

theorem kSorted_kPut [DecidableEq α] (d v : α) (k : Nat) {m : KMap α} (h : kSorted m = true) : kSorted (kPut d k v m) = true := by
  unfold kPut; split
  · exact kSorted_kErase k h
  · exact kSorted_kSet k v h

theorem kSet_all (p : Nat × α → Bool) {k : Nat} {v : α} (hv : p (k, v) = true) :
    ∀ {m : KMap α}, m.all p = true → (kSet k v m).all p = true
  | [], _ => by simp [kSet, hv]
  | (j, x) :: m, hm => by
    simp only [List.all_cons, Bool.and_eq_true] at hm
    by_cases h1 : j = k
    · simp [kSet, h1, hv]; simpa using hm.2
    · by_cases h2 : k < j
      · simp [kSet, h1, h2, hv, hm.1]; simpa using hm.2
      · simp only [kSet, h1, h2, if_false, List.all_cons, Bool.and_eq_true]
        exact ⟨hm.1, kSet_all p hv hm.2⟩

/-- One byte written keeps the canonical form of a memory. -/
theorem cellsWf_kPut (a : Nat) (b : Byte) {m : List Host.Cell} (h : cellsWf m = true) : cellsWf (kPut 0 a b m) = true := by
  simp only [cellsWf, Bool.and_eq_true] at h ⊢
  refine ⟨kSorted_kPut 0 b a h.1, ?_⟩
  unfold kPut; split
  · have h2 := h.2
    simp only [kErase, List.all_eq_true, List.mem_filter] at h2 ⊢
    exact fun e he => h2 e he.1
  · next hb => exact kSet_all (fun e : Nat × Byte => decide (e.2 ≠ 0)) (by simpa using hb) h.2

/-- A run of bytes written keeps it. -/
theorem cellsWf_cellsWrite (bs : List Byte) : ∀ (a : Nat) {m : List Host.Cell}, cellsWf m = true → cellsWf (cellsWrite m a bs) = true := by
  induction bs with
  | nil => exact fun _ _ h => h
  | cons b bs ih => exact fun a _ h => ih (a + 1) (cellsWf_kPut a b h)

/-- Bytes before a run are as before. -/
theorem kGet_cellsWrite_lt (bs : List Byte) : ∀ (a : Nat) (m : List Host.Cell) {x : Nat}, x < a →
    kGet 0 x (cellsWrite m a bs) = kGet 0 x m := by
  induction bs with
  | nil => exact fun _ _ _ _ => rfl
  | cons b bs ih =>
    intro a m x h
    rw [cellsWrite, ih (a + 1) _ (by omega), kGet_kPut_ne (by omega)]

/-- What a byte reads as after a run of bytes is written. -/
theorem kGet_cellsWrite (bs : List Byte) : ∀ (a : Nat) (m : List Host.Cell) (x : Nat),
    kGet 0 x (cellsWrite m a bs) = if a ≤ x ∧ x < a + bs.length then bs.getD (x - a) 0 else kGet 0 x m := by
  induction bs with
  | nil =>
    intro a m x
    rw [if_neg (by simp only [List.length_nil]; omega)]; rfl
  | cons b bs ih =>
    intro a m x
    rw [cellsWrite, ih]
    rcases Nat.lt_trichotomy x a with h | h | h
    · rw [if_neg (by omega), if_neg (by omega), kGet_kPut_ne (by omega)]
    · subst h; rw [if_neg (by omega), if_pos (by simp)]; simp
    · have e : x - a = (x - (a + 1)) + 1 := by omega
      by_cases h2 : x < a + 1 + bs.length
      · rw [if_pos (by omega), if_pos (by simp only [List.length_cons]; omega), e]; simp
      · rw [if_neg (by omega), if_neg (by simp only [List.length_cons]; omega), kGet_kPut_ne (by omega)]

theorem cellsRead_length (m : List Host.Cell) : ∀ (n a : Nat), (cellsRead m a n).length = n
  | 0, _ => rfl
  | n + 1, a => by simp [cellsRead, cellsRead_length m n (a + 1)]

/-- HBM keeps its canonical form through the one operation that writes it. -/
theorem State.memPut_memWf (s : State) (pa : Nat) (bs : List Byte) (h : s.memWf = true) : (s.memPut pa bs).memWf = true := by
  unfold State.memPut; split
  · exact h
  · exact cellsWf_cellsWrite bs pa h

end Sys2Proof.Machine
end

