-- ==== Sys2Proof/Laws/State.lean ====
section
/-! SUPPORT. Sys2Proof/Laws/State.lean: what each update of the state leaves of each field, and what it writes reads back. -/

namespace Sys2Proof.Machine

/-! ## Updates of a core, a hand, a lane or a suit change no field but the cores -/

@[simp] theorem State.modCore_power (s : State) (c : CoreRef) (f : Core → Core) : (s.modCore c f).power = s.power := rfl
@[simp] theorem State.modCore_flash (s : State) (c : CoreRef) (f : Core → Core) : (s.modCore c f).flash = s.flash := rfl
@[simp] theorem State.modCore_fwRecovery (s : State) (c : CoreRef) (f : Core → Core) : (s.modCore c f).fwRecovery = s.fwRecovery := rfl
@[simp] theorem State.modCore_fwReason (s : State) (c : CoreRef) (f : Core → Core) : (s.modCore c f).fwReason = s.fwReason := rfl
@[simp] theorem State.modCore_fwVersion (s : State) (c : CoreRef) (f : Core → Core) : (s.modCore c f).fwVersion = s.fwVersion := rfl
@[simp] theorem State.modCore_clk (s : State) (c : CoreRef) (f : Core → Core) : (s.modCore c f).clk = s.clk := rfl
@[simp] theorem State.modCore_mem (s : State) (c : CoreRef) (f : Core → Core) : (s.modCore c f).mem = s.mem := rfl
@[simp] theorem State.modCore_frames (s : State) (c : CoreRef) (f : Core → Core) : (s.modCore c f).frames = s.frames := rfl
@[simp] theorem State.modCore_pois (s : State) (c : CoreRef) (f : Core → Core) : (s.modCore c f).pois = s.pois := rfl
@[simp] theorem State.modCore_lines (s : State) (c : CoreRef) (f : Core → Core) : (s.modCore c f).lines = s.lines := rfl
@[simp] theorem State.modCore_replicas (s : State) (c : CoreRef) (f : Core → Core) : (s.modCore c f).replicas = s.replicas := rfl
@[simp] theorem State.modCore_slices (s : State) (c : CoreRef) (f : Core → Core) : (s.modCore c f).slices = s.slices := rfl
@[simp] theorem State.modCore_share (s : State) (c : CoreRef) (f : Core → Core) : (s.modCore c f).share = s.share := rfl
@[simp] theorem State.modCore_overflow (s : State) (c : CoreRef) (f : Core → Core) : (s.modCore c f).overflow = s.overflow := rfl
@[simp] theorem State.modCore_waitRecs (s : State) (c : CoreRef) (f : Core → Core) : (s.modCore c f).waitRecs = s.waitRecs := rfl
@[simp] theorem State.modCore_ctxs (s : State) (c : CoreRef) (f : Core → Core) : (s.modCore c f).ctxs = s.ctxs := rfl
@[simp] theorem State.modCore_ops (s : State) (c : CoreRef) (f : Core → Core) : (s.modCore c f).ops = s.ops := rfl
@[simp] theorem State.modCore_reqs (s : State) (c : CoreRef) (f : Core → Core) : (s.modCore c f).reqs = s.reqs := rfl
@[simp] theorem State.modCore_claims (s : State) (c : CoreRef) (f : Core → Core) : (s.modCore c f).claims = s.claims := rfl
@[simp] theorem State.modCore_late (s : State) (c : CoreRef) (f : Core → Core) : (s.modCore c f).late = s.late := rfl
@[simp] theorem State.modCore_msgs (s : State) (c : CoreRef) (f : Core → Core) : (s.modCore c f).msgs = s.msgs := rfl
@[simp] theorem State.modCore_inSeq (s : State) (c : CoreRef) (f : Core → Core) : (s.modCore c f).inSeq = s.inSeq := rfl
@[simp] theorem State.modCore_inbox (s : State) (c : CoreRef) (f : Core → Core) : (s.modCore c f).inbox = s.inbox := rfl
@[simp] theorem State.modCore_portPts (s : State) (c : CoreRef) (f : Core → Core) : (s.modCore c f).portPts = s.portPts := rfl
@[simp] theorem State.modCore_tickets (s : State) (c : CoreRef) (f : Core → Core) : (s.modCore c f).tickets = s.tickets := rfl
@[simp] theorem State.modCore_parts (s : State) (c : CoreRef) (f : Core → Core) : (s.modCore c f).parts = s.parts := rfl
@[simp] theorem State.modCore_partsSealed (s : State) (c : CoreRef) (f : Core → Core) : (s.modCore c f).partsSealed = s.partsSealed := rfl
@[simp] theorem State.modCore_dies (s : State) (c : CoreRef) (f : Core → Core) : (s.modCore c f).dies = s.dies := rfl
@[simp] theorem State.modCore_badSites (s : State) (c : CoreRef) (f : Core → Core) : (s.modCore c f).badSites = s.badSites := rfl
@[simp] theorem State.modCore_badChans (s : State) (c : CoreRef) (f : Core → Core) : (s.modCore c f).badChans = s.badChans := rfl
@[simp] theorem State.modCore_badSlices (s : State) (c : CoreRef) (f : Core → Core) : (s.modCore c f).badSlices = s.badSlices := rfl
@[simp] theorem State.modCore_badLinks (s : State) (c : CoreRef) (f : Core → Core) : (s.modCore c f).badLinks = s.badLinks := rfl
@[simp] theorem State.modCore_badEngines (s : State) (c : CoreRef) (f : Core → Core) : (s.modCore c f).badEngines = s.badEngines := rfl
@[simp] theorem State.modCore_badPorts (s : State) (c : CoreRef) (f : Core → Core) : (s.modCore c f).badPorts = s.badPorts := rfl
@[simp] theorem State.modCore_badAcs (s : State) (c : CoreRef) (f : Core → Core) : (s.modCore c f).badAcs = s.badAcs := rfl
@[simp] theorem State.modCore_offChans (s : State) (c : CoreRef) (f : Core → Core) : (s.modCore c f).offChans = s.offChans := rfl
@[simp] theorem State.modCore_bist (s : State) (c : CoreRef) (f : Core → Core) : (s.modCore c f).bist = s.bist := rfl
@[simp] theorem State.modCore_derrt (s : State) (c : CoreRef) (f : Core → Core) : (s.modCore c f).derrt = s.derrt := rfl
@[simp] theorem State.modCore_derr (s : State) (c : CoreRef) (f : Core → Core) : (s.modCore c f).derr = s.derr := rfl
@[simp] theorem State.modCore_quarn (s : State) (c : CoreRef) (f : Core → Core) : (s.modCore c f).quarn = s.quarn := rfl
@[simp] theorem State.modCore_hwin (s : State) (c : CoreRef) (f : Core → Core) : (s.modCore c f).hwin = s.hwin := rfl
@[simp] theorem State.modCore_cresult (s : State) (c : CoreRef) (f : Core → Core) : (s.modCore c f).cresult = s.cresult := rfl
@[simp] theorem State.modCore_hosts (s : State) (c : CoreRef) (f : Core → Core) : (s.modCore c f).hosts = s.hosts := rfl
@[simp] theorem State.modCore_cpls (s : State) (c : CoreRef) (f : Core → Core) : (s.modCore c f).cpls = s.cpls := rfl
@[simp] theorem State.modCore_msis (s : State) (c : CoreRef) (f : Core → Core) : (s.modCore c f).msis = s.msis := rfl
@[simp] theorem State.modCore_replies (s : State) (c : CoreRef) (f : Core → Core) : (s.modCore c f).replies = s.replies := rfl
@[simp] theorem State.modCore_reports (s : State) (c : CoreRef) (f : Core → Core) : (s.modCore c f).reports = s.reports := rfl
@[simp] theorem State.modCore_frameOut (s : State) (c : CoreRef) (f : Core → Core) : (s.modCore c f).frameOut = s.frameOut := rfl
@[simp] theorem State.modCore_fatalOut (s : State) (c : CoreRef) (f : Core → Core) : (s.modCore c f).fatalOut = s.fatalOut := rfl
@[simp] theorem State.modCore_cur (s : State) (c : CoreRef) (f : Core → Core) : (s.modCore c f).cur = s.cur := rfl
@[simp] theorem State.modCore_npc (s : State) (c : CoreRef) (f : Core → Core) : (s.modCore c f).npc = s.npc := rfl
@[simp] theorem State.modCore_agenda (s : State) (c : CoreRef) (f : Core → Core) : (s.modCore c f).agenda = s.agenda := rfl
@[simp] theorem State.modCore_issued (s : State) (c : CoreRef) (f : Core → Core) : (s.modCore c f).issued = s.issued := rfl
@[simp] theorem State.modCore_leaseChoices (s : State) (c : CoreRef) (f : Core → Core) : (s.modCore c f).leaseChoices = s.leaseChoices := rfl
@[simp] theorem State.modCore_grantChoices (s : State) (c : CoreRef) (f : Core → Core) : (s.modCore c f).grantChoices = s.grantChoices := rfl
@[simp] theorem State.modCore_freeCount (s : State) (c : CoreRef) (f : Core → Core) : (s.modCore c f).freeCount = s.freeCount := rfl
@[simp] theorem State.modCore_nextEpoch (s : State) (c : CoreRef) (f : Core → Core) : (s.modCore c f).nextEpoch = s.nextEpoch := rfl
@[simp] theorem State.modCore_nextOp (s : State) (c : CoreRef) (f : Core → Core) : (s.modCore c f).nextOp = s.nextOp := rfl
@[simp] theorem State.modCore_nextReq (s : State) (c : CoreRef) (f : Core → Core) : (s.modCore c f).nextReq = s.nextReq := rfl
@[simp] theorem State.modCore_nextClaim (s : State) (c : CoreRef) (f : Core → Core) : (s.modCore c f).nextClaim = s.nextClaim := rfl
@[simp] theorem State.modCore_nextMsg (s : State) (c : CoreRef) (f : Core → Core) : (s.modCore c f).nextMsg = s.nextMsg := rfl
@[simp] theorem State.modCore_order (s : State) (c : CoreRef) (f : Core → Core) : (s.modCore c f).order = s.order := rfl
@[simp] theorem State.modCore_dealerAt (s : State) (c : CoreRef) (f : Core → Core) : (s.modCore c f).dealerAt = s.dealerAt := rfl
@[simp] theorem State.modCore_sampleAt (s : State) (c : CoreRef) (f : Core → Core) : (s.modCore c f).sampleAt = s.sampleAt := rfl
@[simp] theorem State.modCore_bandAt (s : State) (c : CoreRef) (f : Core → Core) : (s.modCore c f).bandAt = s.bandAt := rfl

@[simp] theorem State.modHand_power (s : State) (h : HandRef) (f : Hand → Hand) : (s.modHand h f).power = s.power := rfl
@[simp] theorem State.modHand_flash (s : State) (h : HandRef) (f : Hand → Hand) : (s.modHand h f).flash = s.flash := rfl
@[simp] theorem State.modHand_fwRecovery (s : State) (h : HandRef) (f : Hand → Hand) : (s.modHand h f).fwRecovery = s.fwRecovery := rfl
@[simp] theorem State.modHand_fwReason (s : State) (h : HandRef) (f : Hand → Hand) : (s.modHand h f).fwReason = s.fwReason := rfl
@[simp] theorem State.modHand_fwVersion (s : State) (h : HandRef) (f : Hand → Hand) : (s.modHand h f).fwVersion = s.fwVersion := rfl
@[simp] theorem State.modHand_clk (s : State) (h : HandRef) (f : Hand → Hand) : (s.modHand h f).clk = s.clk := rfl
@[simp] theorem State.modHand_mem (s : State) (h : HandRef) (f : Hand → Hand) : (s.modHand h f).mem = s.mem := rfl
@[simp] theorem State.modHand_frames (s : State) (h : HandRef) (f : Hand → Hand) : (s.modHand h f).frames = s.frames := rfl
@[simp] theorem State.modHand_pois (s : State) (h : HandRef) (f : Hand → Hand) : (s.modHand h f).pois = s.pois := rfl
@[simp] theorem State.modHand_lines (s : State) (h : HandRef) (f : Hand → Hand) : (s.modHand h f).lines = s.lines := rfl
@[simp] theorem State.modHand_replicas (s : State) (h : HandRef) (f : Hand → Hand) : (s.modHand h f).replicas = s.replicas := rfl
@[simp] theorem State.modHand_slices (s : State) (h : HandRef) (f : Hand → Hand) : (s.modHand h f).slices = s.slices := rfl
@[simp] theorem State.modHand_share (s : State) (h : HandRef) (f : Hand → Hand) : (s.modHand h f).share = s.share := rfl
@[simp] theorem State.modHand_overflow (s : State) (h : HandRef) (f : Hand → Hand) : (s.modHand h f).overflow = s.overflow := rfl
@[simp] theorem State.modHand_waitRecs (s : State) (h : HandRef) (f : Hand → Hand) : (s.modHand h f).waitRecs = s.waitRecs := rfl
@[simp] theorem State.modHand_ctxs (s : State) (h : HandRef) (f : Hand → Hand) : (s.modHand h f).ctxs = s.ctxs := rfl
@[simp] theorem State.modHand_ops (s : State) (h : HandRef) (f : Hand → Hand) : (s.modHand h f).ops = s.ops := rfl
@[simp] theorem State.modHand_reqs (s : State) (h : HandRef) (f : Hand → Hand) : (s.modHand h f).reqs = s.reqs := rfl
@[simp] theorem State.modHand_claims (s : State) (h : HandRef) (f : Hand → Hand) : (s.modHand h f).claims = s.claims := rfl
@[simp] theorem State.modHand_late (s : State) (h : HandRef) (f : Hand → Hand) : (s.modHand h f).late = s.late := rfl
@[simp] theorem State.modHand_msgs (s : State) (h : HandRef) (f : Hand → Hand) : (s.modHand h f).msgs = s.msgs := rfl
@[simp] theorem State.modHand_inSeq (s : State) (h : HandRef) (f : Hand → Hand) : (s.modHand h f).inSeq = s.inSeq := rfl
@[simp] theorem State.modHand_inbox (s : State) (h : HandRef) (f : Hand → Hand) : (s.modHand h f).inbox = s.inbox := rfl
@[simp] theorem State.modHand_portPts (s : State) (h : HandRef) (f : Hand → Hand) : (s.modHand h f).portPts = s.portPts := rfl
@[simp] theorem State.modHand_tickets (s : State) (h : HandRef) (f : Hand → Hand) : (s.modHand h f).tickets = s.tickets := rfl
@[simp] theorem State.modHand_parts (s : State) (h : HandRef) (f : Hand → Hand) : (s.modHand h f).parts = s.parts := rfl
@[simp] theorem State.modHand_partsSealed (s : State) (h : HandRef) (f : Hand → Hand) : (s.modHand h f).partsSealed = s.partsSealed := rfl
@[simp] theorem State.modHand_dies (s : State) (h : HandRef) (f : Hand → Hand) : (s.modHand h f).dies = s.dies := rfl
@[simp] theorem State.modHand_badSites (s : State) (h : HandRef) (f : Hand → Hand) : (s.modHand h f).badSites = s.badSites := rfl
@[simp] theorem State.modHand_badChans (s : State) (h : HandRef) (f : Hand → Hand) : (s.modHand h f).badChans = s.badChans := rfl
@[simp] theorem State.modHand_badSlices (s : State) (h : HandRef) (f : Hand → Hand) : (s.modHand h f).badSlices = s.badSlices := rfl
@[simp] theorem State.modHand_badLinks (s : State) (h : HandRef) (f : Hand → Hand) : (s.modHand h f).badLinks = s.badLinks := rfl
@[simp] theorem State.modHand_badEngines (s : State) (h : HandRef) (f : Hand → Hand) : (s.modHand h f).badEngines = s.badEngines := rfl
@[simp] theorem State.modHand_badPorts (s : State) (h : HandRef) (f : Hand → Hand) : (s.modHand h f).badPorts = s.badPorts := rfl
@[simp] theorem State.modHand_badAcs (s : State) (h : HandRef) (f : Hand → Hand) : (s.modHand h f).badAcs = s.badAcs := rfl
@[simp] theorem State.modHand_offChans (s : State) (h : HandRef) (f : Hand → Hand) : (s.modHand h f).offChans = s.offChans := rfl
@[simp] theorem State.modHand_bist (s : State) (h : HandRef) (f : Hand → Hand) : (s.modHand h f).bist = s.bist := rfl
@[simp] theorem State.modHand_derrt (s : State) (h : HandRef) (f : Hand → Hand) : (s.modHand h f).derrt = s.derrt := rfl
@[simp] theorem State.modHand_derr (s : State) (h : HandRef) (f : Hand → Hand) : (s.modHand h f).derr = s.derr := rfl
@[simp] theorem State.modHand_quarn (s : State) (h : HandRef) (f : Hand → Hand) : (s.modHand h f).quarn = s.quarn := rfl
@[simp] theorem State.modHand_hwin (s : State) (h : HandRef) (f : Hand → Hand) : (s.modHand h f).hwin = s.hwin := rfl
@[simp] theorem State.modHand_cresult (s : State) (h : HandRef) (f : Hand → Hand) : (s.modHand h f).cresult = s.cresult := rfl
@[simp] theorem State.modHand_hosts (s : State) (h : HandRef) (f : Hand → Hand) : (s.modHand h f).hosts = s.hosts := rfl
@[simp] theorem State.modHand_cpls (s : State) (h : HandRef) (f : Hand → Hand) : (s.modHand h f).cpls = s.cpls := rfl
@[simp] theorem State.modHand_msis (s : State) (h : HandRef) (f : Hand → Hand) : (s.modHand h f).msis = s.msis := rfl
@[simp] theorem State.modHand_replies (s : State) (h : HandRef) (f : Hand → Hand) : (s.modHand h f).replies = s.replies := rfl
@[simp] theorem State.modHand_reports (s : State) (h : HandRef) (f : Hand → Hand) : (s.modHand h f).reports = s.reports := rfl
@[simp] theorem State.modHand_frameOut (s : State) (h : HandRef) (f : Hand → Hand) : (s.modHand h f).frameOut = s.frameOut := rfl
@[simp] theorem State.modHand_fatalOut (s : State) (h : HandRef) (f : Hand → Hand) : (s.modHand h f).fatalOut = s.fatalOut := rfl
@[simp] theorem State.modHand_cur (s : State) (h : HandRef) (f : Hand → Hand) : (s.modHand h f).cur = s.cur := rfl
@[simp] theorem State.modHand_npc (s : State) (h : HandRef) (f : Hand → Hand) : (s.modHand h f).npc = s.npc := rfl
@[simp] theorem State.modHand_agenda (s : State) (h : HandRef) (f : Hand → Hand) : (s.modHand h f).agenda = s.agenda := rfl
@[simp] theorem State.modHand_issued (s : State) (h : HandRef) (f : Hand → Hand) : (s.modHand h f).issued = s.issued := rfl
@[simp] theorem State.modHand_leaseChoices (s : State) (h : HandRef) (f : Hand → Hand) : (s.modHand h f).leaseChoices = s.leaseChoices := rfl
@[simp] theorem State.modHand_grantChoices (s : State) (h : HandRef) (f : Hand → Hand) : (s.modHand h f).grantChoices = s.grantChoices := rfl
@[simp] theorem State.modHand_freeCount (s : State) (h : HandRef) (f : Hand → Hand) : (s.modHand h f).freeCount = s.freeCount := rfl
@[simp] theorem State.modHand_nextEpoch (s : State) (h : HandRef) (f : Hand → Hand) : (s.modHand h f).nextEpoch = s.nextEpoch := rfl
@[simp] theorem State.modHand_nextOp (s : State) (h : HandRef) (f : Hand → Hand) : (s.modHand h f).nextOp = s.nextOp := rfl
@[simp] theorem State.modHand_nextReq (s : State) (h : HandRef) (f : Hand → Hand) : (s.modHand h f).nextReq = s.nextReq := rfl
@[simp] theorem State.modHand_nextClaim (s : State) (h : HandRef) (f : Hand → Hand) : (s.modHand h f).nextClaim = s.nextClaim := rfl
@[simp] theorem State.modHand_nextMsg (s : State) (h : HandRef) (f : Hand → Hand) : (s.modHand h f).nextMsg = s.nextMsg := rfl
@[simp] theorem State.modHand_order (s : State) (h : HandRef) (f : Hand → Hand) : (s.modHand h f).order = s.order := rfl
@[simp] theorem State.modHand_dealerAt (s : State) (h : HandRef) (f : Hand → Hand) : (s.modHand h f).dealerAt = s.dealerAt := rfl
@[simp] theorem State.modHand_sampleAt (s : State) (h : HandRef) (f : Hand → Hand) : (s.modHand h f).sampleAt = s.sampleAt := rfl
@[simp] theorem State.modHand_bandAt (s : State) (h : HandRef) (f : Hand → Hand) : (s.modHand h f).bandAt = s.bandAt := rfl

@[simp] theorem State.modLane_power (s : State) (h : HandRef) (l : Nat) (f : Lane → Lane) : (s.modLane h l f).power = s.power := rfl
@[simp] theorem State.modLane_flash (s : State) (h : HandRef) (l : Nat) (f : Lane → Lane) : (s.modLane h l f).flash = s.flash := rfl
@[simp] theorem State.modLane_fwRecovery (s : State) (h : HandRef) (l : Nat) (f : Lane → Lane) : (s.modLane h l f).fwRecovery = s.fwRecovery := rfl
@[simp] theorem State.modLane_fwReason (s : State) (h : HandRef) (l : Nat) (f : Lane → Lane) : (s.modLane h l f).fwReason = s.fwReason := rfl
@[simp] theorem State.modLane_fwVersion (s : State) (h : HandRef) (l : Nat) (f : Lane → Lane) : (s.modLane h l f).fwVersion = s.fwVersion := rfl
@[simp] theorem State.modLane_clk (s : State) (h : HandRef) (l : Nat) (f : Lane → Lane) : (s.modLane h l f).clk = s.clk := rfl
@[simp] theorem State.modLane_mem (s : State) (h : HandRef) (l : Nat) (f : Lane → Lane) : (s.modLane h l f).mem = s.mem := rfl
@[simp] theorem State.modLane_frames (s : State) (h : HandRef) (l : Nat) (f : Lane → Lane) : (s.modLane h l f).frames = s.frames := rfl
@[simp] theorem State.modLane_pois (s : State) (h : HandRef) (l : Nat) (f : Lane → Lane) : (s.modLane h l f).pois = s.pois := rfl
@[simp] theorem State.modLane_lines (s : State) (h : HandRef) (l : Nat) (f : Lane → Lane) : (s.modLane h l f).lines = s.lines := rfl
@[simp] theorem State.modLane_replicas (s : State) (h : HandRef) (l : Nat) (f : Lane → Lane) : (s.modLane h l f).replicas = s.replicas := rfl
@[simp] theorem State.modLane_slices (s : State) (h : HandRef) (l : Nat) (f : Lane → Lane) : (s.modLane h l f).slices = s.slices := rfl
@[simp] theorem State.modLane_share (s : State) (h : HandRef) (l : Nat) (f : Lane → Lane) : (s.modLane h l f).share = s.share := rfl
@[simp] theorem State.modLane_overflow (s : State) (h : HandRef) (l : Nat) (f : Lane → Lane) : (s.modLane h l f).overflow = s.overflow := rfl
@[simp] theorem State.modLane_waitRecs (s : State) (h : HandRef) (l : Nat) (f : Lane → Lane) : (s.modLane h l f).waitRecs = s.waitRecs := rfl
@[simp] theorem State.modLane_ctxs (s : State) (h : HandRef) (l : Nat) (f : Lane → Lane) : (s.modLane h l f).ctxs = s.ctxs := rfl
@[simp] theorem State.modLane_ops (s : State) (h : HandRef) (l : Nat) (f : Lane → Lane) : (s.modLane h l f).ops = s.ops := rfl
@[simp] theorem State.modLane_reqs (s : State) (h : HandRef) (l : Nat) (f : Lane → Lane) : (s.modLane h l f).reqs = s.reqs := rfl
@[simp] theorem State.modLane_claims (s : State) (h : HandRef) (l : Nat) (f : Lane → Lane) : (s.modLane h l f).claims = s.claims := rfl
@[simp] theorem State.modLane_late (s : State) (h : HandRef) (l : Nat) (f : Lane → Lane) : (s.modLane h l f).late = s.late := rfl
@[simp] theorem State.modLane_msgs (s : State) (h : HandRef) (l : Nat) (f : Lane → Lane) : (s.modLane h l f).msgs = s.msgs := rfl
@[simp] theorem State.modLane_inSeq (s : State) (h : HandRef) (l : Nat) (f : Lane → Lane) : (s.modLane h l f).inSeq = s.inSeq := rfl
@[simp] theorem State.modLane_inbox (s : State) (h : HandRef) (l : Nat) (f : Lane → Lane) : (s.modLane h l f).inbox = s.inbox := rfl
@[simp] theorem State.modLane_portPts (s : State) (h : HandRef) (l : Nat) (f : Lane → Lane) : (s.modLane h l f).portPts = s.portPts := rfl
@[simp] theorem State.modLane_tickets (s : State) (h : HandRef) (l : Nat) (f : Lane → Lane) : (s.modLane h l f).tickets = s.tickets := rfl
@[simp] theorem State.modLane_parts (s : State) (h : HandRef) (l : Nat) (f : Lane → Lane) : (s.modLane h l f).parts = s.parts := rfl
@[simp] theorem State.modLane_partsSealed (s : State) (h : HandRef) (l : Nat) (f : Lane → Lane) : (s.modLane h l f).partsSealed = s.partsSealed := rfl
@[simp] theorem State.modLane_dies (s : State) (h : HandRef) (l : Nat) (f : Lane → Lane) : (s.modLane h l f).dies = s.dies := rfl
@[simp] theorem State.modLane_badSites (s : State) (h : HandRef) (l : Nat) (f : Lane → Lane) : (s.modLane h l f).badSites = s.badSites := rfl
@[simp] theorem State.modLane_badChans (s : State) (h : HandRef) (l : Nat) (f : Lane → Lane) : (s.modLane h l f).badChans = s.badChans := rfl
@[simp] theorem State.modLane_badSlices (s : State) (h : HandRef) (l : Nat) (f : Lane → Lane) : (s.modLane h l f).badSlices = s.badSlices := rfl
@[simp] theorem State.modLane_badLinks (s : State) (h : HandRef) (l : Nat) (f : Lane → Lane) : (s.modLane h l f).badLinks = s.badLinks := rfl
@[simp] theorem State.modLane_badEngines (s : State) (h : HandRef) (l : Nat) (f : Lane → Lane) : (s.modLane h l f).badEngines = s.badEngines := rfl
@[simp] theorem State.modLane_badPorts (s : State) (h : HandRef) (l : Nat) (f : Lane → Lane) : (s.modLane h l f).badPorts = s.badPorts := rfl
@[simp] theorem State.modLane_badAcs (s : State) (h : HandRef) (l : Nat) (f : Lane → Lane) : (s.modLane h l f).badAcs = s.badAcs := rfl
@[simp] theorem State.modLane_offChans (s : State) (h : HandRef) (l : Nat) (f : Lane → Lane) : (s.modLane h l f).offChans = s.offChans := rfl
@[simp] theorem State.modLane_bist (s : State) (h : HandRef) (l : Nat) (f : Lane → Lane) : (s.modLane h l f).bist = s.bist := rfl
@[simp] theorem State.modLane_derrt (s : State) (h : HandRef) (l : Nat) (f : Lane → Lane) : (s.modLane h l f).derrt = s.derrt := rfl
@[simp] theorem State.modLane_derr (s : State) (h : HandRef) (l : Nat) (f : Lane → Lane) : (s.modLane h l f).derr = s.derr := rfl
@[simp] theorem State.modLane_quarn (s : State) (h : HandRef) (l : Nat) (f : Lane → Lane) : (s.modLane h l f).quarn = s.quarn := rfl
@[simp] theorem State.modLane_hwin (s : State) (h : HandRef) (l : Nat) (f : Lane → Lane) : (s.modLane h l f).hwin = s.hwin := rfl
@[simp] theorem State.modLane_cresult (s : State) (h : HandRef) (l : Nat) (f : Lane → Lane) : (s.modLane h l f).cresult = s.cresult := rfl
@[simp] theorem State.modLane_hosts (s : State) (h : HandRef) (l : Nat) (f : Lane → Lane) : (s.modLane h l f).hosts = s.hosts := rfl
@[simp] theorem State.modLane_cpls (s : State) (h : HandRef) (l : Nat) (f : Lane → Lane) : (s.modLane h l f).cpls = s.cpls := rfl
@[simp] theorem State.modLane_msis (s : State) (h : HandRef) (l : Nat) (f : Lane → Lane) : (s.modLane h l f).msis = s.msis := rfl
@[simp] theorem State.modLane_replies (s : State) (h : HandRef) (l : Nat) (f : Lane → Lane) : (s.modLane h l f).replies = s.replies := rfl
@[simp] theorem State.modLane_reports (s : State) (h : HandRef) (l : Nat) (f : Lane → Lane) : (s.modLane h l f).reports = s.reports := rfl
@[simp] theorem State.modLane_frameOut (s : State) (h : HandRef) (l : Nat) (f : Lane → Lane) : (s.modLane h l f).frameOut = s.frameOut := rfl
@[simp] theorem State.modLane_fatalOut (s : State) (h : HandRef) (l : Nat) (f : Lane → Lane) : (s.modLane h l f).fatalOut = s.fatalOut := rfl
@[simp] theorem State.modLane_cur (s : State) (h : HandRef) (l : Nat) (f : Lane → Lane) : (s.modLane h l f).cur = s.cur := rfl
@[simp] theorem State.modLane_npc (s : State) (h : HandRef) (l : Nat) (f : Lane → Lane) : (s.modLane h l f).npc = s.npc := rfl
@[simp] theorem State.modLane_agenda (s : State) (h : HandRef) (l : Nat) (f : Lane → Lane) : (s.modLane h l f).agenda = s.agenda := rfl
@[simp] theorem State.modLane_issued (s : State) (h : HandRef) (l : Nat) (f : Lane → Lane) : (s.modLane h l f).issued = s.issued := rfl
@[simp] theorem State.modLane_leaseChoices (s : State) (h : HandRef) (l : Nat) (f : Lane → Lane) : (s.modLane h l f).leaseChoices = s.leaseChoices := rfl
@[simp] theorem State.modLane_grantChoices (s : State) (h : HandRef) (l : Nat) (f : Lane → Lane) : (s.modLane h l f).grantChoices = s.grantChoices := rfl
@[simp] theorem State.modLane_freeCount (s : State) (h : HandRef) (l : Nat) (f : Lane → Lane) : (s.modLane h l f).freeCount = s.freeCount := rfl
@[simp] theorem State.modLane_nextEpoch (s : State) (h : HandRef) (l : Nat) (f : Lane → Lane) : (s.modLane h l f).nextEpoch = s.nextEpoch := rfl
@[simp] theorem State.modLane_nextOp (s : State) (h : HandRef) (l : Nat) (f : Lane → Lane) : (s.modLane h l f).nextOp = s.nextOp := rfl
@[simp] theorem State.modLane_nextReq (s : State) (h : HandRef) (l : Nat) (f : Lane → Lane) : (s.modLane h l f).nextReq = s.nextReq := rfl
@[simp] theorem State.modLane_nextClaim (s : State) (h : HandRef) (l : Nat) (f : Lane → Lane) : (s.modLane h l f).nextClaim = s.nextClaim := rfl
@[simp] theorem State.modLane_nextMsg (s : State) (h : HandRef) (l : Nat) (f : Lane → Lane) : (s.modLane h l f).nextMsg = s.nextMsg := rfl
@[simp] theorem State.modLane_order (s : State) (h : HandRef) (l : Nat) (f : Lane → Lane) : (s.modLane h l f).order = s.order := rfl
@[simp] theorem State.modLane_dealerAt (s : State) (h : HandRef) (l : Nat) (f : Lane → Lane) : (s.modLane h l f).dealerAt = s.dealerAt := rfl
@[simp] theorem State.modLane_sampleAt (s : State) (h : HandRef) (l : Nat) (f : Lane → Lane) : (s.modLane h l f).sampleAt = s.sampleAt := rfl
@[simp] theorem State.modLane_bandAt (s : State) (h : HandRef) (l : Nat) (f : Lane → Lane) : (s.modLane h l f).bandAt = s.bandAt := rfl

@[simp] theorem State.modSuit_power (s : State) (r : SuitRef) (f : Suit → Suit) : (s.modSuit r f).power = s.power := rfl
@[simp] theorem State.modSuit_flash (s : State) (r : SuitRef) (f : Suit → Suit) : (s.modSuit r f).flash = s.flash := rfl
@[simp] theorem State.modSuit_fwRecovery (s : State) (r : SuitRef) (f : Suit → Suit) : (s.modSuit r f).fwRecovery = s.fwRecovery := rfl
@[simp] theorem State.modSuit_fwReason (s : State) (r : SuitRef) (f : Suit → Suit) : (s.modSuit r f).fwReason = s.fwReason := rfl
@[simp] theorem State.modSuit_fwVersion (s : State) (r : SuitRef) (f : Suit → Suit) : (s.modSuit r f).fwVersion = s.fwVersion := rfl
@[simp] theorem State.modSuit_clk (s : State) (r : SuitRef) (f : Suit → Suit) : (s.modSuit r f).clk = s.clk := rfl
@[simp] theorem State.modSuit_mem (s : State) (r : SuitRef) (f : Suit → Suit) : (s.modSuit r f).mem = s.mem := rfl
@[simp] theorem State.modSuit_frames (s : State) (r : SuitRef) (f : Suit → Suit) : (s.modSuit r f).frames = s.frames := rfl
@[simp] theorem State.modSuit_pois (s : State) (r : SuitRef) (f : Suit → Suit) : (s.modSuit r f).pois = s.pois := rfl
@[simp] theorem State.modSuit_lines (s : State) (r : SuitRef) (f : Suit → Suit) : (s.modSuit r f).lines = s.lines := rfl
@[simp] theorem State.modSuit_replicas (s : State) (r : SuitRef) (f : Suit → Suit) : (s.modSuit r f).replicas = s.replicas := rfl
@[simp] theorem State.modSuit_slices (s : State) (r : SuitRef) (f : Suit → Suit) : (s.modSuit r f).slices = s.slices := rfl
@[simp] theorem State.modSuit_share (s : State) (r : SuitRef) (f : Suit → Suit) : (s.modSuit r f).share = s.share := rfl
@[simp] theorem State.modSuit_overflow (s : State) (r : SuitRef) (f : Suit → Suit) : (s.modSuit r f).overflow = s.overflow := rfl
@[simp] theorem State.modSuit_waitRecs (s : State) (r : SuitRef) (f : Suit → Suit) : (s.modSuit r f).waitRecs = s.waitRecs := rfl
@[simp] theorem State.modSuit_ctxs (s : State) (r : SuitRef) (f : Suit → Suit) : (s.modSuit r f).ctxs = s.ctxs := rfl
@[simp] theorem State.modSuit_ops (s : State) (r : SuitRef) (f : Suit → Suit) : (s.modSuit r f).ops = s.ops := rfl
@[simp] theorem State.modSuit_reqs (s : State) (r : SuitRef) (f : Suit → Suit) : (s.modSuit r f).reqs = s.reqs := rfl
@[simp] theorem State.modSuit_claims (s : State) (r : SuitRef) (f : Suit → Suit) : (s.modSuit r f).claims = s.claims := rfl
@[simp] theorem State.modSuit_late (s : State) (r : SuitRef) (f : Suit → Suit) : (s.modSuit r f).late = s.late := rfl
@[simp] theorem State.modSuit_msgs (s : State) (r : SuitRef) (f : Suit → Suit) : (s.modSuit r f).msgs = s.msgs := rfl
@[simp] theorem State.modSuit_inSeq (s : State) (r : SuitRef) (f : Suit → Suit) : (s.modSuit r f).inSeq = s.inSeq := rfl
@[simp] theorem State.modSuit_inbox (s : State) (r : SuitRef) (f : Suit → Suit) : (s.modSuit r f).inbox = s.inbox := rfl
@[simp] theorem State.modSuit_portPts (s : State) (r : SuitRef) (f : Suit → Suit) : (s.modSuit r f).portPts = s.portPts := rfl
@[simp] theorem State.modSuit_tickets (s : State) (r : SuitRef) (f : Suit → Suit) : (s.modSuit r f).tickets = s.tickets := rfl
@[simp] theorem State.modSuit_parts (s : State) (r : SuitRef) (f : Suit → Suit) : (s.modSuit r f).parts = s.parts := rfl
@[simp] theorem State.modSuit_partsSealed (s : State) (r : SuitRef) (f : Suit → Suit) : (s.modSuit r f).partsSealed = s.partsSealed := rfl
@[simp] theorem State.modSuit_dies (s : State) (r : SuitRef) (f : Suit → Suit) : (s.modSuit r f).dies = s.dies := rfl
@[simp] theorem State.modSuit_badSites (s : State) (r : SuitRef) (f : Suit → Suit) : (s.modSuit r f).badSites = s.badSites := rfl
@[simp] theorem State.modSuit_badChans (s : State) (r : SuitRef) (f : Suit → Suit) : (s.modSuit r f).badChans = s.badChans := rfl
@[simp] theorem State.modSuit_badSlices (s : State) (r : SuitRef) (f : Suit → Suit) : (s.modSuit r f).badSlices = s.badSlices := rfl
@[simp] theorem State.modSuit_badLinks (s : State) (r : SuitRef) (f : Suit → Suit) : (s.modSuit r f).badLinks = s.badLinks := rfl
@[simp] theorem State.modSuit_badEngines (s : State) (r : SuitRef) (f : Suit → Suit) : (s.modSuit r f).badEngines = s.badEngines := rfl
@[simp] theorem State.modSuit_badPorts (s : State) (r : SuitRef) (f : Suit → Suit) : (s.modSuit r f).badPorts = s.badPorts := rfl
@[simp] theorem State.modSuit_badAcs (s : State) (r : SuitRef) (f : Suit → Suit) : (s.modSuit r f).badAcs = s.badAcs := rfl
@[simp] theorem State.modSuit_offChans (s : State) (r : SuitRef) (f : Suit → Suit) : (s.modSuit r f).offChans = s.offChans := rfl
@[simp] theorem State.modSuit_bist (s : State) (r : SuitRef) (f : Suit → Suit) : (s.modSuit r f).bist = s.bist := rfl
@[simp] theorem State.modSuit_derrt (s : State) (r : SuitRef) (f : Suit → Suit) : (s.modSuit r f).derrt = s.derrt := rfl
@[simp] theorem State.modSuit_derr (s : State) (r : SuitRef) (f : Suit → Suit) : (s.modSuit r f).derr = s.derr := rfl
@[simp] theorem State.modSuit_quarn (s : State) (r : SuitRef) (f : Suit → Suit) : (s.modSuit r f).quarn = s.quarn := rfl
@[simp] theorem State.modSuit_hwin (s : State) (r : SuitRef) (f : Suit → Suit) : (s.modSuit r f).hwin = s.hwin := rfl
@[simp] theorem State.modSuit_cresult (s : State) (r : SuitRef) (f : Suit → Suit) : (s.modSuit r f).cresult = s.cresult := rfl
@[simp] theorem State.modSuit_hosts (s : State) (r : SuitRef) (f : Suit → Suit) : (s.modSuit r f).hosts = s.hosts := rfl
@[simp] theorem State.modSuit_cpls (s : State) (r : SuitRef) (f : Suit → Suit) : (s.modSuit r f).cpls = s.cpls := rfl
@[simp] theorem State.modSuit_msis (s : State) (r : SuitRef) (f : Suit → Suit) : (s.modSuit r f).msis = s.msis := rfl
@[simp] theorem State.modSuit_replies (s : State) (r : SuitRef) (f : Suit → Suit) : (s.modSuit r f).replies = s.replies := rfl
@[simp] theorem State.modSuit_reports (s : State) (r : SuitRef) (f : Suit → Suit) : (s.modSuit r f).reports = s.reports := rfl
@[simp] theorem State.modSuit_frameOut (s : State) (r : SuitRef) (f : Suit → Suit) : (s.modSuit r f).frameOut = s.frameOut := rfl
@[simp] theorem State.modSuit_fatalOut (s : State) (r : SuitRef) (f : Suit → Suit) : (s.modSuit r f).fatalOut = s.fatalOut := rfl
@[simp] theorem State.modSuit_cur (s : State) (r : SuitRef) (f : Suit → Suit) : (s.modSuit r f).cur = s.cur := rfl
@[simp] theorem State.modSuit_npc (s : State) (r : SuitRef) (f : Suit → Suit) : (s.modSuit r f).npc = s.npc := rfl
@[simp] theorem State.modSuit_agenda (s : State) (r : SuitRef) (f : Suit → Suit) : (s.modSuit r f).agenda = s.agenda := rfl
@[simp] theorem State.modSuit_issued (s : State) (r : SuitRef) (f : Suit → Suit) : (s.modSuit r f).issued = s.issued := rfl
@[simp] theorem State.modSuit_leaseChoices (s : State) (r : SuitRef) (f : Suit → Suit) : (s.modSuit r f).leaseChoices = s.leaseChoices := rfl
@[simp] theorem State.modSuit_grantChoices (s : State) (r : SuitRef) (f : Suit → Suit) : (s.modSuit r f).grantChoices = s.grantChoices := rfl
@[simp] theorem State.modSuit_freeCount (s : State) (r : SuitRef) (f : Suit → Suit) : (s.modSuit r f).freeCount = s.freeCount := rfl
@[simp] theorem State.modSuit_nextEpoch (s : State) (r : SuitRef) (f : Suit → Suit) : (s.modSuit r f).nextEpoch = s.nextEpoch := rfl
@[simp] theorem State.modSuit_nextOp (s : State) (r : SuitRef) (f : Suit → Suit) : (s.modSuit r f).nextOp = s.nextOp := rfl
@[simp] theorem State.modSuit_nextReq (s : State) (r : SuitRef) (f : Suit → Suit) : (s.modSuit r f).nextReq = s.nextReq := rfl
@[simp] theorem State.modSuit_nextClaim (s : State) (r : SuitRef) (f : Suit → Suit) : (s.modSuit r f).nextClaim = s.nextClaim := rfl
@[simp] theorem State.modSuit_nextMsg (s : State) (r : SuitRef) (f : Suit → Suit) : (s.modSuit r f).nextMsg = s.nextMsg := rfl
@[simp] theorem State.modSuit_order (s : State) (r : SuitRef) (f : Suit → Suit) : (s.modSuit r f).order = s.order := rfl
@[simp] theorem State.modSuit_dealerAt (s : State) (r : SuitRef) (f : Suit → Suit) : (s.modSuit r f).dealerAt = s.dealerAt := rfl
@[simp] theorem State.modSuit_sampleAt (s : State) (r : SuitRef) (f : Suit → Suit) : (s.modSuit r f).sampleAt = s.sampleAt := rfl
@[simp] theorem State.modSuit_bandAt (s : State) (r : SuitRef) (f : Suit → Suit) : (s.modSuit r f).bandAt = s.bandAt := rfl

/-! ## Updates of a context or a kernel change no field but the contexts -/

@[simp] theorem State.modCtx_power (s : State) (c : Nat) (f : Ctx → Ctx) : (s.modCtx c f).power = s.power := by unfold State.modCtx; split <;> rfl
@[simp] theorem State.modCtx_flash (s : State) (c : Nat) (f : Ctx → Ctx) : (s.modCtx c f).flash = s.flash := by unfold State.modCtx; split <;> rfl
@[simp] theorem State.modCtx_fwRecovery (s : State) (c : Nat) (f : Ctx → Ctx) : (s.modCtx c f).fwRecovery = s.fwRecovery := by unfold State.modCtx; split <;> rfl
@[simp] theorem State.modCtx_fwReason (s : State) (c : Nat) (f : Ctx → Ctx) : (s.modCtx c f).fwReason = s.fwReason := by unfold State.modCtx; split <;> rfl
@[simp] theorem State.modCtx_fwVersion (s : State) (c : Nat) (f : Ctx → Ctx) : (s.modCtx c f).fwVersion = s.fwVersion := by unfold State.modCtx; split <;> rfl
@[simp] theorem State.modCtx_clk (s : State) (c : Nat) (f : Ctx → Ctx) : (s.modCtx c f).clk = s.clk := by unfold State.modCtx; split <;> rfl
@[simp] theorem State.modCtx_mem (s : State) (c : Nat) (f : Ctx → Ctx) : (s.modCtx c f).mem = s.mem := by unfold State.modCtx; split <;> rfl
@[simp] theorem State.modCtx_frames (s : State) (c : Nat) (f : Ctx → Ctx) : (s.modCtx c f).frames = s.frames := by unfold State.modCtx; split <;> rfl
@[simp] theorem State.modCtx_pois (s : State) (c : Nat) (f : Ctx → Ctx) : (s.modCtx c f).pois = s.pois := by unfold State.modCtx; split <;> rfl
@[simp] theorem State.modCtx_lines (s : State) (c : Nat) (f : Ctx → Ctx) : (s.modCtx c f).lines = s.lines := by unfold State.modCtx; split <;> rfl
@[simp] theorem State.modCtx_replicas (s : State) (c : Nat) (f : Ctx → Ctx) : (s.modCtx c f).replicas = s.replicas := by unfold State.modCtx; split <;> rfl
@[simp] theorem State.modCtx_slices (s : State) (c : Nat) (f : Ctx → Ctx) : (s.modCtx c f).slices = s.slices := by unfold State.modCtx; split <;> rfl
@[simp] theorem State.modCtx_share (s : State) (c : Nat) (f : Ctx → Ctx) : (s.modCtx c f).share = s.share := by unfold State.modCtx; split <;> rfl
@[simp] theorem State.modCtx_overflow (s : State) (c : Nat) (f : Ctx → Ctx) : (s.modCtx c f).overflow = s.overflow := by unfold State.modCtx; split <;> rfl
@[simp] theorem State.modCtx_waitRecs (s : State) (c : Nat) (f : Ctx → Ctx) : (s.modCtx c f).waitRecs = s.waitRecs := by unfold State.modCtx; split <;> rfl
@[simp] theorem State.modCtx_cores (s : State) (c : Nat) (f : Ctx → Ctx) : (s.modCtx c f).cores = s.cores := by unfold State.modCtx; split <;> rfl
@[simp] theorem State.modCtx_ops (s : State) (c : Nat) (f : Ctx → Ctx) : (s.modCtx c f).ops = s.ops := by unfold State.modCtx; split <;> rfl
@[simp] theorem State.modCtx_reqs (s : State) (c : Nat) (f : Ctx → Ctx) : (s.modCtx c f).reqs = s.reqs := by unfold State.modCtx; split <;> rfl
@[simp] theorem State.modCtx_claims (s : State) (c : Nat) (f : Ctx → Ctx) : (s.modCtx c f).claims = s.claims := by unfold State.modCtx; split <;> rfl
@[simp] theorem State.modCtx_late (s : State) (c : Nat) (f : Ctx → Ctx) : (s.modCtx c f).late = s.late := by unfold State.modCtx; split <;> rfl
@[simp] theorem State.modCtx_msgs (s : State) (c : Nat) (f : Ctx → Ctx) : (s.modCtx c f).msgs = s.msgs := by unfold State.modCtx; split <;> rfl
@[simp] theorem State.modCtx_inSeq (s : State) (c : Nat) (f : Ctx → Ctx) : (s.modCtx c f).inSeq = s.inSeq := by unfold State.modCtx; split <;> rfl
@[simp] theorem State.modCtx_inbox (s : State) (c : Nat) (f : Ctx → Ctx) : (s.modCtx c f).inbox = s.inbox := by unfold State.modCtx; split <;> rfl
@[simp] theorem State.modCtx_portPts (s : State) (c : Nat) (f : Ctx → Ctx) : (s.modCtx c f).portPts = s.portPts := by unfold State.modCtx; split <;> rfl
@[simp] theorem State.modCtx_tickets (s : State) (c : Nat) (f : Ctx → Ctx) : (s.modCtx c f).tickets = s.tickets := by unfold State.modCtx; split <;> rfl
@[simp] theorem State.modCtx_parts (s : State) (c : Nat) (f : Ctx → Ctx) : (s.modCtx c f).parts = s.parts := by unfold State.modCtx; split <;> rfl
@[simp] theorem State.modCtx_partsSealed (s : State) (c : Nat) (f : Ctx → Ctx) : (s.modCtx c f).partsSealed = s.partsSealed := by unfold State.modCtx; split <;> rfl
@[simp] theorem State.modCtx_dies (s : State) (c : Nat) (f : Ctx → Ctx) : (s.modCtx c f).dies = s.dies := by unfold State.modCtx; split <;> rfl
@[simp] theorem State.modCtx_badSites (s : State) (c : Nat) (f : Ctx → Ctx) : (s.modCtx c f).badSites = s.badSites := by unfold State.modCtx; split <;> rfl
@[simp] theorem State.modCtx_badChans (s : State) (c : Nat) (f : Ctx → Ctx) : (s.modCtx c f).badChans = s.badChans := by unfold State.modCtx; split <;> rfl
@[simp] theorem State.modCtx_badSlices (s : State) (c : Nat) (f : Ctx → Ctx) : (s.modCtx c f).badSlices = s.badSlices := by unfold State.modCtx; split <;> rfl
@[simp] theorem State.modCtx_badLinks (s : State) (c : Nat) (f : Ctx → Ctx) : (s.modCtx c f).badLinks = s.badLinks := by unfold State.modCtx; split <;> rfl
@[simp] theorem State.modCtx_badEngines (s : State) (c : Nat) (f : Ctx → Ctx) : (s.modCtx c f).badEngines = s.badEngines := by unfold State.modCtx; split <;> rfl
@[simp] theorem State.modCtx_badPorts (s : State) (c : Nat) (f : Ctx → Ctx) : (s.modCtx c f).badPorts = s.badPorts := by unfold State.modCtx; split <;> rfl
@[simp] theorem State.modCtx_badAcs (s : State) (c : Nat) (f : Ctx → Ctx) : (s.modCtx c f).badAcs = s.badAcs := by unfold State.modCtx; split <;> rfl
@[simp] theorem State.modCtx_offChans (s : State) (c : Nat) (f : Ctx → Ctx) : (s.modCtx c f).offChans = s.offChans := by unfold State.modCtx; split <;> rfl
@[simp] theorem State.modCtx_bist (s : State) (c : Nat) (f : Ctx → Ctx) : (s.modCtx c f).bist = s.bist := by unfold State.modCtx; split <;> rfl
@[simp] theorem State.modCtx_derrt (s : State) (c : Nat) (f : Ctx → Ctx) : (s.modCtx c f).derrt = s.derrt := by unfold State.modCtx; split <;> rfl
@[simp] theorem State.modCtx_derr (s : State) (c : Nat) (f : Ctx → Ctx) : (s.modCtx c f).derr = s.derr := by unfold State.modCtx; split <;> rfl
@[simp] theorem State.modCtx_quarn (s : State) (c : Nat) (f : Ctx → Ctx) : (s.modCtx c f).quarn = s.quarn := by unfold State.modCtx; split <;> rfl
@[simp] theorem State.modCtx_hwin (s : State) (c : Nat) (f : Ctx → Ctx) : (s.modCtx c f).hwin = s.hwin := by unfold State.modCtx; split <;> rfl
@[simp] theorem State.modCtx_cresult (s : State) (c : Nat) (f : Ctx → Ctx) : (s.modCtx c f).cresult = s.cresult := by unfold State.modCtx; split <;> rfl
@[simp] theorem State.modCtx_hosts (s : State) (c : Nat) (f : Ctx → Ctx) : (s.modCtx c f).hosts = s.hosts := by unfold State.modCtx; split <;> rfl
@[simp] theorem State.modCtx_cpls (s : State) (c : Nat) (f : Ctx → Ctx) : (s.modCtx c f).cpls = s.cpls := by unfold State.modCtx; split <;> rfl
@[simp] theorem State.modCtx_msis (s : State) (c : Nat) (f : Ctx → Ctx) : (s.modCtx c f).msis = s.msis := by unfold State.modCtx; split <;> rfl
@[simp] theorem State.modCtx_replies (s : State) (c : Nat) (f : Ctx → Ctx) : (s.modCtx c f).replies = s.replies := by unfold State.modCtx; split <;> rfl
@[simp] theorem State.modCtx_reports (s : State) (c : Nat) (f : Ctx → Ctx) : (s.modCtx c f).reports = s.reports := by unfold State.modCtx; split <;> rfl
@[simp] theorem State.modCtx_frameOut (s : State) (c : Nat) (f : Ctx → Ctx) : (s.modCtx c f).frameOut = s.frameOut := by unfold State.modCtx; split <;> rfl
@[simp] theorem State.modCtx_fatalOut (s : State) (c : Nat) (f : Ctx → Ctx) : (s.modCtx c f).fatalOut = s.fatalOut := by unfold State.modCtx; split <;> rfl
@[simp] theorem State.modCtx_cur (s : State) (c : Nat) (f : Ctx → Ctx) : (s.modCtx c f).cur = s.cur := by unfold State.modCtx; split <;> rfl
@[simp] theorem State.modCtx_npc (s : State) (c : Nat) (f : Ctx → Ctx) : (s.modCtx c f).npc = s.npc := by unfold State.modCtx; split <;> rfl
@[simp] theorem State.modCtx_agenda (s : State) (c : Nat) (f : Ctx → Ctx) : (s.modCtx c f).agenda = s.agenda := by unfold State.modCtx; split <;> rfl
@[simp] theorem State.modCtx_issued (s : State) (c : Nat) (f : Ctx → Ctx) : (s.modCtx c f).issued = s.issued := by unfold State.modCtx; split <;> rfl
@[simp] theorem State.modCtx_leaseChoices (s : State) (c : Nat) (f : Ctx → Ctx) : (s.modCtx c f).leaseChoices = s.leaseChoices := by unfold State.modCtx; split <;> rfl
@[simp] theorem State.modCtx_grantChoices (s : State) (c : Nat) (f : Ctx → Ctx) : (s.modCtx c f).grantChoices = s.grantChoices := by unfold State.modCtx; split <;> rfl
@[simp] theorem State.modCtx_freeCount (s : State) (c : Nat) (f : Ctx → Ctx) : (s.modCtx c f).freeCount = s.freeCount := by unfold State.modCtx; split <;> rfl
@[simp] theorem State.modCtx_nextEpoch (s : State) (c : Nat) (f : Ctx → Ctx) : (s.modCtx c f).nextEpoch = s.nextEpoch := by unfold State.modCtx; split <;> rfl
@[simp] theorem State.modCtx_nextOp (s : State) (c : Nat) (f : Ctx → Ctx) : (s.modCtx c f).nextOp = s.nextOp := by unfold State.modCtx; split <;> rfl
@[simp] theorem State.modCtx_nextReq (s : State) (c : Nat) (f : Ctx → Ctx) : (s.modCtx c f).nextReq = s.nextReq := by unfold State.modCtx; split <;> rfl
@[simp] theorem State.modCtx_nextClaim (s : State) (c : Nat) (f : Ctx → Ctx) : (s.modCtx c f).nextClaim = s.nextClaim := by unfold State.modCtx; split <;> rfl
@[simp] theorem State.modCtx_nextMsg (s : State) (c : Nat) (f : Ctx → Ctx) : (s.modCtx c f).nextMsg = s.nextMsg := by unfold State.modCtx; split <;> rfl
@[simp] theorem State.modCtx_order (s : State) (c : Nat) (f : Ctx → Ctx) : (s.modCtx c f).order = s.order := by unfold State.modCtx; split <;> rfl
@[simp] theorem State.modCtx_dealerAt (s : State) (c : Nat) (f : Ctx → Ctx) : (s.modCtx c f).dealerAt = s.dealerAt := by unfold State.modCtx; split <;> rfl
@[simp] theorem State.modCtx_sampleAt (s : State) (c : Nat) (f : Ctx → Ctx) : (s.modCtx c f).sampleAt = s.sampleAt := by unfold State.modCtx; split <;> rfl
@[simp] theorem State.modCtx_bandAt (s : State) (c : Nat) (f : Ctx → Ctx) : (s.modCtx c f).bandAt = s.bandAt := by unfold State.modCtx; split <;> rfl

@[simp] theorem State.modKern_power (s : State) (c k : Nat) (f : Kernel → Kernel) : (s.modKern c k f).power = s.power := State.modCtx_power s _ _
@[simp] theorem State.modKern_flash (s : State) (c k : Nat) (f : Kernel → Kernel) : (s.modKern c k f).flash = s.flash := State.modCtx_flash s _ _
@[simp] theorem State.modKern_fwRecovery (s : State) (c k : Nat) (f : Kernel → Kernel) : (s.modKern c k f).fwRecovery = s.fwRecovery := State.modCtx_fwRecovery s _ _
@[simp] theorem State.modKern_fwReason (s : State) (c k : Nat) (f : Kernel → Kernel) : (s.modKern c k f).fwReason = s.fwReason := State.modCtx_fwReason s _ _
@[simp] theorem State.modKern_fwVersion (s : State) (c k : Nat) (f : Kernel → Kernel) : (s.modKern c k f).fwVersion = s.fwVersion := State.modCtx_fwVersion s _ _
@[simp] theorem State.modKern_clk (s : State) (c k : Nat) (f : Kernel → Kernel) : (s.modKern c k f).clk = s.clk := State.modCtx_clk s _ _
@[simp] theorem State.modKern_mem (s : State) (c k : Nat) (f : Kernel → Kernel) : (s.modKern c k f).mem = s.mem := State.modCtx_mem s _ _
@[simp] theorem State.modKern_frames (s : State) (c k : Nat) (f : Kernel → Kernel) : (s.modKern c k f).frames = s.frames := State.modCtx_frames s _ _
@[simp] theorem State.modKern_pois (s : State) (c k : Nat) (f : Kernel → Kernel) : (s.modKern c k f).pois = s.pois := State.modCtx_pois s _ _
@[simp] theorem State.modKern_lines (s : State) (c k : Nat) (f : Kernel → Kernel) : (s.modKern c k f).lines = s.lines := State.modCtx_lines s _ _
@[simp] theorem State.modKern_replicas (s : State) (c k : Nat) (f : Kernel → Kernel) : (s.modKern c k f).replicas = s.replicas := State.modCtx_replicas s _ _
@[simp] theorem State.modKern_slices (s : State) (c k : Nat) (f : Kernel → Kernel) : (s.modKern c k f).slices = s.slices := State.modCtx_slices s _ _
@[simp] theorem State.modKern_share (s : State) (c k : Nat) (f : Kernel → Kernel) : (s.modKern c k f).share = s.share := State.modCtx_share s _ _
@[simp] theorem State.modKern_overflow (s : State) (c k : Nat) (f : Kernel → Kernel) : (s.modKern c k f).overflow = s.overflow := State.modCtx_overflow s _ _
@[simp] theorem State.modKern_waitRecs (s : State) (c k : Nat) (f : Kernel → Kernel) : (s.modKern c k f).waitRecs = s.waitRecs := State.modCtx_waitRecs s _ _
@[simp] theorem State.modKern_cores (s : State) (c k : Nat) (f : Kernel → Kernel) : (s.modKern c k f).cores = s.cores := State.modCtx_cores s _ _
@[simp] theorem State.modKern_ops (s : State) (c k : Nat) (f : Kernel → Kernel) : (s.modKern c k f).ops = s.ops := State.modCtx_ops s _ _
@[simp] theorem State.modKern_reqs (s : State) (c k : Nat) (f : Kernel → Kernel) : (s.modKern c k f).reqs = s.reqs := State.modCtx_reqs s _ _
@[simp] theorem State.modKern_claims (s : State) (c k : Nat) (f : Kernel → Kernel) : (s.modKern c k f).claims = s.claims := State.modCtx_claims s _ _
@[simp] theorem State.modKern_late (s : State) (c k : Nat) (f : Kernel → Kernel) : (s.modKern c k f).late = s.late := State.modCtx_late s _ _
@[simp] theorem State.modKern_msgs (s : State) (c k : Nat) (f : Kernel → Kernel) : (s.modKern c k f).msgs = s.msgs := State.modCtx_msgs s _ _
@[simp] theorem State.modKern_inSeq (s : State) (c k : Nat) (f : Kernel → Kernel) : (s.modKern c k f).inSeq = s.inSeq := State.modCtx_inSeq s _ _
@[simp] theorem State.modKern_inbox (s : State) (c k : Nat) (f : Kernel → Kernel) : (s.modKern c k f).inbox = s.inbox := State.modCtx_inbox s _ _
@[simp] theorem State.modKern_portPts (s : State) (c k : Nat) (f : Kernel → Kernel) : (s.modKern c k f).portPts = s.portPts := State.modCtx_portPts s _ _
@[simp] theorem State.modKern_tickets (s : State) (c k : Nat) (f : Kernel → Kernel) : (s.modKern c k f).tickets = s.tickets := State.modCtx_tickets s _ _
@[simp] theorem State.modKern_parts (s : State) (c k : Nat) (f : Kernel → Kernel) : (s.modKern c k f).parts = s.parts := State.modCtx_parts s _ _
@[simp] theorem State.modKern_partsSealed (s : State) (c k : Nat) (f : Kernel → Kernel) : (s.modKern c k f).partsSealed = s.partsSealed := State.modCtx_partsSealed s _ _
@[simp] theorem State.modKern_dies (s : State) (c k : Nat) (f : Kernel → Kernel) : (s.modKern c k f).dies = s.dies := State.modCtx_dies s _ _
@[simp] theorem State.modKern_badSites (s : State) (c k : Nat) (f : Kernel → Kernel) : (s.modKern c k f).badSites = s.badSites := State.modCtx_badSites s _ _
@[simp] theorem State.modKern_badChans (s : State) (c k : Nat) (f : Kernel → Kernel) : (s.modKern c k f).badChans = s.badChans := State.modCtx_badChans s _ _
@[simp] theorem State.modKern_badSlices (s : State) (c k : Nat) (f : Kernel → Kernel) : (s.modKern c k f).badSlices = s.badSlices := State.modCtx_badSlices s _ _
@[simp] theorem State.modKern_badLinks (s : State) (c k : Nat) (f : Kernel → Kernel) : (s.modKern c k f).badLinks = s.badLinks := State.modCtx_badLinks s _ _
@[simp] theorem State.modKern_badEngines (s : State) (c k : Nat) (f : Kernel → Kernel) : (s.modKern c k f).badEngines = s.badEngines := State.modCtx_badEngines s _ _
@[simp] theorem State.modKern_badPorts (s : State) (c k : Nat) (f : Kernel → Kernel) : (s.modKern c k f).badPorts = s.badPorts := State.modCtx_badPorts s _ _
@[simp] theorem State.modKern_badAcs (s : State) (c k : Nat) (f : Kernel → Kernel) : (s.modKern c k f).badAcs = s.badAcs := State.modCtx_badAcs s _ _
@[simp] theorem State.modKern_offChans (s : State) (c k : Nat) (f : Kernel → Kernel) : (s.modKern c k f).offChans = s.offChans := State.modCtx_offChans s _ _
@[simp] theorem State.modKern_bist (s : State) (c k : Nat) (f : Kernel → Kernel) : (s.modKern c k f).bist = s.bist := State.modCtx_bist s _ _
@[simp] theorem State.modKern_derrt (s : State) (c k : Nat) (f : Kernel → Kernel) : (s.modKern c k f).derrt = s.derrt := State.modCtx_derrt s _ _
@[simp] theorem State.modKern_derr (s : State) (c k : Nat) (f : Kernel → Kernel) : (s.modKern c k f).derr = s.derr := State.modCtx_derr s _ _
@[simp] theorem State.modKern_quarn (s : State) (c k : Nat) (f : Kernel → Kernel) : (s.modKern c k f).quarn = s.quarn := State.modCtx_quarn s _ _
@[simp] theorem State.modKern_hwin (s : State) (c k : Nat) (f : Kernel → Kernel) : (s.modKern c k f).hwin = s.hwin := State.modCtx_hwin s _ _
@[simp] theorem State.modKern_cresult (s : State) (c k : Nat) (f : Kernel → Kernel) : (s.modKern c k f).cresult = s.cresult := State.modCtx_cresult s _ _
@[simp] theorem State.modKern_hosts (s : State) (c k : Nat) (f : Kernel → Kernel) : (s.modKern c k f).hosts = s.hosts := State.modCtx_hosts s _ _
@[simp] theorem State.modKern_cpls (s : State) (c k : Nat) (f : Kernel → Kernel) : (s.modKern c k f).cpls = s.cpls := State.modCtx_cpls s _ _
@[simp] theorem State.modKern_msis (s : State) (c k : Nat) (f : Kernel → Kernel) : (s.modKern c k f).msis = s.msis := State.modCtx_msis s _ _
@[simp] theorem State.modKern_replies (s : State) (c k : Nat) (f : Kernel → Kernel) : (s.modKern c k f).replies = s.replies := State.modCtx_replies s _ _
@[simp] theorem State.modKern_reports (s : State) (c k : Nat) (f : Kernel → Kernel) : (s.modKern c k f).reports = s.reports := State.modCtx_reports s _ _
@[simp] theorem State.modKern_frameOut (s : State) (c k : Nat) (f : Kernel → Kernel) : (s.modKern c k f).frameOut = s.frameOut := State.modCtx_frameOut s _ _
@[simp] theorem State.modKern_fatalOut (s : State) (c k : Nat) (f : Kernel → Kernel) : (s.modKern c k f).fatalOut = s.fatalOut := State.modCtx_fatalOut s _ _
@[simp] theorem State.modKern_cur (s : State) (c k : Nat) (f : Kernel → Kernel) : (s.modKern c k f).cur = s.cur := State.modCtx_cur s _ _
@[simp] theorem State.modKern_npc (s : State) (c k : Nat) (f : Kernel → Kernel) : (s.modKern c k f).npc = s.npc := State.modCtx_npc s _ _
@[simp] theorem State.modKern_agenda (s : State) (c k : Nat) (f : Kernel → Kernel) : (s.modKern c k f).agenda = s.agenda := State.modCtx_agenda s _ _
@[simp] theorem State.modKern_issued (s : State) (c k : Nat) (f : Kernel → Kernel) : (s.modKern c k f).issued = s.issued := State.modCtx_issued s _ _
@[simp] theorem State.modKern_leaseChoices (s : State) (c k : Nat) (f : Kernel → Kernel) : (s.modKern c k f).leaseChoices = s.leaseChoices := State.modCtx_leaseChoices s _ _
@[simp] theorem State.modKern_grantChoices (s : State) (c k : Nat) (f : Kernel → Kernel) : (s.modKern c k f).grantChoices = s.grantChoices := State.modCtx_grantChoices s _ _
@[simp] theorem State.modKern_freeCount (s : State) (c k : Nat) (f : Kernel → Kernel) : (s.modKern c k f).freeCount = s.freeCount := State.modCtx_freeCount s _ _
@[simp] theorem State.modKern_nextEpoch (s : State) (c k : Nat) (f : Kernel → Kernel) : (s.modKern c k f).nextEpoch = s.nextEpoch := State.modCtx_nextEpoch s _ _
@[simp] theorem State.modKern_nextOp (s : State) (c k : Nat) (f : Kernel → Kernel) : (s.modKern c k f).nextOp = s.nextOp := State.modCtx_nextOp s _ _
@[simp] theorem State.modKern_nextReq (s : State) (c k : Nat) (f : Kernel → Kernel) : (s.modKern c k f).nextReq = s.nextReq := State.modCtx_nextReq s _ _
@[simp] theorem State.modKern_nextClaim (s : State) (c k : Nat) (f : Kernel → Kernel) : (s.modKern c k f).nextClaim = s.nextClaim := State.modCtx_nextClaim s _ _
@[simp] theorem State.modKern_nextMsg (s : State) (c k : Nat) (f : Kernel → Kernel) : (s.modKern c k f).nextMsg = s.nextMsg := State.modCtx_nextMsg s _ _
@[simp] theorem State.modKern_order (s : State) (c k : Nat) (f : Kernel → Kernel) : (s.modKern c k f).order = s.order := State.modCtx_order s _ _
@[simp] theorem State.modKern_dealerAt (s : State) (c k : Nat) (f : Kernel → Kernel) : (s.modKern c k f).dealerAt = s.dealerAt := State.modCtx_dealerAt s _ _
@[simp] theorem State.modKern_sampleAt (s : State) (c k : Nat) (f : Kernel → Kernel) : (s.modKern c k f).sampleAt = s.sampleAt := State.modCtx_sampleAt s _ _
@[simp] theorem State.modKern_bandAt (s : State) (c k : Nat) (f : Kernel → Kernel) : (s.modKern c k f).bandAt = s.bandAt := State.modCtx_bandAt s _ _

@[simp] theorem State.setReg_power (s : State) (c prn v : Nat) : (s.setReg c prn v).power = s.power := State.modCtx_power s _ _
@[simp] theorem State.setReg_flash (s : State) (c prn v : Nat) : (s.setReg c prn v).flash = s.flash := State.modCtx_flash s _ _
@[simp] theorem State.setReg_fwRecovery (s : State) (c prn v : Nat) : (s.setReg c prn v).fwRecovery = s.fwRecovery := State.modCtx_fwRecovery s _ _
@[simp] theorem State.setReg_fwReason (s : State) (c prn v : Nat) : (s.setReg c prn v).fwReason = s.fwReason := State.modCtx_fwReason s _ _
@[simp] theorem State.setReg_fwVersion (s : State) (c prn v : Nat) : (s.setReg c prn v).fwVersion = s.fwVersion := State.modCtx_fwVersion s _ _
@[simp] theorem State.setReg_clk (s : State) (c prn v : Nat) : (s.setReg c prn v).clk = s.clk := State.modCtx_clk s _ _
@[simp] theorem State.setReg_mem (s : State) (c prn v : Nat) : (s.setReg c prn v).mem = s.mem := State.modCtx_mem s _ _
@[simp] theorem State.setReg_frames (s : State) (c prn v : Nat) : (s.setReg c prn v).frames = s.frames := State.modCtx_frames s _ _
@[simp] theorem State.setReg_pois (s : State) (c prn v : Nat) : (s.setReg c prn v).pois = s.pois := State.modCtx_pois s _ _
@[simp] theorem State.setReg_lines (s : State) (c prn v : Nat) : (s.setReg c prn v).lines = s.lines := State.modCtx_lines s _ _
@[simp] theorem State.setReg_replicas (s : State) (c prn v : Nat) : (s.setReg c prn v).replicas = s.replicas := State.modCtx_replicas s _ _
@[simp] theorem State.setReg_slices (s : State) (c prn v : Nat) : (s.setReg c prn v).slices = s.slices := State.modCtx_slices s _ _
@[simp] theorem State.setReg_share (s : State) (c prn v : Nat) : (s.setReg c prn v).share = s.share := State.modCtx_share s _ _
@[simp] theorem State.setReg_overflow (s : State) (c prn v : Nat) : (s.setReg c prn v).overflow = s.overflow := State.modCtx_overflow s _ _
@[simp] theorem State.setReg_waitRecs (s : State) (c prn v : Nat) : (s.setReg c prn v).waitRecs = s.waitRecs := State.modCtx_waitRecs s _ _
@[simp] theorem State.setReg_cores (s : State) (c prn v : Nat) : (s.setReg c prn v).cores = s.cores := State.modCtx_cores s _ _
@[simp] theorem State.setReg_ops (s : State) (c prn v : Nat) : (s.setReg c prn v).ops = s.ops := State.modCtx_ops s _ _
@[simp] theorem State.setReg_reqs (s : State) (c prn v : Nat) : (s.setReg c prn v).reqs = s.reqs := State.modCtx_reqs s _ _
@[simp] theorem State.setReg_claims (s : State) (c prn v : Nat) : (s.setReg c prn v).claims = s.claims := State.modCtx_claims s _ _
@[simp] theorem State.setReg_late (s : State) (c prn v : Nat) : (s.setReg c prn v).late = s.late := State.modCtx_late s _ _
@[simp] theorem State.setReg_msgs (s : State) (c prn v : Nat) : (s.setReg c prn v).msgs = s.msgs := State.modCtx_msgs s _ _
@[simp] theorem State.setReg_inSeq (s : State) (c prn v : Nat) : (s.setReg c prn v).inSeq = s.inSeq := State.modCtx_inSeq s _ _
@[simp] theorem State.setReg_inbox (s : State) (c prn v : Nat) : (s.setReg c prn v).inbox = s.inbox := State.modCtx_inbox s _ _
@[simp] theorem State.setReg_portPts (s : State) (c prn v : Nat) : (s.setReg c prn v).portPts = s.portPts := State.modCtx_portPts s _ _
@[simp] theorem State.setReg_tickets (s : State) (c prn v : Nat) : (s.setReg c prn v).tickets = s.tickets := State.modCtx_tickets s _ _
@[simp] theorem State.setReg_parts (s : State) (c prn v : Nat) : (s.setReg c prn v).parts = s.parts := State.modCtx_parts s _ _
@[simp] theorem State.setReg_partsSealed (s : State) (c prn v : Nat) : (s.setReg c prn v).partsSealed = s.partsSealed := State.modCtx_partsSealed s _ _
@[simp] theorem State.setReg_dies (s : State) (c prn v : Nat) : (s.setReg c prn v).dies = s.dies := State.modCtx_dies s _ _
@[simp] theorem State.setReg_badSites (s : State) (c prn v : Nat) : (s.setReg c prn v).badSites = s.badSites := State.modCtx_badSites s _ _
@[simp] theorem State.setReg_badChans (s : State) (c prn v : Nat) : (s.setReg c prn v).badChans = s.badChans := State.modCtx_badChans s _ _
@[simp] theorem State.setReg_badSlices (s : State) (c prn v : Nat) : (s.setReg c prn v).badSlices = s.badSlices := State.modCtx_badSlices s _ _
@[simp] theorem State.setReg_badLinks (s : State) (c prn v : Nat) : (s.setReg c prn v).badLinks = s.badLinks := State.modCtx_badLinks s _ _
@[simp] theorem State.setReg_badEngines (s : State) (c prn v : Nat) : (s.setReg c prn v).badEngines = s.badEngines := State.modCtx_badEngines s _ _
@[simp] theorem State.setReg_badPorts (s : State) (c prn v : Nat) : (s.setReg c prn v).badPorts = s.badPorts := State.modCtx_badPorts s _ _
@[simp] theorem State.setReg_badAcs (s : State) (c prn v : Nat) : (s.setReg c prn v).badAcs = s.badAcs := State.modCtx_badAcs s _ _
@[simp] theorem State.setReg_offChans (s : State) (c prn v : Nat) : (s.setReg c prn v).offChans = s.offChans := State.modCtx_offChans s _ _
@[simp] theorem State.setReg_bist (s : State) (c prn v : Nat) : (s.setReg c prn v).bist = s.bist := State.modCtx_bist s _ _
@[simp] theorem State.setReg_derrt (s : State) (c prn v : Nat) : (s.setReg c prn v).derrt = s.derrt := State.modCtx_derrt s _ _
@[simp] theorem State.setReg_derr (s : State) (c prn v : Nat) : (s.setReg c prn v).derr = s.derr := State.modCtx_derr s _ _
@[simp] theorem State.setReg_quarn (s : State) (c prn v : Nat) : (s.setReg c prn v).quarn = s.quarn := State.modCtx_quarn s _ _
@[simp] theorem State.setReg_hwin (s : State) (c prn v : Nat) : (s.setReg c prn v).hwin = s.hwin := State.modCtx_hwin s _ _
@[simp] theorem State.setReg_cresult (s : State) (c prn v : Nat) : (s.setReg c prn v).cresult = s.cresult := State.modCtx_cresult s _ _
@[simp] theorem State.setReg_hosts (s : State) (c prn v : Nat) : (s.setReg c prn v).hosts = s.hosts := State.modCtx_hosts s _ _
@[simp] theorem State.setReg_cpls (s : State) (c prn v : Nat) : (s.setReg c prn v).cpls = s.cpls := State.modCtx_cpls s _ _
@[simp] theorem State.setReg_msis (s : State) (c prn v : Nat) : (s.setReg c prn v).msis = s.msis := State.modCtx_msis s _ _
@[simp] theorem State.setReg_replies (s : State) (c prn v : Nat) : (s.setReg c prn v).replies = s.replies := State.modCtx_replies s _ _
@[simp] theorem State.setReg_reports (s : State) (c prn v : Nat) : (s.setReg c prn v).reports = s.reports := State.modCtx_reports s _ _
@[simp] theorem State.setReg_frameOut (s : State) (c prn v : Nat) : (s.setReg c prn v).frameOut = s.frameOut := State.modCtx_frameOut s _ _
@[simp] theorem State.setReg_fatalOut (s : State) (c prn v : Nat) : (s.setReg c prn v).fatalOut = s.fatalOut := State.modCtx_fatalOut s _ _
@[simp] theorem State.setReg_cur (s : State) (c prn v : Nat) : (s.setReg c prn v).cur = s.cur := State.modCtx_cur s _ _
@[simp] theorem State.setReg_npc (s : State) (c prn v : Nat) : (s.setReg c prn v).npc = s.npc := State.modCtx_npc s _ _
@[simp] theorem State.setReg_agenda (s : State) (c prn v : Nat) : (s.setReg c prn v).agenda = s.agenda := State.modCtx_agenda s _ _
@[simp] theorem State.setReg_issued (s : State) (c prn v : Nat) : (s.setReg c prn v).issued = s.issued := State.modCtx_issued s _ _
@[simp] theorem State.setReg_leaseChoices (s : State) (c prn v : Nat) : (s.setReg c prn v).leaseChoices = s.leaseChoices := State.modCtx_leaseChoices s _ _
@[simp] theorem State.setReg_grantChoices (s : State) (c prn v : Nat) : (s.setReg c prn v).grantChoices = s.grantChoices := State.modCtx_grantChoices s _ _
@[simp] theorem State.setReg_freeCount (s : State) (c prn v : Nat) : (s.setReg c prn v).freeCount = s.freeCount := State.modCtx_freeCount s _ _
@[simp] theorem State.setReg_nextEpoch (s : State) (c prn v : Nat) : (s.setReg c prn v).nextEpoch = s.nextEpoch := State.modCtx_nextEpoch s _ _
@[simp] theorem State.setReg_nextOp (s : State) (c prn v : Nat) : (s.setReg c prn v).nextOp = s.nextOp := State.modCtx_nextOp s _ _
@[simp] theorem State.setReg_nextReq (s : State) (c prn v : Nat) : (s.setReg c prn v).nextReq = s.nextReq := State.modCtx_nextReq s _ _
@[simp] theorem State.setReg_nextClaim (s : State) (c prn v : Nat) : (s.setReg c prn v).nextClaim = s.nextClaim := State.modCtx_nextClaim s _ _
@[simp] theorem State.setReg_nextMsg (s : State) (c prn v : Nat) : (s.setReg c prn v).nextMsg = s.nextMsg := State.modCtx_nextMsg s _ _
@[simp] theorem State.setReg_order (s : State) (c prn v : Nat) : (s.setReg c prn v).order = s.order := State.modCtx_order s _ _
@[simp] theorem State.setReg_dealerAt (s : State) (c prn v : Nat) : (s.setReg c prn v).dealerAt = s.dealerAt := State.modCtx_dealerAt s _ _
@[simp] theorem State.setReg_sampleAt (s : State) (c prn v : Nat) : (s.setReg c prn v).sampleAt = s.sampleAt := State.modCtx_sampleAt s _ _
@[simp] theorem State.setReg_bandAt (s : State) (c prn v : Nat) : (s.setReg c prn v).bandAt = s.bandAt := State.modCtx_bandAt s _ _

@[simp] theorem State.bump_power (s : State) (c prn n : Nat) : (s.bump c prn n).power = s.power := State.modCtx_power s _ _
@[simp] theorem State.bump_flash (s : State) (c prn n : Nat) : (s.bump c prn n).flash = s.flash := State.modCtx_flash s _ _
@[simp] theorem State.bump_fwRecovery (s : State) (c prn n : Nat) : (s.bump c prn n).fwRecovery = s.fwRecovery := State.modCtx_fwRecovery s _ _
@[simp] theorem State.bump_fwReason (s : State) (c prn n : Nat) : (s.bump c prn n).fwReason = s.fwReason := State.modCtx_fwReason s _ _
@[simp] theorem State.bump_fwVersion (s : State) (c prn n : Nat) : (s.bump c prn n).fwVersion = s.fwVersion := State.modCtx_fwVersion s _ _
@[simp] theorem State.bump_clk (s : State) (c prn n : Nat) : (s.bump c prn n).clk = s.clk := State.modCtx_clk s _ _
@[simp] theorem State.bump_mem (s : State) (c prn n : Nat) : (s.bump c prn n).mem = s.mem := State.modCtx_mem s _ _
@[simp] theorem State.bump_frames (s : State) (c prn n : Nat) : (s.bump c prn n).frames = s.frames := State.modCtx_frames s _ _
@[simp] theorem State.bump_pois (s : State) (c prn n : Nat) : (s.bump c prn n).pois = s.pois := State.modCtx_pois s _ _
@[simp] theorem State.bump_lines (s : State) (c prn n : Nat) : (s.bump c prn n).lines = s.lines := State.modCtx_lines s _ _
@[simp] theorem State.bump_replicas (s : State) (c prn n : Nat) : (s.bump c prn n).replicas = s.replicas := State.modCtx_replicas s _ _
@[simp] theorem State.bump_slices (s : State) (c prn n : Nat) : (s.bump c prn n).slices = s.slices := State.modCtx_slices s _ _
@[simp] theorem State.bump_share (s : State) (c prn n : Nat) : (s.bump c prn n).share = s.share := State.modCtx_share s _ _
@[simp] theorem State.bump_overflow (s : State) (c prn n : Nat) : (s.bump c prn n).overflow = s.overflow := State.modCtx_overflow s _ _
@[simp] theorem State.bump_waitRecs (s : State) (c prn n : Nat) : (s.bump c prn n).waitRecs = s.waitRecs := State.modCtx_waitRecs s _ _
@[simp] theorem State.bump_cores (s : State) (c prn n : Nat) : (s.bump c prn n).cores = s.cores := State.modCtx_cores s _ _
@[simp] theorem State.bump_ops (s : State) (c prn n : Nat) : (s.bump c prn n).ops = s.ops := State.modCtx_ops s _ _
@[simp] theorem State.bump_reqs (s : State) (c prn n : Nat) : (s.bump c prn n).reqs = s.reqs := State.modCtx_reqs s _ _
@[simp] theorem State.bump_claims (s : State) (c prn n : Nat) : (s.bump c prn n).claims = s.claims := State.modCtx_claims s _ _
@[simp] theorem State.bump_late (s : State) (c prn n : Nat) : (s.bump c prn n).late = s.late := State.modCtx_late s _ _
@[simp] theorem State.bump_msgs (s : State) (c prn n : Nat) : (s.bump c prn n).msgs = s.msgs := State.modCtx_msgs s _ _
@[simp] theorem State.bump_inSeq (s : State) (c prn n : Nat) : (s.bump c prn n).inSeq = s.inSeq := State.modCtx_inSeq s _ _
@[simp] theorem State.bump_inbox (s : State) (c prn n : Nat) : (s.bump c prn n).inbox = s.inbox := State.modCtx_inbox s _ _
@[simp] theorem State.bump_portPts (s : State) (c prn n : Nat) : (s.bump c prn n).portPts = s.portPts := State.modCtx_portPts s _ _
@[simp] theorem State.bump_tickets (s : State) (c prn n : Nat) : (s.bump c prn n).tickets = s.tickets := State.modCtx_tickets s _ _
@[simp] theorem State.bump_parts (s : State) (c prn n : Nat) : (s.bump c prn n).parts = s.parts := State.modCtx_parts s _ _
@[simp] theorem State.bump_partsSealed (s : State) (c prn n : Nat) : (s.bump c prn n).partsSealed = s.partsSealed := State.modCtx_partsSealed s _ _
@[simp] theorem State.bump_dies (s : State) (c prn n : Nat) : (s.bump c prn n).dies = s.dies := State.modCtx_dies s _ _
@[simp] theorem State.bump_badSites (s : State) (c prn n : Nat) : (s.bump c prn n).badSites = s.badSites := State.modCtx_badSites s _ _
@[simp] theorem State.bump_badChans (s : State) (c prn n : Nat) : (s.bump c prn n).badChans = s.badChans := State.modCtx_badChans s _ _
@[simp] theorem State.bump_badSlices (s : State) (c prn n : Nat) : (s.bump c prn n).badSlices = s.badSlices := State.modCtx_badSlices s _ _
@[simp] theorem State.bump_badLinks (s : State) (c prn n : Nat) : (s.bump c prn n).badLinks = s.badLinks := State.modCtx_badLinks s _ _
@[simp] theorem State.bump_badEngines (s : State) (c prn n : Nat) : (s.bump c prn n).badEngines = s.badEngines := State.modCtx_badEngines s _ _
@[simp] theorem State.bump_badPorts (s : State) (c prn n : Nat) : (s.bump c prn n).badPorts = s.badPorts := State.modCtx_badPorts s _ _
@[simp] theorem State.bump_badAcs (s : State) (c prn n : Nat) : (s.bump c prn n).badAcs = s.badAcs := State.modCtx_badAcs s _ _
@[simp] theorem State.bump_offChans (s : State) (c prn n : Nat) : (s.bump c prn n).offChans = s.offChans := State.modCtx_offChans s _ _
@[simp] theorem State.bump_bist (s : State) (c prn n : Nat) : (s.bump c prn n).bist = s.bist := State.modCtx_bist s _ _
@[simp] theorem State.bump_derrt (s : State) (c prn n : Nat) : (s.bump c prn n).derrt = s.derrt := State.modCtx_derrt s _ _
@[simp] theorem State.bump_derr (s : State) (c prn n : Nat) : (s.bump c prn n).derr = s.derr := State.modCtx_derr s _ _
@[simp] theorem State.bump_quarn (s : State) (c prn n : Nat) : (s.bump c prn n).quarn = s.quarn := State.modCtx_quarn s _ _
@[simp] theorem State.bump_hwin (s : State) (c prn n : Nat) : (s.bump c prn n).hwin = s.hwin := State.modCtx_hwin s _ _
@[simp] theorem State.bump_cresult (s : State) (c prn n : Nat) : (s.bump c prn n).cresult = s.cresult := State.modCtx_cresult s _ _
@[simp] theorem State.bump_hosts (s : State) (c prn n : Nat) : (s.bump c prn n).hosts = s.hosts := State.modCtx_hosts s _ _
@[simp] theorem State.bump_cpls (s : State) (c prn n : Nat) : (s.bump c prn n).cpls = s.cpls := State.modCtx_cpls s _ _
@[simp] theorem State.bump_msis (s : State) (c prn n : Nat) : (s.bump c prn n).msis = s.msis := State.modCtx_msis s _ _
@[simp] theorem State.bump_replies (s : State) (c prn n : Nat) : (s.bump c prn n).replies = s.replies := State.modCtx_replies s _ _
@[simp] theorem State.bump_reports (s : State) (c prn n : Nat) : (s.bump c prn n).reports = s.reports := State.modCtx_reports s _ _
@[simp] theorem State.bump_frameOut (s : State) (c prn n : Nat) : (s.bump c prn n).frameOut = s.frameOut := State.modCtx_frameOut s _ _
@[simp] theorem State.bump_fatalOut (s : State) (c prn n : Nat) : (s.bump c prn n).fatalOut = s.fatalOut := State.modCtx_fatalOut s _ _
@[simp] theorem State.bump_cur (s : State) (c prn n : Nat) : (s.bump c prn n).cur = s.cur := State.modCtx_cur s _ _
@[simp] theorem State.bump_npc (s : State) (c prn n : Nat) : (s.bump c prn n).npc = s.npc := State.modCtx_npc s _ _
@[simp] theorem State.bump_agenda (s : State) (c prn n : Nat) : (s.bump c prn n).agenda = s.agenda := State.modCtx_agenda s _ _
@[simp] theorem State.bump_issued (s : State) (c prn n : Nat) : (s.bump c prn n).issued = s.issued := State.modCtx_issued s _ _
@[simp] theorem State.bump_leaseChoices (s : State) (c prn n : Nat) : (s.bump c prn n).leaseChoices = s.leaseChoices := State.modCtx_leaseChoices s _ _
@[simp] theorem State.bump_grantChoices (s : State) (c prn n : Nat) : (s.bump c prn n).grantChoices = s.grantChoices := State.modCtx_grantChoices s _ _
@[simp] theorem State.bump_freeCount (s : State) (c prn n : Nat) : (s.bump c prn n).freeCount = s.freeCount := State.modCtx_freeCount s _ _
@[simp] theorem State.bump_nextEpoch (s : State) (c prn n : Nat) : (s.bump c prn n).nextEpoch = s.nextEpoch := State.modCtx_nextEpoch s _ _
@[simp] theorem State.bump_nextOp (s : State) (c prn n : Nat) : (s.bump c prn n).nextOp = s.nextOp := State.modCtx_nextOp s _ _
@[simp] theorem State.bump_nextReq (s : State) (c prn n : Nat) : (s.bump c prn n).nextReq = s.nextReq := State.modCtx_nextReq s _ _
@[simp] theorem State.bump_nextClaim (s : State) (c prn n : Nat) : (s.bump c prn n).nextClaim = s.nextClaim := State.modCtx_nextClaim s _ _
@[simp] theorem State.bump_nextMsg (s : State) (c prn n : Nat) : (s.bump c prn n).nextMsg = s.nextMsg := State.modCtx_nextMsg s _ _
@[simp] theorem State.bump_order (s : State) (c prn n : Nat) : (s.bump c prn n).order = s.order := State.modCtx_order s _ _
@[simp] theorem State.bump_dealerAt (s : State) (c prn n : Nat) : (s.bump c prn n).dealerAt = s.dealerAt := State.modCtx_dealerAt s _ _
@[simp] theorem State.bump_sampleAt (s : State) (c prn n : Nat) : (s.bump c prn n).sampleAt = s.sampleAt := State.modCtx_sampleAt s _ _
@[simp] theorem State.bump_bandAt (s : State) (c prn n : Nat) : (s.bump c prn n).bandAt = s.bandAt := State.modCtx_bandAt s _ _

@[simp] theorem State.memPut_power (s : State) (pa : Nat) (bs : List Byte) : (s.memPut pa bs).power = s.power := by unfold State.memPut; split <;> rfl
@[simp] theorem State.memPut_flash (s : State) (pa : Nat) (bs : List Byte) : (s.memPut pa bs).flash = s.flash := by unfold State.memPut; split <;> rfl
@[simp] theorem State.memPut_fwRecovery (s : State) (pa : Nat) (bs : List Byte) : (s.memPut pa bs).fwRecovery = s.fwRecovery := by unfold State.memPut; split <;> rfl
@[simp] theorem State.memPut_fwReason (s : State) (pa : Nat) (bs : List Byte) : (s.memPut pa bs).fwReason = s.fwReason := by unfold State.memPut; split <;> rfl
@[simp] theorem State.memPut_fwVersion (s : State) (pa : Nat) (bs : List Byte) : (s.memPut pa bs).fwVersion = s.fwVersion := by unfold State.memPut; split <;> rfl
@[simp] theorem State.memPut_clk (s : State) (pa : Nat) (bs : List Byte) : (s.memPut pa bs).clk = s.clk := by unfold State.memPut; split <;> rfl
@[simp] theorem State.memPut_frames (s : State) (pa : Nat) (bs : List Byte) : (s.memPut pa bs).frames = s.frames := by unfold State.memPut; split <;> rfl
@[simp] theorem State.memPut_pois (s : State) (pa : Nat) (bs : List Byte) : (s.memPut pa bs).pois = s.pois := by unfold State.memPut; split <;> rfl
@[simp] theorem State.memPut_lines (s : State) (pa : Nat) (bs : List Byte) : (s.memPut pa bs).lines = s.lines := by unfold State.memPut; split <;> rfl
@[simp] theorem State.memPut_replicas (s : State) (pa : Nat) (bs : List Byte) : (s.memPut pa bs).replicas = s.replicas := by unfold State.memPut; split <;> rfl
@[simp] theorem State.memPut_slices (s : State) (pa : Nat) (bs : List Byte) : (s.memPut pa bs).slices = s.slices := by unfold State.memPut; split <;> rfl
@[simp] theorem State.memPut_share (s : State) (pa : Nat) (bs : List Byte) : (s.memPut pa bs).share = s.share := by unfold State.memPut; split <;> rfl
@[simp] theorem State.memPut_overflow (s : State) (pa : Nat) (bs : List Byte) : (s.memPut pa bs).overflow = s.overflow := by unfold State.memPut; split <;> rfl
@[simp] theorem State.memPut_waitRecs (s : State) (pa : Nat) (bs : List Byte) : (s.memPut pa bs).waitRecs = s.waitRecs := by unfold State.memPut; split <;> rfl
@[simp] theorem State.memPut_cores (s : State) (pa : Nat) (bs : List Byte) : (s.memPut pa bs).cores = s.cores := by unfold State.memPut; split <;> rfl
@[simp] theorem State.memPut_ctxs (s : State) (pa : Nat) (bs : List Byte) : (s.memPut pa bs).ctxs = s.ctxs := by unfold State.memPut; split <;> rfl
@[simp] theorem State.memPut_ops (s : State) (pa : Nat) (bs : List Byte) : (s.memPut pa bs).ops = s.ops := by unfold State.memPut; split <;> rfl
@[simp] theorem State.memPut_reqs (s : State) (pa : Nat) (bs : List Byte) : (s.memPut pa bs).reqs = s.reqs := by unfold State.memPut; split <;> rfl
@[simp] theorem State.memPut_claims (s : State) (pa : Nat) (bs : List Byte) : (s.memPut pa bs).claims = s.claims := by unfold State.memPut; split <;> rfl
@[simp] theorem State.memPut_late (s : State) (pa : Nat) (bs : List Byte) : (s.memPut pa bs).late = s.late := by unfold State.memPut; split <;> rfl
@[simp] theorem State.memPut_msgs (s : State) (pa : Nat) (bs : List Byte) : (s.memPut pa bs).msgs = s.msgs := by unfold State.memPut; split <;> rfl
@[simp] theorem State.memPut_inSeq (s : State) (pa : Nat) (bs : List Byte) : (s.memPut pa bs).inSeq = s.inSeq := by unfold State.memPut; split <;> rfl
@[simp] theorem State.memPut_inbox (s : State) (pa : Nat) (bs : List Byte) : (s.memPut pa bs).inbox = s.inbox := by unfold State.memPut; split <;> rfl
@[simp] theorem State.memPut_portPts (s : State) (pa : Nat) (bs : List Byte) : (s.memPut pa bs).portPts = s.portPts := by unfold State.memPut; split <;> rfl
@[simp] theorem State.memPut_tickets (s : State) (pa : Nat) (bs : List Byte) : (s.memPut pa bs).tickets = s.tickets := by unfold State.memPut; split <;> rfl
@[simp] theorem State.memPut_parts (s : State) (pa : Nat) (bs : List Byte) : (s.memPut pa bs).parts = s.parts := by unfold State.memPut; split <;> rfl
@[simp] theorem State.memPut_partsSealed (s : State) (pa : Nat) (bs : List Byte) : (s.memPut pa bs).partsSealed = s.partsSealed := by unfold State.memPut; split <;> rfl
@[simp] theorem State.memPut_dies (s : State) (pa : Nat) (bs : List Byte) : (s.memPut pa bs).dies = s.dies := by unfold State.memPut; split <;> rfl
@[simp] theorem State.memPut_badSites (s : State) (pa : Nat) (bs : List Byte) : (s.memPut pa bs).badSites = s.badSites := by unfold State.memPut; split <;> rfl
@[simp] theorem State.memPut_badChans (s : State) (pa : Nat) (bs : List Byte) : (s.memPut pa bs).badChans = s.badChans := by unfold State.memPut; split <;> rfl
@[simp] theorem State.memPut_badSlices (s : State) (pa : Nat) (bs : List Byte) : (s.memPut pa bs).badSlices = s.badSlices := by unfold State.memPut; split <;> rfl
@[simp] theorem State.memPut_badLinks (s : State) (pa : Nat) (bs : List Byte) : (s.memPut pa bs).badLinks = s.badLinks := by unfold State.memPut; split <;> rfl
@[simp] theorem State.memPut_badEngines (s : State) (pa : Nat) (bs : List Byte) : (s.memPut pa bs).badEngines = s.badEngines := by unfold State.memPut; split <;> rfl
@[simp] theorem State.memPut_badPorts (s : State) (pa : Nat) (bs : List Byte) : (s.memPut pa bs).badPorts = s.badPorts := by unfold State.memPut; split <;> rfl
@[simp] theorem State.memPut_badAcs (s : State) (pa : Nat) (bs : List Byte) : (s.memPut pa bs).badAcs = s.badAcs := by unfold State.memPut; split <;> rfl
@[simp] theorem State.memPut_offChans (s : State) (pa : Nat) (bs : List Byte) : (s.memPut pa bs).offChans = s.offChans := by unfold State.memPut; split <;> rfl
@[simp] theorem State.memPut_bist (s : State) (pa : Nat) (bs : List Byte) : (s.memPut pa bs).bist = s.bist := by unfold State.memPut; split <;> rfl
@[simp] theorem State.memPut_derrt (s : State) (pa : Nat) (bs : List Byte) : (s.memPut pa bs).derrt = s.derrt := by unfold State.memPut; split <;> rfl
@[simp] theorem State.memPut_derr (s : State) (pa : Nat) (bs : List Byte) : (s.memPut pa bs).derr = s.derr := by unfold State.memPut; split <;> rfl
@[simp] theorem State.memPut_quarn (s : State) (pa : Nat) (bs : List Byte) : (s.memPut pa bs).quarn = s.quarn := by unfold State.memPut; split <;> rfl
@[simp] theorem State.memPut_hwin (s : State) (pa : Nat) (bs : List Byte) : (s.memPut pa bs).hwin = s.hwin := by unfold State.memPut; split <;> rfl
@[simp] theorem State.memPut_cresult (s : State) (pa : Nat) (bs : List Byte) : (s.memPut pa bs).cresult = s.cresult := by unfold State.memPut; split <;> rfl
@[simp] theorem State.memPut_hosts (s : State) (pa : Nat) (bs : List Byte) : (s.memPut pa bs).hosts = s.hosts := by unfold State.memPut; split <;> rfl
@[simp] theorem State.memPut_cpls (s : State) (pa : Nat) (bs : List Byte) : (s.memPut pa bs).cpls = s.cpls := by unfold State.memPut; split <;> rfl
@[simp] theorem State.memPut_msis (s : State) (pa : Nat) (bs : List Byte) : (s.memPut pa bs).msis = s.msis := by unfold State.memPut; split <;> rfl
@[simp] theorem State.memPut_replies (s : State) (pa : Nat) (bs : List Byte) : (s.memPut pa bs).replies = s.replies := by unfold State.memPut; split <;> rfl
@[simp] theorem State.memPut_reports (s : State) (pa : Nat) (bs : List Byte) : (s.memPut pa bs).reports = s.reports := by unfold State.memPut; split <;> rfl
@[simp] theorem State.memPut_frameOut (s : State) (pa : Nat) (bs : List Byte) : (s.memPut pa bs).frameOut = s.frameOut := by unfold State.memPut; split <;> rfl
@[simp] theorem State.memPut_fatalOut (s : State) (pa : Nat) (bs : List Byte) : (s.memPut pa bs).fatalOut = s.fatalOut := by unfold State.memPut; split <;> rfl
@[simp] theorem State.memPut_cur (s : State) (pa : Nat) (bs : List Byte) : (s.memPut pa bs).cur = s.cur := by unfold State.memPut; split <;> rfl
@[simp] theorem State.memPut_npc (s : State) (pa : Nat) (bs : List Byte) : (s.memPut pa bs).npc = s.npc := by unfold State.memPut; split <;> rfl
@[simp] theorem State.memPut_agenda (s : State) (pa : Nat) (bs : List Byte) : (s.memPut pa bs).agenda = s.agenda := by unfold State.memPut; split <;> rfl
@[simp] theorem State.memPut_issued (s : State) (pa : Nat) (bs : List Byte) : (s.memPut pa bs).issued = s.issued := by unfold State.memPut; split <;> rfl
@[simp] theorem State.memPut_leaseChoices (s : State) (pa : Nat) (bs : List Byte) : (s.memPut pa bs).leaseChoices = s.leaseChoices := by unfold State.memPut; split <;> rfl
@[simp] theorem State.memPut_grantChoices (s : State) (pa : Nat) (bs : List Byte) : (s.memPut pa bs).grantChoices = s.grantChoices := by unfold State.memPut; split <;> rfl
@[simp] theorem State.memPut_freeCount (s : State) (pa : Nat) (bs : List Byte) : (s.memPut pa bs).freeCount = s.freeCount := by unfold State.memPut; split <;> rfl
@[simp] theorem State.memPut_nextEpoch (s : State) (pa : Nat) (bs : List Byte) : (s.memPut pa bs).nextEpoch = s.nextEpoch := by unfold State.memPut; split <;> rfl
@[simp] theorem State.memPut_nextOp (s : State) (pa : Nat) (bs : List Byte) : (s.memPut pa bs).nextOp = s.nextOp := by unfold State.memPut; split <;> rfl
@[simp] theorem State.memPut_nextReq (s : State) (pa : Nat) (bs : List Byte) : (s.memPut pa bs).nextReq = s.nextReq := by unfold State.memPut; split <;> rfl
@[simp] theorem State.memPut_nextClaim (s : State) (pa : Nat) (bs : List Byte) : (s.memPut pa bs).nextClaim = s.nextClaim := by unfold State.memPut; split <;> rfl
@[simp] theorem State.memPut_nextMsg (s : State) (pa : Nat) (bs : List Byte) : (s.memPut pa bs).nextMsg = s.nextMsg := by unfold State.memPut; split <;> rfl
@[simp] theorem State.memPut_order (s : State) (pa : Nat) (bs : List Byte) : (s.memPut pa bs).order = s.order := by unfold State.memPut; split <;> rfl
@[simp] theorem State.memPut_dealerAt (s : State) (pa : Nat) (bs : List Byte) : (s.memPut pa bs).dealerAt = s.dealerAt := by unfold State.memPut; split <;> rfl
@[simp] theorem State.memPut_sampleAt (s : State) (pa : Nat) (bs : List Byte) : (s.memPut pa bs).sampleAt = s.sampleAt := by unfold State.memPut; split <;> rfl
@[simp] theorem State.memPut_bandAt (s : State) (pa : Nat) (bs : List Byte) : (s.memPut pa bs).bandAt = s.bandAt := by unfold State.memPut; split <;> rfl

/-! ## What an update writes reads back -/

@[simp] theorem State.core_modCore (s : State) (c : CoreRef) (f : Core → Core) : (s.modCore c f).core c = f (s.core c) := by
  simp [State.core, State.modCore]

theorem State.core_modCore_ne (s : State) (c d : CoreRef) (f : Core → Core) (h : coreKey d ≠ coreKey c) :
    (s.modCore c f).core d = s.core d := by
  simp [State.core, State.modCore, h]

@[simp] theorem State.hand_modHand (s : State) (h : HandRef) (f : Hand → Hand) : (s.modHand h f).hand h = f (s.hand h) := by
  simp [State.hand, State.modHand]

/-- A hand is another one when its core or its number differs. -/
def HandApart (h g : HandRef) : Prop := coreKey h.cr ≠ coreKey g.cr ∨ h.hand ≠ g.hand

theorem State.core_key (s : State) {c d : CoreRef} (h : coreKey c = coreKey d) : s.core c = s.core d := by
  simp [State.core, h]

theorem State.hand_modHand_ne (s : State) (h g : HandRef) (f : Hand → Hand) (ne : HandApart g h) :
    (s.modHand h f).hand g = s.hand g := by
  unfold State.hand State.modHand
  by_cases hc : coreKey g.cr = coreKey h.cr
  · have hn : g.hand ≠ h.hand := by
      rcases ne with h1 | h1
      · exact absurd hc h1
      · exact h1
    rw [State.core_key _ hc, State.core_modCore, State.core_key s hc]
    exact kGet_kPut_ne hn _ _ _
  · rw [State.core_modCore_ne _ _ _ _ hc]

@[simp] theorem Hand.lane_modLane (d : Hand) (l : Nat) (f : Lane → Lane) : (d.modLane l f).lane l = f (d.lane l) := by
  simp [Hand.lane, Hand.modLane]

@[simp] theorem Hand.lane_modLane_ne (d : Hand) {l m : Nat} (f : Lane → Lane) (h : m ≠ l) : (d.modLane l f).lane m = d.lane m := by
  simp [Hand.lane, Hand.modLane, h]

@[simp] theorem State.lane_modLane (s : State) (h : HandRef) (l : Nat) (f : Lane → Lane) :
    (s.modLane h l f).lane h l = f (s.lane h l) := by
  simp [State.lane, State.modLane]

theorem State.lane_modLane_ne (s : State) (h : HandRef) {l m : Nat} (f : Lane → Lane) (ne : m ≠ l) :
    (s.modLane h l f).lane h m = s.lane h m := by
  simp [State.lane, State.modLane, ne]

theorem State.lane_modLane_apart (s : State) (h g : HandRef) (l m : Nat) (f : Lane → Lane) (ne : HandApart g h) :
    (s.modLane h l f).lane g m = s.lane g m := by
  simp [State.lane, State.modLane, State.hand_modHand_ne s h g _ ne]

@[simp] theorem Hand.suit_modSuit (d : Hand) (n : Nat) (f : Suit → Suit) : (d.modSuit n f).suit n = (d.suit n).map f := by
  unfold Hand.modSuit
  cases h : d.suit n with
  | none => simp [h]
  | some u => simp [Hand.suit]

@[simp] theorem Hand.suit_modSuit_ne (d : Hand) {n m : Nat} (f : Suit → Suit) (ne : m ≠ n) : (d.modSuit n f).suit m = d.suit m := by
  unfold Hand.modSuit
  cases h : d.suit n with
  | none => rfl
  | some u => simp [Hand.suit, ne]

@[simp] theorem Hand.lane_modSuit (d : Hand) (n : Nat) (f : Suit → Suit) (l : Nat) : (d.modSuit n f).lane l = d.lane l := by
  unfold Hand.modSuit; split <;> rfl

@[simp] theorem Hand.suit_modLane (d : Hand) (l : Nat) (f : Lane → Lane) (n : Nat) : (d.modLane l f).suit n = d.suit n := rfl

@[simp] theorem State.lane_modSuit (s : State) (r : SuitRef) (f : Suit → Suit) (l : Nat) :
    (s.modSuit r f).lane r.hr l = s.lane r.hr l := by
  simp [State.lane, State.modSuit]

/-! ## Registers of a lane -/

theorem rfVal_rfSet_same (f : RegFile) (k : Nat) (v : W32) (p : Bool) : rfVal (rfSet f k v p) k = v := by
  unfold rfVal rfSet
  by_cases h : (f.epoch.isSome && decide (k < 640)) = true
  · simp [h]
  · simp only [h]
    simp only [Bool.and_eq_true, decide_eq_true_eq, not_and] at h
    have e : kFind k (kPut 0 k v f.vals) = if v = 0 then none else some v := by
      unfold kPut; split <;> simp
    simp only [Bool.false_eq_true, if_false, e]
    by_cases hv : v = 0
    · rw [if_pos hv]
      cases he : f.epoch with
      | none => exact hv.symm
      | some _ =>
        have hk : ¬k < 640 := h (by simp [he])
        simp only [hk, if_false]
        exact hv.symm
    · rw [if_neg hv]

theorem rfVal_rfSet_ne (f : RegFile) {j k : Nat} (v : W32) (p : Bool) (h : j ≠ k) : rfVal (rfSet f k v p) j = rfVal f j := by
  unfold rfVal rfSet
  by_cases h1 : (f.epoch.isSome && decide (k < 640)) = true
  · simp [h1, h]
  · by_cases hv : v = 0#32
    · subst hv; simp [h1, kPut, h]
    · simp [h1, kPut, hv, h]

@[simp] theorem Lane.val_put_same (l : Lane) (k : Nat) (v : W32) (p : Bool) : rfVal (l.put k v p).regs k = v := rfVal_rfSet_same _ _ _ _

@[simp] theorem Lane.val_put_ne (l : Lane) {j k : Nat} (v : W32) (p : Bool) (h : j ≠ k) :
    rfVal (l.put k v p).regs j = rfVal l.regs j := rfVal_rfSet_ne _ _ _ h

end Sys2Proof.Machine
end

