-- ==== Sys2Proof/Laws/Issue.lean ====
section
/-! SUPPORT. Sys2Proof/Laws/Issue.lean: what an instruction that computes lane by lane does, said once. -/

namespace Sys2Proof.Machine

/-! ## One lane -/

theorem rfPois_rfSet_same (f : RegFile) (k : Nat) (v : W32) (p : Bool) : rfPois (rfSet f k v p) k = p := by
  unfold rfPois rfSet
  cases p with
  | true =>
    simp only [if_true]
    induction f.pois with
    | nil => simp [insN]
    | cons j m ih =>
      unfold insN
      split
      · simp [*]
      · split <;> simp_all
  | false => simp

theorem contains_insN (k j : Nat) (m : List Nat) (h : j ≠ k) : (insN k m).contains j = m.contains j := by
  induction m with
  | nil => simp [insN, h]
  | cons i m ih =>
    unfold insN
    split
    · rfl
    · split
      · simp [h]
      · simp only [List.contains_cons, ih]

theorem rfPois_rfSet_ne (f : RegFile) {j k : Nat} (v : W32) (p : Bool) (h : j ≠ k) : rfPois (rfSet f k v p) j = rfPois f j := by
  unfold rfPois rfSet
  cases p with
  | true => simpa using contains_insN k j f.pois h
  | false =>
    simp only [Bool.false_eq_true, if_false]
    rw [Bool.eq_iff_iff]
    simp [h]

/-- Registers written one after another. -/
def Lane.putAll (l : Lane) (ws : List (Nat × W32 × Bool)) : Lane := ws.foldl (fun (a : Lane) w => a.put w.1 w.2.1 w.2.2) l

theorem Lane.putAll_rest (ws : List (Nat × W32 × Bool)) : ∀ l : Lane, l.putAll ws = { l with regs := (l.putAll ws).regs } := by
  induction ws with
  | nil => exact fun _ => rfl
  | cons w ws ih =>
    intro l
    have h := ih (l.put w.1 w.2.1 w.2.2)
    exact h

theorem Lane.putAll_kept (ws : List (Nat × W32 × Bool)) : ∀ (l : Lane) (k : Nat), k ∉ ws.map Prod.fst →
    rfVal (l.putAll ws).regs k = rfVal l.regs k ∧ rfPois (l.putAll ws).regs k = rfPois l.regs k := by
  induction ws with
  | nil => exact fun _ _ _ => ⟨rfl, rfl⟩
  | cons w ws ih =>
    intro l k h
    simp only [List.map_cons, List.mem_cons, not_or] at h
    have e := ih (l.put w.1 w.2.1 w.2.2) k h.2
    exact ⟨e.1.trans (rfVal_rfSet_ne _ _ _ h.1), e.2.trans (rfPois_rfSet_ne _ _ _ h.1)⟩

theorem Lane.putAll_written (ws : List (Nat × W32 × Bool)) : ∀ (l : Lane), (ws.map Prod.fst).Nodup → ∀ w ∈ ws,
    rfVal (l.putAll ws).regs w.1 = w.2.1 ∧ rfPois (l.putAll ws).regs w.1 = w.2.2 := by
  induction ws with
  | nil => exact fun _ _ w h => absurd h (by simp)
  | cons v ws ih =>
    intro l hn w hw
    simp only [List.map_cons, List.nodup_cons] at hn
    rcases List.mem_cons.mp hw with rfl | hw
    · have e := Lane.putAll_kept ws (l.put w.1 w.2.1 w.2.2) w.1 hn.1
      exact ⟨e.1.trans (rfVal_rfSet_same _ _ _ _), e.2.trans (rfPois_rfSet_same _ _ _ _)⟩
    · exact ih (l.put v.1 v.2.1 v.2.2) hn.2 w hw

theorem bit7 (p : BitVec 7) (j i : Nat) (v : Bool) (hj : j < 7) :
    ((((p &&& ~~~(1#7 <<< j)) ||| (if v then 1#7 <<< j else 0#7)).toNat / 2 ^ i % 2 = 1 : Prop) ↔
      if i = j then v = true else p.toNat / 2 ^ i % 2 = 1) := by
  have key : ∀ (q : BitVec 7) (n : Nat), (q.toNat / 2 ^ n % 2 = 1) ↔ q.getLsbD n = true := by
    intro q n
    rw [BitVec.getLsbD, Nat.testBit_eq_decide_div_mod_eq]
    simp
  rw [key, key]
  by_cases h : i = j
  · subst h
    cases v <;> simp [hj]
  · have h2 : ¬(i < j) → i - j ≠ 0 := by omega
    by_cases h3 : i < j
    · cases v <;> simp [h, h3] <;> intro hp <;> exact BitVec.lt_of_getLsbD hp
    · have h4 : i - j ≠ 0 := h2 h3
      cases v <;> simp [h, h3, h4] <;> intro hp <;> exact BitVec.lt_of_getLsbD hp

theorem Lane.pred_setPred (l : Lane) (j : Nat) (v p : Bool) (i : Nat) :
    ((l.setPred j v p).pred i = if i = j ∧ j < 7 then v else l.pred i) ∧
    ((l.setPred j v p).predP i = if i = j ∧ j < 7 then p else l.predP i) := by
  unfold Lane.setPred Lane.pred Lane.predP
  by_cases hj : j < 7
  · by_cases hi : i < 7
    · simp only [hj, if_true, hi, and_true]
      constructor
      · rw [Bool.eq_iff_iff]; simp only [decide_eq_true_eq]; rw [bit7 _ _ _ _ hj]; split <;> simp
      · rw [Bool.eq_iff_iff]; simp only [decide_eq_true_eq]; rw [bit7 _ _ _ _ hj]; split <;> simp
    · have : i ≠ j := by omega
      simp [hj, hi, this]
  · simp [hj]

/-- Predicates written one after another. -/
def Lane.setPreds (l : Lane) (ps : List (Nat × Bool × Bool)) : Lane := ps.foldl (fun (a : Lane) p => a.setPred p.1 p.2.1 p.2.2) l

theorem Lane.setPred_rest (l : Lane) (j : Nat) (v p : Bool) :
    l.setPred j v p = { l with preds := (l.setPred j v p).preds, predp := (l.setPred j v p).predp } := by
  unfold Lane.setPred; split <;> rfl

theorem Lane.setPreds_rest (ps : List (Nat × Bool × Bool)) : ∀ l : Lane,
    l.setPreds ps = { l with preds := (l.setPreds ps).preds, predp := (l.setPreds ps).predp } := by
  induction ps with
  | nil => exact fun _ => rfl
  | cons q ps ih =>
    intro l
    have h1 : l.setPreds (q :: ps) = (l.setPred q.1 q.2.1 q.2.2).setPreds ps := rfl
    rw [h1, ih (l.setPred q.1 q.2.1 q.2.2), Lane.setPred_rest l]

theorem Lane.setPreds_kept (ps : List (Nat × Bool × Bool)) : ∀ (l : Lane) (j : Nat), j ∉ ps.map Prod.fst →
    (l.setPreds ps).pred j = l.pred j ∧ (l.setPreds ps).predP j = l.predP j := by
  induction ps with
  | nil => exact fun _ _ _ => ⟨rfl, rfl⟩
  | cons q ps ih =>
    intro l j h
    simp only [List.map_cons, List.mem_cons, not_or] at h
    have e := ih (l.setPred q.1 q.2.1 q.2.2) j h.2
    have e2 := Lane.pred_setPred l q.1 q.2.1 q.2.2 j
    simp only [h.1, false_and, if_false] at e2
    exact ⟨e.1.trans e2.1, e.2.trans e2.2⟩

theorem Lane.setPreds_written (ps : List (Nat × Bool × Bool)) : ∀ (l : Lane), (ps.map Prod.fst).Nodup → ∀ q ∈ ps, q.1 < 7 →
    (l.setPreds ps).pred q.1 = q.2.1 ∧ (l.setPreds ps).predP q.1 = q.2.2 := by
  induction ps with
  | nil => exact fun _ _ q h => absurd h (by simp)
  | cons v ps ih =>
    intro l hn q hq h7
    simp only [List.map_cons, List.nodup_cons] at hn
    rcases List.mem_cons.mp hq with rfl | hq
    · have e := Lane.setPreds_kept ps (l.setPred q.1 q.2.1 q.2.2) q.1 hn.1
      have e2 := Lane.pred_setPred l q.1 q.2.1 q.2.2 q.1
      simp only [h7, and_self, if_true] at e2
      exact ⟨e.1.trans e2.1, e.2.trans e2.2⟩
    · exact ih (l.setPred v.1 v.2.1 v.2.2) hn.2 q hq h7

/-- What an outcome gives its lane. -/
def LaneOut.gift (o : LaneOut) : Gift := { regs := o.ws, result := o.slot, preds := o.pr, rng := o.rng, ate := o.eats }

/-- An outcome that names no register and no predicate twice. -/
def LaneOut.once (o : LaneOut) : Prop := (o.ws.map Prod.fst).Nodup ∧ (o.pr.map Prod.fst).Nodup

/-- An outcome taken by a lane, poison aside. -/
theorem Lane.take_spec (a : Lane) (o : LaneOut) (h : o.once) :
    (∀ w ∈ o.ws, rfVal (a.take o).regs w.1 = w.2.1 ∧ rfPois (a.take o).regs w.1 = w.2.2) ∧
    (∀ k, k ∉ o.ws.map Prod.fst → rfVal (a.take o).regs k = rfVal a.regs k ∧ rfPois (a.take o).regs k = rfPois a.regs k) ∧
    (∀ v, o.slot = some v → (a.take o).l0 = v.1 ∧ (a.take o).l0p = v.2 ∧ (a.take o).l1 = a.l0 ∧ (a.take o).l1p = a.l0p) ∧
    (o.slot = none → (a.take o).l0 = a.l0 ∧ (a.take o).l0p = a.l0p ∧ (a.take o).l1 = a.l1 ∧ (a.take o).l1p = a.l1p) ∧
    (∀ q ∈ o.pr, q.1 < 7 → (a.take o).pred q.1 = q.2.1 ∧ (a.take o).predP q.1 = q.2.2) ∧
    (∀ j, j ∉ o.pr.map Prod.fst → (a.take o).pred j = a.pred j ∧ (a.take o).predP j = a.predP j) ∧
    (a.take o).rng = o.rng.getD a.rng ∧
    { a.take o with regs := a.regs, l0 := a.l0, l0p := a.l0p, l1 := a.l1, l1p := a.l1p, preds := a.preds, predp := a.predp,
                    rng := a.rng } = a := by
  have e1 := Lane.putAll_rest o.ws a
  obtain ⟨hw, hp⟩ := h
  have hput := Lane.putAll_written o.ws a hw
  have hkeep := Lane.putAll_kept o.ws a
  have hset : ∀ l : Lane, _ := fun l => Lane.setPreds_written o.pr l hp
  have hsk : ∀ l : Lane, _ := fun l => Lane.setPreds_kept o.pr l
  have hsr : ∀ l : Lane, _ := fun l => Lane.setPreds_rest o.pr l
  have et : a.take o = (match o.rng with
      | some g => { (match o.slot with | some (v, p) => (a.putAll o.ws).shift v p | none => a.putAll o.ws).setPreds o.pr with rng := g }
      | none => (match o.slot with | some (v, p) => (a.putAll o.ws).shift v p | none => a.putAll o.ws).setPreds o.pr) := rfl
  rw [et]
  generalize hA : a.putAll o.ws = A at *
  cases hs : o.slot with
  | none =>
    simp only
    have f1 := hsr A; have f2 := hset A; have f3 := hsk A
    generalize A.setPreds o.pr = B at *
    have fr : B.regs = A.regs := by rw [f1]
    have ap : ∀ j, A.pred j = a.pred j ∧ A.predP j = a.predP j := by intro j; rw [e1]; exact ⟨rfl, rfl⟩
    cases hr : o.rng with
    | none =>
      simp only
      refine ⟨by rw [fr]; exact hput, by rw [fr]; exact hkeep, by simp, fun _ => ?_, f2, fun j hj => ?_, ?_, ?_⟩
      · rw [f1, e1]; exact ⟨rfl, rfl, rfl, rfl⟩
      · exact ⟨(f3 j hj).1.trans (ap j).1, (f3 j hj).2.trans (ap j).2⟩
      · rw [f1, e1]; rfl
      · rw [f1, e1]
    | some g =>
      simp only
      refine ⟨by rw [fr]; exact hput, by rw [fr]; exact hkeep, by simp, fun _ => ?_, f2, fun j hj => ?_, rfl, ?_⟩
      · rw [f1, e1]; exact ⟨rfl, rfl, rfl, rfl⟩
      · exact ⟨(f3 j hj).1.trans (ap j).1, (f3 j hj).2.trans (ap j).2⟩
      · rw [f1, e1]
  | some vp =>
    obtain ⟨v, p⟩ := vp
    simp only
    have f1 := hsr (A.shift v p); have f2 := hset (A.shift v p); have f3 := hsk (A.shift v p)
    generalize (A.shift v p).setPreds o.pr = B at *
    have fr : B.regs = A.regs := by rw [f1]; rfl
    have ap : ∀ j, (A.shift v p).pred j = a.pred j ∧ (A.shift v p).predP j = a.predP j := by
      intro j; rw [e1]; exact ⟨rfl, rfl⟩
    cases hr : o.rng with
    | none =>
      simp only
      refine ⟨by rw [fr]; exact hput, by rw [fr]; exact hkeep, fun w hw => ?_, by simp, f2, fun j hj => ?_, ?_, ?_⟩
      · cases hw; rw [f1, e1]; exact ⟨rfl, rfl, rfl, rfl⟩
      · exact ⟨(f3 j hj).1.trans (ap j).1, (f3 j hj).2.trans (ap j).2⟩
      · rw [f1, e1]; rfl
      · rw [f1, e1]; rfl
    | some g =>
      simp only
      refine ⟨by rw [fr]; exact hput, by rw [fr]; exact hkeep, fun w hw => ?_, by simp, f2, fun j hj => ?_, rfl, ?_⟩
      · cases hw; rw [f1, e1]; exact ⟨rfl, rfl, rfl, rfl⟩
      · exact ⟨(f3 j hj).1.trans (ap j).1, (f3 j hj).2.trans (ap j).2⟩
      · rw [f1, e1]; rfl

/-! ## Changes within one hand -/

theorem OnlyHand.refl (s : State) (h : HandRef) : OnlyHand s s h := ⟨rfl, fun _ _ => rfl, rfl, fun _ _ => rfl, rfl⟩

theorem OnlyHand.trans {s t u : State} {h : HandRef} (a : OnlyHand s t h) (b : OnlyHand t u h) : OnlyHand s u h where
  device := by
    have e1 := a.device; have e2 := b.device
    rw [← e2] at e1
    exact e1
  cores := fun c hc => (b.cores c hc).trans (a.cores c hc)
  core := by
    have e1 := a.core; have e2 := b.core
    rw [← e2] at e1
    exact e1
  hands := fun n hn => (b.hands n hn).trans (a.hands n hn)
  hand := by
    have e1 := a.hand; have e2 := b.hand
    rw [← e2] at e1
    exact e1

/-- A change of one hand's lanes and suits is one within the hand. -/
theorem OnlyHand.modHand (s : State) (h : HandRef) (f : Hand → Hand)
    (hf : ∀ d, { f d with lanes := d.lanes, suits := d.suits } = d) : OnlyHand s (s.modHand h f) h where
  device := rfl
  cores := fun c hc => by
    unfold State.modHand
    exact State.core_modCore_ne s h.cr c _ hc
  core := by
    unfold State.modHand
    rw [State.core_modCore]
  hands := fun n hn => by
    unfold State.modHand
    rw [State.core_modCore]
    exact kGet_kPut_ne hn _ _ _
  hand := by rw [State.hand_modHand]; exact hf _

theorem OnlyHand.modLane (s : State) (h : HandRef) (l : Nat) (f : Lane → Lane) : OnlyHand s (s.modLane h l f) h :=
  OnlyHand.modHand s h _ (fun _ => rfl)

theorem Hand.modSuit_rest (d : Hand) (n : Nat) (f : Suit → Suit) : { d.modSuit n f with lanes := d.lanes, suits := d.suits } = d := by
  unfold Hand.modSuit; split <;> rfl

theorem OnlyHand.modSuit (s : State) (r : SuitRef) (f : Suit → Suit) : OnlyHand s (s.modSuit r f) r.hr :=
  OnlyHand.modHand s r.hr _ (fun d => Hand.modSuit_rest d r.suit f)

theorem State.core_modCtx (s : State) (c : Nat) (f : Ctx → Ctx) (d : CoreRef) : (s.modCtx c f).core d = s.core d := by
  unfold State.core; simp

theorem State.hand_modCtx (s : State) (c : Nat) (f : Ctx → Ctx) (h : HandRef) : (s.modCtx c f).hand h = s.hand h := by
  unfold State.hand; rw [State.core_modCtx]

theorem State.modCtx_device (s : State) (c : Nat) (f : Ctx → Ctx) : { s.modCtx c f with cores := s.cores, ctxs := s.ctxs } = s := by
  unfold State.modCtx; split <;> rfl

theorem OnlyHand.modCtx (s : State) (c : Nat) (f : Ctx → Ctx) (h : HandRef) : OnlyHand s (s.modCtx c f) h where
  device := State.modCtx_device s c f
  cores := fun d _ => State.core_modCtx s c f d
  core := by rw [State.core_modCtx]
  hands := fun n _ => by rw [State.core_modCtx]
  hand := by rw [State.hand_modCtx]

/-- The core's poison marks alone changed. -/
theorem OnlyHand.modKpsum (s : State) (h : HandRef) (f : List Nat → List Nat) :
    OnlyHand s (s.modCore h.cr (fun c => { c with kpsum := f c.kpsum })) h where
  device := rfl
  cores := fun d hd => State.core_modCore_ne s h.cr d _ hd
  core := by rw [State.core_modCore]
  hands := fun n _ => by rw [State.core_modCore]
  hand := by unfold State.hand; rw [State.core_modCore]

theorem State.hand_modKpsum (s : State) (h : HandRef) (f : List Nat → List Nat) :
    (s.modCore h.cr (fun c => { c with kpsum := f c.kpsum })).hand h = s.hand h := by
  unfold State.hand; rw [State.core_modCore]

/-! ## Poison -/

theorem OnlyHand.consume (s : State) (h : HandRef) (l : Nat) : OnlyHand s (s.consume h l) h := by
  unfold State.consume; dsimp only
  split
  · exact OnlyHand.refl s h
  · split
    · exact OnlyHand.refl s h
    · exact ((OnlyHand.modLane s h l _).trans (OnlyHand.modKpsum _ h _)).trans (OnlyHand.modCtx _ _ _ h)

/-- What consuming poison leaves of its hand: the lane's mark. -/
theorem State.consume_hand (s : State) (h : HandRef) (l : Nat) :
    (s.consume h l).hand h = (s.hand h).modLane l (fun a => { a with psum := a.psum || a.item.isSome }) ∨
    ((s.consume h l).hand h = s.hand h ∧ (s.lane h l).psum = ((s.lane h l).psum || (s.lane h l).item.isSome)) := by
  unfold State.consume; dsimp only
  split
  · next hi => right; refine ⟨rfl, ?_⟩; simp [State.lane, hi]
  · next it hi =>
    split
    · next hp => right; exact ⟨rfl, by simp [State.lane, hp]⟩
    · next hp =>
      left
      unfold State.modKern
      rw [State.hand_modCtx, State.hand_modKpsum]
      unfold State.modLane
      rw [State.hand_modHand]
      unfold Hand.modLane
      simp [hi]

theorem State.consume_lane (s : State) (h : HandRef) (l : Nat) :
    (s.consume h l).lane h l = { s.lane h l with psum := (s.lane h l).psum || (s.lane h l).item.isSome } := by
  rcases State.consume_hand s h l with e | ⟨e, p⟩
  · unfold State.lane; rw [e, Hand.lane_modLane]
  · unfold State.lane at *; rw [e, ← p]

theorem State.consume_lane_ne (s : State) (h : HandRef) {l m : Nat} (ne : m ≠ l) : (s.consume h l).lane h m = s.lane h m := by
  rcases State.consume_hand s h l with e | ⟨e, _⟩
  · unfold State.lane; rw [e, Hand.lane_modLane_ne _ _ ne]
  · unfold State.lane; rw [e]

theorem State.consume_suits (s : State) (h : HandRef) (l : Nat) : ((s.consume h l).hand h).suits = (s.hand h).suits := by
  rcases State.consume_hand s h l with e | ⟨e, _⟩ <;> rw [e]; rfl

/-! ## The outcome of one lane, and of every executing lane -/

theorem OnlyHand.laneOut (s : State) (h : HandRef) (l : Nat) (o : LaneOut) : OnlyHand s (s.laneOut h l o) h := by
  unfold State.laneOut
  simp only
  split
  · exact (OnlyHand.modLane s h l _).trans (OnlyHand.consume _ h l)
  · exact OnlyHand.modLane s h l _

theorem State.laneOut_suits (s : State) (h : HandRef) (l : Nat) (o : LaneOut) : ((s.laneOut h l o).hand h).suits = (s.hand h).suits := by
  have e : ((s.modLane h l (fun ln => ln.take o)).hand h).suits = (s.hand h).suits := by
    unfold State.modLane; rw [State.hand_modHand]; rfl
  unfold State.laneOut
  simp only
  split
  · rw [State.consume_suits, e]
  · exact e

theorem State.laneOut_lane_ne (s : State) (h : HandRef) {l m : Nat} (o : LaneOut) (ne : m ≠ l) :
    (s.laneOut h l o).lane h m = s.lane h m := by
  unfold State.laneOut
  simp only
  split
  · rw [State.consume_lane_ne _ _ ne, State.lane_modLane_ne _ _ _ ne]
  · rw [State.lane_modLane_ne _ _ _ ne]

theorem State.laneOut_lane (s : State) (h : HandRef) (l : Nat) (o : LaneOut) (ho : o.once) :
    Received (s.lane h l) ((s.laneOut h l o).lane h l) o.gift := by
  obtain ⟨h1, h2, h3, h4, h5, h6, h7, h8⟩ := Lane.take_spec (s.lane h l) o ho
  have hi : ((s.lane h l).take o).item = (s.lane h l).item := (congrArg Lane.item h8 :)
  have hp : ((s.lane h l).take o).psum = (s.lane h l).psum := (congrArg Lane.psum h8 :)
  have e : (s.laneOut h l o).lane h l =
      { (s.lane h l).take o with psum := (s.lane h l).psum || o.eats && (s.lane h l).item.isSome } := by
    unfold State.laneOut
    simp only
    split
    · next he => rw [State.consume_lane, State.lane_modLane]; simp [he, hi, hp]
    · next he => rw [State.lane_modLane]; simp [he, ← hp]
  rw [e]
  refine ⟨h1, h2, h3, h4, fun q hq h7 => h5 q hq h7, fun j hj => h6 j hj, h7, rfl, ?_⟩
  have h9 := h8
  dsimp only at h9 ⊢
  rw [hp] at h9
  exact h9

theorem State.laneOut_noPoison (s : State) (h : HandRef) (l : Nat) (o : LaneOut) (ho : o.eats = false) :
    NoPoison s (s.laneOut h l o) h := by
  unfold State.laneOut
  simp only [ho, Bool.false_eq_true, if_false]
  refine ⟨rfl, ?_⟩
  unfold State.modLane State.modHand
  rw [State.core_modCore]

/-- Outcomes put into the lanes of a list without repeats. -/
theorem foldLanes_spec (h : HandRef) (f : Nat → LaneOut) (hf : ∀ l, (f l).once) : ∀ (ls : List Nat), ls.Nodup → ∀ s : State,
    let t := ls.foldl (fun a l => a.laneOut h l (f l)) s
    OnlyHand s t h ∧ (t.hand h).suits = (s.hand h).suits ∧
      (∀ l ∈ ls, Received (s.lane h l) (t.lane h l) (f l).gift) ∧ (∀ l, l ∉ ls → t.lane h l = s.lane h l) ∧
      ((∀ l ∈ ls, (f l).eats = false) → NoPoison s t h)
  | [], _, s => ⟨OnlyHand.refl s h, rfl, by simp, fun _ _ => rfl, fun _ => ⟨rfl, rfl⟩⟩
  | l :: ls, hn, s => by
    simp only [List.nodup_cons] at hn
    have ih := foldLanes_spec h f hf ls hn.2 (s.laneOut h l (f l))
    simp only [List.foldl_cons]
    obtain ⟨i1, i2, i3, i4, i5⟩ := ih
    refine ⟨(OnlyHand.laneOut s h l (f l)).trans i1, i2.trans (State.laneOut_suits s h l (f l)), ?_, ?_, ?_⟩
    · intro m hm
      rcases List.mem_cons.mp hm with rfl | hm
      · rw [i4 m hn.1]; exact State.laneOut_lane s h m (f m) (hf m)
      · have ne : m ≠ l := fun q => hn.1 (q ▸ hm)
        have e := i3 m hm
        rwa [State.laneOut_lane_ne s h (f l) ne] at e
    · intro m hm
      simp only [List.mem_cons, not_or] at hm
      rw [i4 m hm.2, State.laneOut_lane_ne s h (f l) hm.1]
    · intro hq
      have a := State.laneOut_noPoison s h l (f l) (hq l (by simp))
      have b := i5 (fun m hm => hq m (by simp [hm]))
      exact ⟨b.1.trans a.1, b.2.trans a.2⟩

/-! ## Issue -/

/-- A use that only names registers: not counted, not privileged, no event, no end of a clause. -/
structure Use.plain (u : Use) : Prop where
  peg : u.peg = none
  pl : u.pl = 0
  foreign : u.foreign = false
  event : u.event = false
  ends : u.ends = false
  now : u.now = false

theorem badWin_none (seat : Nat) (ws : List (Nat × Nat)) (h : ∀ w ∈ ws, w.1 + w.2 ≤ seat) : badWin seat ws = none := by
  unfold badWin
  rw [Option.map_eq_none_iff, List.find?_eq_none]
  intro w hw
  have := h w hw
  simp; omega

/-- Windows within the seat raise no index trap. -/
theorem Iss.winTrap_none (x : Iss) (u : Use) (ws : List (Nat × Nat)) (h : ∀ w ∈ ws, w.1 + w.2 ≤ x.seat) : x.winTrap u ws = none := by
  unfold Iss.winTrap
  rw [badWin_none x.seat ws h]

/-- Lanes that hold no lease of some registers. -/
theorem Iss.leasesOf_nil (x : Iss) (ls keys : List Nat) (h : ∀ l ∈ ls, ∀ e ∈ (x.lane l).leases, e.1 ∉ keys) : x.leasesOf ls keys = [] := by
  unfold Iss.leasesOf
  rw [List.flatMap_eq_nil_iff]
  intro l hl
  rw [List.map_eq_nil_iff, List.filter_eq_nil_iff]
  intro e he
  simpa using h l hl e he

/-- The checks pass when nothing holds the instruction back. -/
theorem Iss.gate_none (x : Iss) (u : Use) (hu : u.plain)
    (hl : ∀ l ∈ x.ex, ∀ e ∈ (x.lane l).leases, e.1 ∉ u.keys) (hw : ∀ w ∈ u.wins, w.1 + w.2 ≤ x.seat) : x.gate u = none := by
  unfold Iss.gate
  simp only [hu.event, hu.ends, hu.now, hu.pl, hu.foreign, hu.peg, Iss.leasesOf_nil x x.ex u.keys hl, Iss.winTrap_none x u u.wins hw]
  simp

/-- What issue does when nothing holds the instruction back. -/
theorem issue_clear (u : Use) (s : State) (k : Iss → State) (keys : List Nat) (wins : List (Nat × Nat)) (hu : u.plain)
    (hk : ∀ j ∈ u.keys, j ∈ keys) (hw : ∀ w ∈ u.wins, w ∈ wins) (hc : s.clearAt u.g keys wins = true) :
    issue u s k = .next (k (s.issuing u.g)) := by
  unfold State.clearAt at hc
  simp only [Bool.and_eq_true, List.all_eq_true, Bool.not_eq_true'] at hc
  obtain ⟨⟨⟨h1, h2⟩, h3⟩, h4⟩ := hc
  obtain ⟨v, hv⟩ := Option.isSome_iff_exists.mp h1
  have hlook : s.look = some { s := s, r := s.cur, hd := s.hand s.cur.hr, u := v, kern := s.kernD (s.hand s.cur.hr).ctx v.kern
                               ks := (s.hand s.cur.hr).kernSet v.kern, act := (s.hand s.cur.hr).active s.cur.suit, ex := [] } := by
    unfold State.look
    change (s.hand s.cur.hr).suit s.cur.suit = some v at hv
    simp only [hv]
  have hiss : s.issuing u.g = { s := s, r := s.cur, hd := s.hand s.cur.hr, u := v, kern := s.kernD (s.hand s.cur.hr).ctx v.kern
                                ks := (s.hand s.cur.hr).kernSet v.kern, act := (s.hand s.cur.hr).active s.cur.suit
                                ex := ((s.hand s.cur.hr).active s.cur.suit).filter (fun l => guardOn u.g ((s.hand s.cur.hr).lane l)) } := by
    unfold State.issuing
    change (s.hand s.cur.hr).suit s.cur.suit = some v at hv
    simp only [hv, Option.getD_some]
  rw [hiss] at h2 h3 h4 ⊢
  unfold issue
  rw [hlook]
  simp only [Iss.lane]
  have hb : ((s.hand s.cur.hr).active s.cur.suit).filter (fun l => ((s.hand s.cur.hr).lane l).predP u.g.p) = [] := by
    rw [List.filter_eq_nil_iff]
    intro l hl
    simpa using h2 l hl
  refine (if_neg (by rw [Bool.not_eq_true, Bool.not_eq_false', List.isEmpty_iff]; exact hb)).trans ?_
  rw [Iss.gate_none _ u hu ?_ ?_]
  · intro l hl e he hcon
    have := h3 l hl e he
    simp only [List.contains_eq_mem, decide_eq_false_iff_not] at this
    exact this (hk _ hcon)
  · intro w hw2
    exact of_decide_eq_true (h4 w (hw w hw2))

theorem State.clearAt_suit {s : State} {g : Grd} {keys : List Nat} {wins : List (Nat × Nat)} (hc : s.clearAt g keys wins = true) :
    ((s.hand s.cur.hr).suit s.cur.suit).isSome = true := by
  unfold State.clearAt at hc
  simp only [Bool.and_eq_true] at hc
  exact hc.1.1.1

/-- What issue does when nothing holds back an instruction that may also be counted, privileged, an event or the end of its
clause. -/
theorem issue_goes (u : Use) (s : State) (k : Iss → State) (hc : s.clearAt u.g u.keys u.wins = true)
    (he : (u.event || u.ends) = true → s.noneParked = true) (hb : u.event = true → s.pointsPassed = true)
    (hn : u.now = true → s.settled u.g = true) (hp : s.mayAt u.pl = true) (hf : u.foreign = false)
    (hg : ∀ ps, u.peg = some ps → s.pegRoom ps = true) : issue u s k = .next (k (s.issuing u.g)) := by
  have h1 := State.clearAt_suit hc
  unfold State.clearAt at hc
  simp only [Bool.and_eq_true, List.all_eq_true, Bool.not_eq_true'] at hc
  obtain ⟨⟨⟨-, h2⟩, h3⟩, h4⟩ := hc
  obtain ⟨v, hv⟩ := Option.isSome_iff_exists.mp h1
  have hlook : s.look = some { s.issuing Grd.always with ex := [] } := by
    unfold State.look State.issuing
    simp only [hv, Option.getD_some]
  unfold issue
  rw [hlook]
  have hb2 : (s.issuing Grd.always).act.filter (fun l => ((s.issuing Grd.always).hd.lane l).predP u.g.p) = [] := by
    rw [List.filter_eq_nil_iff]
    intro l hl
    have := h2 l hl
    simp only [Bool.not_eq_true]
    exact this
  refine (if_neg (by rw [Bool.not_eq_true, Bool.not_eq_false', List.isEmpty_iff]; exact hb2)).trans ?_
  have hgate : (s.issuing u.g).gate u = none := by
    have hconf : (s.issuing u.g).leasesOf (s.issuing u.g).ex u.keys = [] := Iss.leasesOf_nil _ _ _ (fun l hl e he => by
      have := h3 l hl e he
      simpa using this)
    have hwin := Iss.winTrap_none (s.issuing u.g) u u.wins (fun w hw => of_decide_eq_true (h4 w hw))
    unfold Iss.gate
    simp only [hconf, hwin]
    have g1 : ((u.event || u.ends) && !((s.issuing u.g).s.parkedIn (s.issuing u.g).h (s.issuing u.g).act).isEmpty) = false := by
      cases e : (u.event || u.ends) with
      | false => rfl
      | true =>
        have := he e
        unfold State.noneParked at this
        rw [Bool.true_and, Bool.not_eq_false']
        exact this
    have g2 : (u.event && (s.issuing u.g).beforePoint) = false := by
      cases e : u.event with
      | false => rfl
      | true =>
        have := hb e
        unfold State.pointsPassed at this
        rw [Bool.true_and]
        rw [Bool.not_eq_true'] at this
        exact this
    have g3 : (u.now && (s.issuing u.g).ex.any (fun l => (s.issuing u.g).s.itemWaits (s.issuing u.g).hd.ctx ((s.issuing u.g).item l).kern ((s.issuing u.g).item l).item)) = false := by
      cases e : u.now with
      | false => rfl
      | true =>
        have := hn e
        unfold State.settled at this
        rw [Bool.true_and, List.any_eq_false]
        rw [List.all_eq_true] at this
        intro l hl
        have := this l hl
        rw [Bool.not_eq_true'] at this
        rw [Bool.not_eq_true]
        exact this
    have g4 : ((decide ((s.issuing u.g).pl < u.pl) || u.foreign) && !(s.issuing u.g).ex.isEmpty) = false := by
      have : ¬((s.issuing u.g).pl < u.pl) := by
        have := of_decide_eq_true hp
        exact Nat.not_lt.mpr this
      simp [this, hf]
    have g5 : (match u.peg.bind (pegOf (s.issuing u.g).u.pos.hw) with | some p => decide (255 ≤ (s.issuing u.g).hd.peg p) | none => false) = false := by
      cases e : u.peg with
      | none => rfl
      | some ps =>
        have := hg ps e
        unfold State.pegRoom at this
        rw [Option.bind_some]
        change (match pegOf (s.issuing Grd.always).u.pos.hw ps with | some p => decide (255 ≤ (s.hand s.cur.hr).peg p) | none => false) = false
        cases e2 : pegOf (s.issuing Grd.always).u.pos.hw ps with
        | none => rfl
        | some p =>
          rw [e2] at this
          have := of_decide_eq_true this
          simp; exact this
    rw [g1, g2, g3, g4]
    simp only [Bool.false_eq_true, if_false, List.isEmpty_nil, Bool.not_true]
    exact (if_neg (by rw [Bool.not_eq_true]; exact g5)).trans rfl
  change (match (s.issuing u.g).gate u with | some s1 => Host.Outcome.next s1 | none => Host.Outcome.next (k (s.issuing u.g))) = _
  rw [hgate]

theorem State.issuing_nodup (s : State) (g : Grd) : (s.issuing g).ex.Nodup :=
  (List.nodup_range.filter _).filter _

/-- Outcomes committed in the lanes of an issue, and the suit moved past, are what the instruction gives. -/
theorem givenTo_of_commit (s : State) (i : Instr) (x : Iss) (f : Nat → Gift) (F : Nat → LaneOut) (hs : x.s = s)
    (hsuit : (s.hand x.r.hr).suit x.r.suit = some x.u) (hn : x.ex.Nodup)
    (hx : exec i s = .next ((x.commit F).advance x.r)) (ho : ∀ l, (F l).once)
    (hf : ∀ l ∈ x.ex, (F l).gift = f l) : GivenTo s i x f := by
  refine ⟨(x.commit F).advance x.r, hx, ?_⟩
  have sp := foldLanes_spec x.r.hr F ho x.ex hn s
  dsimp only at sp
  have e : x.commit F = x.ex.foldl (fun a l => a.laneOut x.r.hr l (F l)) s := by unfold Iss.commit; rw [hs]; rfl
  rw [← e] at sp
  obtain ⟨p1, p2, p3, p4, p5⟩ := sp
  unfold State.advance
  generalize x.commit F = t at *
  refine ⟨?_, ?_, p1.trans (OnlyHand.modSuit t x.r _), ⟨?_, ?_⟩, ?_⟩
  · intro l hl
    rw [State.lane_modSuit, ← hf l hl]
    exact p3 l hl
  · intro l hl
    rw [State.lane_modSuit]
    exact p4 l hl
  · have hn : t.npc = s.npc := by have e := p1.device; rw [← e]
    rw [hn]
    unfold State.modSuit
    rw [State.hand_modHand, Hand.suit_modSuit]
    have : (t.hand x.r.hr).suit x.r.suit = some x.u := by unfold Hand.suit; rw [p2]; exact hsuit
    rw [this]; rfl
  · intro n hn
    unfold State.modSuit
    rw [State.hand_modHand, Hand.suit_modSuit_ne _ _ hn]
    unfold Hand.suit; rw [p2]
  · intro hq
    have hp := p5 (fun l hl => by have := hq l hl; rw [← hf l hl] at this; exact this)
    refine ⟨hp.1, ?_⟩
    rw [← hp.2]
    unfold State.modSuit State.modHand
    rw [State.core_modCore]

/-- The suit that an issue speaks of. -/
theorem State.issuing_suit (s : State) (g : Grd) (h : ((s.hand s.cur.hr).suit s.cur.suit).isSome = true) :
    (s.hand (s.issuing g).r.hr).suit (s.issuing g).r.suit = some (s.issuing g).u := by
  obtain ⟨v, hv⟩ := Option.isSome_iff_exists.mp h
  change (s.hand s.cur.hr).suit s.cur.suit = _
  rw [hv]
  unfold State.issuing
  simp only [hv, Option.getD_some]

/-- Outcomes committed in every executing lane. -/
theorem given_of_commit (s : State) (i : Instr) (g : Grd) (f : Iss → Nat → Gift) (F : Nat → LaneOut)
    (hsuit : ((s.hand s.cur.hr).suit s.cur.suit).isSome = true)
    (hx : exec i s = .next (((s.issuing g).commit F).advance (s.issuing g).r)) (ho : ∀ l, (F l).once)
    (hf : ∀ l ∈ (s.issuing g).ex, (F l).gift = f (s.issuing g) l) : Given s i g f :=
  givenTo_of_commit s i (s.issuing g) (f (s.issuing g)) F rfl (State.issuing_suit s g hsuit) (State.issuing_nodup s g) hx ho hf

/-- An instruction that computes lane by lane gives each executing lane its outcome, and changes nothing else. -/
theorem givesAt_of_lanewise (s : State) (i : Instr) (keys : List Nat) (wins : List (Nat × Nat)) (f : Iss → Nat → Gift) (u : Use)
    (F : Iss → Nat → LaneOut) (hx : exec i s = lanewise u s F) (hu : u.plain) (hk : ∀ j ∈ u.keys, j ∈ keys)
    (hw : ∀ w ∈ u.wins, w ∈ wins) (ho : ∀ x l, (F x l).once) (hf : ∀ x l, (F x l).gift = f x l) : GivesAt s i u.g keys wins f :=
  fun hc => given_of_commit s i u.g f (F (s.issuing u.g)) (State.clearAt_suit hc)
    (by rw [hx]; exact issue_clear u s _ keys wins hu hk hw hc) (ho _) (fun l _ => hf _ l)

/-- The same at every state. -/
theorem gives_of_lanewise (i : Instr) (keys : List Nat) (wins : List (Nat × Nat)) (f : Iss → Nat → Gift) (u : Use)
    (F : Iss → Nat → LaneOut) (hx : ∀ s, exec i s = lanewise u s F) (hu : u.plain) (hk : ∀ j ∈ u.keys, j ∈ keys)
    (hw : ∀ w ∈ u.wins, w ∈ wins) (ho : ∀ x l, (F x l).once) (hf : ∀ x l, (F x l).gift = f x l) : Gives i u.g keys wins f :=
  fun s => givesAt_of_lanewise s i keys wins f u F (hx s) hu hk hw ho hf

theorem useOf_plain (g : Grd) (major dn : Nat) (d : Dst) (srcs : List (Nat × Src)) : (useOf g major dn d srcs).plain :=
  ⟨rfl, rfl, rfl, rfl, rfl, rfl⟩

theorem out32_once (d : Dst) (v : Nat) (p : Bool) : (out32 d v p).once := by
  cases d <;> exact ⟨by simp [out32, dstKeys, List.range_succ], by simp [out32, dstKeys, List.range_succ]⟩

theorem out64_once (d : Dst) (v : Nat) (p : Bool) : (out64 d v p).once := by
  cases d <;> exact ⟨by simp [out64, dstKeys, List.range_succ], by simp [out64, dstKeys, List.range_succ]⟩

theorem ofNat_low (v : Nat) : BitVec.ofNat 64 (v % 4294967296) = (BitVec.ofNat 32 v).setWidth 64 := by
  apply BitVec.eq_of_toNat_eq; simp

theorem out32_gift (d : Dst) (v : Nat) (p : Bool) : (out32 d v p).gift = gift32 d (BitVec.ofNat 32 v) p := by
  cases d <;> simp [out32, dstKeys, LaneOut.gift, gift32, ofNat_low, List.range_succ]

theorem ofNat64_low (v : Nat) : (BitVec.ofNat 64 v).setWidth 32 = BitVec.ofNat 32 v := by
  apply BitVec.eq_of_toNat_eq; simp

theorem ofNat64_high (v : Nat) : (BitVec.ofNat 64 v >>> 32).setWidth 32 = BitVec.ofNat 32 (v / 2 ^ 32) := by
  apply BitVec.eq_of_toNat_eq; simp [Nat.shiftRight_eq_div_pow]; omega

theorem out64_gift (d : Dst) (v : Nat) (p : Bool) : (out64 d v p).gift = gift64 d (BitVec.ofNat 64 v) p := by
  have e (k : Nat) : [(k, BitVec.ofNat 32 v, p), (k + 1, BitVec.ofNat 32 (v / 2 ^ 32), p)] =
      [(k, (BitVec.ofNat 64 v).setWidth 32, p), (k + 1, (BitVec.ofNat 64 v >>> 32).setWidth 32, p)] := by
    rw [ofNat64_low, ofNat64_high]
  cases d with
  | v n => exact congrArg (fun w => Gift.mk w (some (BitVec.ofNat 64 v, p)) [] none p) (e n)
  | o n => exact congrArg (fun w => Gift.mk w (some (BitVec.ofNat 64 v, p)) [] none p) (e (640 + n))
  | none => rfl

end Sys2Proof.Machine
end

