-- ==== Sys2Proof/Laws/Operands.lean ====
section
/-! SUPPORT. Sys2Proof/Laws/Operands.lean: bounds and agreement of operand values. -/

namespace Sys2Proof.Machine

theorem wrapNat_lt (w : Nat) (i : Int) : wrapNat w i < 2 ^ w := by
  unfold wrapNat
  have h : (0 : Int) < ((2 ^ w : Nat) : Int) := by exact_mod_cast Nat.two_pow_pos w
  have h1 := Int.emod_lt_of_pos i h
  have h2 := Int.emod_nonneg i (Int.ne_of_gt h)
  omega

theorem replicate_lt (w x : Nat) : replicate w x < 2 ^ 32 := by
  unfold replicate
  split
  · omega
  · split <;> omega

theorem setWidth_lt (v : W32) : (v.setWidth 64).toNat < 2 ^ 32 := by
  simp; omega

/-- An operand that is not 64 bits wide is a 32-bit value. -/
theorem Iss.val_lt (x : Iss) (w : OW) (hw : w ≠ .w64) (l : Nat) (a : Src) : x.val w l a < 2 ^ 32 := by
  have hi (i : Int) : (BitVec.ofNat 64 (immVal w i)).toNat < 2 ^ 32 := by
    rw [BitVec.toNat_ofNat]
    refine Nat.lt_of_le_of_lt (Nat.mod_le _ _) ?_
    cases w with
    | w32 => exact wrapNat_lt 32 i
    | w64 => exact absurd rfl hw
    | packed z => exact replicate_lt _ _
    | half bf => exact replicate_lt _ _
  have hf (c : FConst) : (BitVec.ofNat 64 (fcVal w c)).toNat < 2 ^ 32 := by
    rw [BitVec.toNat_ofNat]
    refine Nat.lt_of_le_of_lt (Nat.mod_le _ _) ?_
    unfold fcVal
    split
    · exact replicate_lt _ _
    · cases c <;> decide
  unfold Iss.val Iss.rd
  cases a <;> simp only [hw, if_false]
  · exact setWidth_lt _
  · exact setWidth_lt _
  · exact setWidth_lt _
  · decide
  · exact setWidth_lt _
  · split <;> decide
  · exact setWidth_lt _
  · exact hi _
  · exact hf _
  · exact setWidth_lt _

/-- Whole words are read alike by the 32-bit and the packed reading. -/
theorem Iss.rd_packed32 (x : Iss) (l : Nat) (a : Src) : x.rd (.packed .w32) l a = x.rd .w32 l a := by
  cases a <;> simp [Iss.rd, fcVal]
  rename_i i
  have h := wrapNat_lt 32 i
  apply BitVec.eq_of_toNat_eq
  simp only [immVal, isizeBits, replicate, BitVec.toNat_ofNat]
  simp at h ⊢
  omega

theorem Iss.val_packed32 (x : Iss) (l : Nat) (a : Src) : x.val (.packed .w32) l a = x.val .w32 l a := by
  unfold Iss.val; rw [Iss.rd_packed32]

theorem Iss.pois_packed32 (x : Iss) (l : Nat) (a : Src) : x.pois (.packed .w32) l a = x.pois .w32 l a := by
  unfold Iss.pois; rw [Iss.rd_packed32]

/-- A 32-bit operand as a word and as a number. -/
theorem Iss.w32_toNat (x : Iss) (l : Nat) (a : Src) : (x.w32 l a).toNat = x.val .w32 l a := by
  unfold Iss.w32
  rw [BitVec.toNat_ofNat]
  exact Nat.mod_eq_of_lt (Iss.val_lt x .w32 (by decide) l a)

theorem Iss.w64_toNat (x : Iss) (l : Nat) (a : Src) : (x.w64 l a).toNat = x.val .w64 l a := by
  unfold Iss.w64 Iss.val
  rw [BitVec.toNat_ofNat]
  exact Nat.mod_eq_of_lt (BitVec.isLt _)

/-- A null operand reads 0. -/
@[simp] theorem Iss.val_zero (x : Iss) (w : OW) (l : Nat) : x.val w l .zero = 0 := rfl
@[simp] theorem Iss.pois_zero (x : Iss) (w : OW) (l : Nat) : x.pois w l .zero = false := rfl

end Sys2Proof.Machine
end

