-- ==== Sys2Proof/Laws/PerInstr.lean ====
section
/-! SUPPORT. Sys2Proof/Laws/PerInstr.lean: one lemma per constructor: an instruction has words exactly when it is no event. -/

namespace Sys2Proof.Laws.Words

/-- An instruction is encoded in words exactly when it is no event of the table. -/
def Statement (i : Instr) : Prop := (encode i).isSome = !i.isEvent

theorem clauseHeader : ∀ setb seta wait chunks, Statement (.clauseHeader setb seta wait chunks) := by intros; rfl
theorem nop : Statement .nop := rfl
theorem bra : ∀ g off, Statement (.bra g off) := by intros; rfl
theorem br : ∀ g a off, Statement (.br g a off) := by intros; rfl
theorem brx : ∀ g a, Statement (.brx g a) := by intros; rfl
theorem call : ∀ g d off, Statement (.call g d off) := by intros; rfl
theorem callx : ∀ g d a, Statement (.callx g d a) := by intros; rfl
theorem ret : ∀ g a, Statement (.ret g a) := by intros; rfl
theorem meld : ∀ win, Statement (.meld win) := by intros; rfl
theorem meldWindowExpiry : ∀ r, Statement (.meldWindowExpiry r) := by intros; rfl
theorem exit : ∀ g, Statement (.exit g) := by intros; rfl
theorem draw : ∀ d, Statement (.draw d) := by intros; rfl
theorem cut : ∀ r1 r2 r3, Statement (.cut r1 r2 r3) := by intros; rfl
theorem suspend : ∀ g a b off c n, Statement (.suspend g a b off c n) := by intros; rfl
theorem waitp : ∀ g a peg, Statement (.waitp g a peg) := by intros; rfl
theorem waitpGiveUp : ∀ r, Statement (.waitpGiveUp r) := by intros; rfl
theorem pegThresholdReached : ∀ h lane, Statement (.pegThresholdReached h lane) := by intros; rfl
theorem bar : ∀ k, Statement (.bar k) := by intros; rfl
theorem barrierComplete : ∀ ctx kern level unit, Statement (.barrierComplete ctx kern level unit) := by intros; rfl
theorem yield : Statement .yield := rfl
theorem yieldSlot : Statement .yieldSlot := rfl
theorem trap : ∀ g code, Statement (.trap g code) := by intros; rfl
theorem tret : Statement .tret := rfl
theorem iadd : ∀ d a b, Statement (.iadd d a b) := by intros; rfl
theorem iaddExt : ∀ g ty sat d a b, Statement (.iaddExt g ty sat d a b) := by intros; rfl
theorem isub : ∀ d a b, Statement (.isub d a b) := by intros; rfl
theorem isubExt : ∀ g ty sat d a b, Statement (.isubExt g ty sat d a b) := by intros; rfl
theorem iaddc : ∀ g pen pd d a b c, Statement (.iaddc g pen pd d a b c) := by intros; rfl
theorem imul : ∀ d a b, Statement (.imul d a b) := by intros; rfl
theorem imulExt : ∀ g ty sat d a b, Statement (.imulExt g ty sat d a b) := by intros; rfl
theorem imulh : ∀ d a b, Statement (.imulh d a b) := by intros; rfl
theorem imulhExt : ∀ g ty d a b, Statement (.imulhExt g ty d a b) := by intros; rfl
theorem imad : ∀ g ty sat d a b c, Statement (.imad g ty sat d a b c) := by intros; rfl
theorem imadw : ∀ g sgn sat d a b c, Statement (.imadw g sgn sat d a b c) := by intros; rfl
theorem imin : ∀ d a b, Statement (.imin d a b) := by intros; rfl
theorem iminExt : ∀ g ty d a b, Statement (.iminExt g ty d a b) := by intros; rfl
theorem imax : ∀ d a b, Statement (.imax d a b) := by intros; rfl
theorem imaxExt : ∀ g ty d a b, Statement (.imaxExt g ty d a b) := by intros; rfl
theorem iabs : ∀ d a, Statement (.iabs d a) := by intros; rfl
theorem iabsExt : ∀ g ty sat d a, Statement (.iabsExt g ty sat d a) := by intros; rfl
theorem ineg : ∀ d a, Statement (.ineg d a) := by intros; rfl
theorem inegExt : ∀ g ty sat d a, Statement (.inegExt g ty sat d a) := by intros; rfl
theorem and : ∀ d a b, Statement (.and d a b) := by intros; rfl
theorem andExt : ∀ g d a b, Statement (.andExt g d a b) := by intros; rfl
theorem or : ∀ d a b, Statement (.or d a b) := by intros; rfl
theorem orExt : ∀ g d a b, Statement (.orExt g d a b) := by intros; rfl
theorem xor : ∀ d a b, Statement (.xor d a b) := by intros; rfl
theorem xorExt : ∀ g d a b, Statement (.xorExt g d a b) := by intros; rfl
theorem andn : ∀ d a b, Statement (.andn d a b) := by intros; rfl
theorem andnExt : ∀ g d a b, Statement (.andnExt g d a b) := by intros; rfl
theorem not : ∀ d a, Statement (.not d a) := by intros; rfl
theorem notExt : ∀ g d a, Statement (.notExt g d a) := by intros; rfl
theorem shl : ∀ d a b, Statement (.shl d a b) := by intros; rfl
theorem shlExt : ∀ g sz d a b, Statement (.shlExt g sz d a b) := by intros; rfl
theorem shr : ∀ d a b, Statement (.shr d a b) := by intros; rfl
theorem shrExt : ∀ g sz d a b, Statement (.shrExt g sz d a b) := by intros; rfl
theorem sar : ∀ d a b, Statement (.sar d a b) := by intros; rfl
theorem sarExt : ∀ g sz d a b, Statement (.sarExt g sz d a b) := by intros; rfl
theorem shf : ∀ g r d a b c, Statement (.shf g r d a b c) := by intros; rfl
theorem rot : ∀ d a b, Statement (.rot d a b) := by intros; rfl
theorem rotExt : ∀ g sz r d a b, Statement (.rotExt g sz r d a b) := by intros; rfl
theorem bfe : ∀ g sgn d a b, Statement (.bfe g sgn d a b) := by intros; rfl
theorem bfi : ∀ g d a b c, Statement (.bfi g d a b c) := by intros; rfl
theorem popc : ∀ d a, Statement (.popc d a) := by intros; rfl
theorem popcExt : ∀ g d a, Statement (.popcExt g d a) := by intros; rfl
theorem clz : ∀ d a, Statement (.clz d a) := by intros; rfl
theorem clzExt : ∀ g d a, Statement (.clzExt g d a) := by intros; rfl
theorem ctz : ∀ d a, Statement (.ctz d a) := by intros; rfl
theorem ctzExt : ∀ g d a, Statement (.ctzExt g d a) := by intros; rfl
theorem brev : ∀ d a, Statement (.brev d a) := by intros; rfl
theorem brevExt : ∀ g d a, Statement (.brevExt g d a) := by intros; rfl
theorem bsel : ∀ g d a b c, Statement (.bsel g d a b c) := by intros; rfl
theorem iset : ∀ g ty cc pen pd d a b, Statement (.iset g ty cc pen pd d a b) := by intros; rfl
theorem pset : ∀ g pd lut d a b c, Statement (.pset g pd lut d a b c) := by intros; rfl
theorem sel : ∀ g d a b c, Statement (.sel g d a b c) := by intros; rfl
theorem mov : ∀ d a, Statement (.mov d a) := by intros; rfl
theorem movExt : ∀ g d a, Statement (.movExt g d a) := by intros; rfl
theorem movx : ∀ g d a base w, Statement (.movx g d a base w) := by intros; rfl
theorem movxw : ∀ g base a b w, Statement (.movxw g base a b w) := by intros; rfl
theorem lea : ∀ g sgn sh d a b, Statement (.lea g sgn sh d a b) := by intros; rfl
theorem iadd64 : ∀ d a b, Statement (.iadd64 d a b) := by intros; rfl
theorem iadd64Ext : ∀ g sgn sat d a b, Statement (.iadd64Ext g sgn sat d a b) := by intros; rfl
theorem fadd : ∀ d a b, Statement (.fadd d a b) := by intros; rfl
theorem faddExt : ∀ g r d a b, Statement (.faddExt g r d a b) := by intros; rfl
theorem fsub : ∀ d a b, Statement (.fsub d a b) := by intros; rfl
theorem fsubExt : ∀ g r d a b, Statement (.fsubExt g r d a b) := by intros; rfl
theorem fmul : ∀ d a b, Statement (.fmul d a b) := by intros; rfl
theorem fmulExt : ∀ g r d a b, Statement (.fmulExt g r d a b) := by intros; rfl
theorem fmac : ∀ g r np nc d a b c, Statement (.fmac g r np nc d a b c) := by intros; rfl
theorem fmin : ∀ d a b, Statement (.fmin d a b) := by intros; rfl
theorem fminExt : ∀ g d a b, Statement (.fminExt g d a b) := by intros; rfl
theorem fmax : ∀ d a b, Statement (.fmax d a b) := by intros; rfl
theorem fmaxExt : ∀ g d a b, Statement (.fmaxExt g d a b) := by intros; rfl
theorem fset : ∀ g cc pen pd d a b, Statement (.fset g cc pen pd d a b) := by intros; rfl
theorem fclass : ∀ g pen pd d a b, Statement (.fclass g pen pd d a b) := by intros; rfl
theorem frcp : ∀ d a, Statement (.frcp d a) := by intros; rfl
theorem frcpExt : ∀ g d a, Statement (.frcpExt g d a) := by intros; rfl
theorem frsq : ∀ d a, Statement (.frsq d a) := by intros; rfl
theorem frsqExt : ∀ g d a, Statement (.frsqExt g d a) := by intros; rfl
theorem fsqrt : ∀ d a, Statement (.fsqrt d a) := by intros; rfl
theorem fsqrtExt : ∀ g r d a, Statement (.fsqrtExt g r d a) := by intros; rfl
theorem fexp2 : ∀ d a, Statement (.fexp2 d a) := by intros; rfl
theorem fexp2Ext : ∀ g d a, Statement (.fexp2Ext g d a) := by intros; rfl
theorem flog2 : ∀ d a, Statement (.flog2 d a) := by intros; rfl
theorem flog2Ext : ∀ g d a, Statement (.flog2Ext g d a) := by intros; rfl
theorem ftanh : ∀ d a, Statement (.ftanh d a) := by intros; rfl
theorem ftanhExt : ∀ g d a, Statement (.ftanhExt g d a) := by intros; rfl
theorem fsin : ∀ d a, Statement (.fsin d a) := by intros; rfl
theorem fsinExt : ∀ g d a, Statement (.fsinExt g d a) := by intros; rfl
theorem fcos : ∀ d a, Statement (.fcos d a) := by intros; rfl
theorem fcosExt : ∀ g d a, Statement (.fcosExt g d a) := by intros; rfl
theorem hadd2 : ∀ d a b, Statement (.hadd2 d a b) := by intros; rfl
theorem hadd2Ext : ∀ g bf r sat nb d a b, Statement (.hadd2Ext g bf r sat nb d a b) := by intros; rfl
theorem hmul2 : ∀ d a b, Statement (.hmul2 d a b) := by intros; rfl
theorem hmul2Ext : ∀ g bf r sat d a b, Statement (.hmul2Ext g bf r sat d a b) := by intros; rfl
theorem hfma2 : ∀ g bf r sat np nc d a b c, Statement (.hfma2 g bf r sat np nc d a b c) := by intros; rfl
theorem hmin2 : ∀ d a b, Statement (.hmin2 d a b) := by intros; rfl
theorem hmin2Ext : ∀ g bf d a b, Statement (.hmin2Ext g bf d a b) := by intros; rfl
theorem hmax2 : ∀ d a b, Statement (.hmax2 d a b) := by intros; rfl
theorem hmax2Ext : ∀ g bf d a b, Statement (.hmax2Ext g bf d a b) := by intros; rfl
theorem f2i : ∀ g src sgn w64 half r d a, Statement (.f2i g src sgn w64 half r d a) := by intros; rfl
theorem i2f : ∀ g dst sgn w64 r sat d a, Statement (.i2f g dst sgn w64 r sat d a) := by intros; rfl
theorem fcvt : ∀ g dst src half r sat d a b, Statement (.fcvt g dst src half r sat d a b) := by intros; rfl
theorem qscale : ∀ g f d a, Statement (.qscale g f d a) := by intros; rfl
theorem qpack : ∀ g f r sat d a b, Statement (.qpack g f r sat d a b) := by intros; rfl
theorem qunpk : ∀ g f d a b, Statement (.qunpk g f d a b) := by intros; rfl
theorem psplit : ∀ g f pl d a, Statement (.psplit g f pl d a) := by intros; rfl
theorem pjoin : ∀ g f pl grp d a b, Statement (.pjoin g f pl grp d a b) := by intros; rfl
theorem setfmt : ∀ g f b, Statement (.setfmt g f b) := by intros; rfl
theorem shfl : ∀ g k m w64 d a b c, Statement (.shfl g k m w64 d a b c) := by intros; rfl
theorem vote : ∀ g k m d a c, Statement (.vote g k m d a c) := by intros; rfl
theorem hred : ∀ g k op r d a c, Statement (.hred g k op r d a c) := by intros; rfl
theorem hscan : ∀ g k op excl r d a c, Statement (.hscan g k op excl r d a c) := by intros; rfl
theorem lmatch : ∀ g k w64 d a c, Statement (.lmatch g k w64 d a c) := by intros; rfl
theorem tmask : ∀ g k d c, Statement (.tmask g k d c) := by intros; rfl
theorem elect : ∀ g k d c, Statement (.elect g k d c) := by intros; rfl
theorem ld : ∀ g ps m sz sx d a, Statement (.ld g ps m sz sx d a) := by intros; rfl
theorem st : ∀ g ps m sz a b, Statement (.st g ps m sz a b) := by intros; rfl
theorem atom : ∀ g ps m op sz r d a b, Statement (.atom g ps m op sz r d a b) := by intros; rfl
theorem cas : ∀ g ps m sz d a b c, Statement (.cas g ps m sz d a b c) := by intros; rfl
theorem red : ∀ g ps m op sz r a b, Statement (.red g ps m op sz r a b) := by intros; rfl
theorem evadd : ∀ g ps m d a b, Statement (.evadd g ps m d a b) := by intros; rfl
theorem pref : ∀ g m l2 a, Statement (.pref g m l2 a) := by intros; rfl
theorem publ : ∀ g ps, Statement (.publ g ps) := by intros; rfl
theorem invl : ∀ g, Statement (.invl g) := by intros; rfl
theorem movs : ∀ g ps m fromSc sz a b, Statement (.movs g ps m fromSc sz a b) := by intros; rfl
theorem setmode : ∀ g b, Statement (.setmode g b) := by intros; rfl
theorem homeLoad : ∀ req, Statement (.homeLoad req) := by intros; rfl
theorem homeWrite : ∀ req, Statement (.homeWrite req) := by intros; rfl
theorem homeAtomic : ∀ req, Statement (.homeAtomic req) := by intros; rfl
theorem opCompletion : ∀ op, Statement (.opCompletion op) := by intros; rfl
theorem ptsTick : ∀ h, Statement (.ptsTick h) := by intros; rfl
theorem cpy : ∀ g ps dseg sseg a b c, Statement (.cpy g ps dseg sseg a b c) := by intros; rfl
theorem cpy2 : ∀ g ps dseg sseg a b c, Statement (.cpy2 g ps dseg sseg a b c) := by intros; rfl
theorem cpyw : ∀ g ps sseg a b c, Statement (.cpyw g ps sseg a b c) := by intros; rfl
theorem gath : ∀ g ps dseg sseg a b c, Statement (.gath g ps dseg sseg a b c) := by intros; rfl
theorem scat : ∀ g ps dseg sseg a b c, Statement (.scat g ps dseg sseg a b c) := by intros; rfl
theorem sred : ∀ g ps dseg sseg bf mx r a b c, Statement (.sred g ps dseg sseg bf mx r a b c) := by intros; rfl
theorem scvt : ∀ g ps dseg sseg dst src f r sat a b c, Statement (.scvt g ps dseg sseg dst src f r sat a b c) := by intros; rfl
theorem rput : ∀ g ps sseg peer a b c, Statement (.rput g ps sseg peer a b c) := by intros; rfl
theorem rget : ∀ g ps dseg peer a b c, Statement (.rget g ps dseg peer a b c) := by intros; rfl
theorem rsig : ∀ g ps peer a b, Statement (.rsig g ps peer a b) := by intros; rfl
theorem claimGrant : ∀ op, Statement (.claimGrant op) := by intros; rfl
theorem engineIssuePoint : ∀ op, Statement (.engineIssuePoint op) := by intros; rfl
theorem engineLineRelease : ∀ op, Statement (.engineLineRelease op) := by intros; rfl
theorem peerMessageApply : ∀ m, Statement (.peerMessageApply m) := by intros; rfl
theorem peerAck : ∀ msg, Statement (.peerAck msg) := by intros; rfl
theorem linkLoss : ∀ msg, Statement (.linkLoss msg) := by intros; rfl
theorem mzero : ∀ tile, Statement (.mzero tile) := by intros; rfl
theorem mma : ∀ ps m a b c, Statement (.mma ps m a b c) := by intros; rfl
theorem mmag : ∀ ps gsrc m a b c, Statement (.mmag ps gsrc m a b c) := by intros; rfl
theorem teamStart : ∀ c ctx kern team, Statement (.teamStart c ctx kern team) := by intros; rfl
theorem mdrain : ∀ g ps tile of smode fo r sat d b, Statement (.mdrain g ps tile of smode fo r sat d b) := by intros; rfl
theorem mdst : ∀ g ps tile of smode seg pol r sat a b, Statement (.mdst g ps tile of smode seg pol r sat a b) := by intros; rfl
theorem mscale : ∀ g tile a b, Statement (.mscale g tile a b) := by intros; rfl
theorem mstat : ∀ g ps tile chk d, Statement (.mstat g ps tile chk d) := by intros; rfl
theorem will : ∀ a n b, Statement (.will a n b) := by intros; rfl
theorem claim : ∀ g ps d n a, Statement (.claim g ps d n a) := by intros; rfl
theorem estat : ∀ g ps d, Statement (.estat g ps d) := by intros; rfl
theorem deal : ∀ g ps seg d a b c, Statement (.deal g ps seg d a b c) := by intros; rfl
theorem launch : ∀ g ps seg d a, Statement (.launch g ps seg d a) := by intros; rfl
theorem deckqPend : ∀ g ps d a, Statement (.deckqPend g ps d a) := by intros; rfl
theorem deckqClose : ∀ g ps d a, Statement (.deckqClose g ps d a) := by intros; rfl
theorem deckqState : ∀ g ps d a, Statement (.deckqState g ps d a) := by intros; rfl
theorem deckqCancel : ∀ g ps d a, Statement (.deckqCancel g ps d a) := by intros; rfl
theorem chke : ∀ g d, Statement (.chke g d) := by intros; rfl
theorem chkeTrap : ∀ g d, Statement (.chkeTrap g d) := by intros; rfl
theorem setseg : ∀ g seg a, Statement (.setseg g seg a) := by intros; rfl
theorem movpRead : ∀ g other ctx prn d, Statement (.movpRead g other ctx prn d) := by intros; rfl
theorem movpWrite : ∀ g other ctx prn b, Statement (.movpWrite g other ctx prn b) := by intros; rfl
theorem keyz : ∀ g d a, Statement (.keyz g d a) := by intros; rfl
theorem keyzDone : ∀ ctx, Statement (.keyzDone ctx) := by intros; rfl
theorem keyzAckTimeout : ∀ ctx chans, Statement (.keyzAckTimeout ctx chans) := by intros; rfl
theorem scrub : ∀ g ps d a, Statement (.scrub g ps d a) := by intros; rfl
theorem scrubUnit : ∀ ctx, Statement (.scrubUnit ctx) := by intros; rfl
theorem deferredDestroy : ∀ ctx, Statement (.deferredDestroy ctx) := by intros; rfl
theorem entryDraw : ∀ h, Statement (.entryDraw h) := by intros; rfl
theorem heldReform : ∀ h, Statement (.heldReform h) := by intros; rfl
theorem continuationSeat : ∀ h, Statement (.continuationSeat h) := by intros; rfl
theorem blockDeal : ∀ c ctx kern, Statement (.blockDeal c ctx kern) := by intros; rfl
theorem barrierTableGrant : ∀ c ctx kern, Statement (.barrierTableGrant c ctx kern) := by intros; rfl
theorem handForm : ∀ c ctx kern, Statement (.handForm c ctx kern) := by intros; rfl
theorem handRelease : ∀ h, Statement (.handRelease h) := by intros; rfl
theorem dealtReturn : ∀ h, Statement (.dealtReturn h) := by intros; rfl
theorem rotation : ∀ h, Statement (.rotation h) := by intros; rfl
theorem claimResolve : ∀ id, Statement (.claimResolve id) := by intros; rfl
theorem affinityWindowExpiry : ∀ h lane, Statement (.affinityWindowExpiry h lane) := by intros; rfl
theorem pileEvictRetry : ∀ h lane, Statement (.pileEvictRetry h lane) := by intros; rfl
theorem kernelComplete : ∀ ctx kern, Statement (.kernelComplete ctx kern) := by intros; rfl
theorem launchRegisterWrite : ∀ w t, Statement (.launchRegisterWrite w t) := by intros; rfl
theorem launchQueueEntry : ∀ ctx, Statement (.launchQueueEntry ctx) := by intros; rfl
theorem dealerPeriod : ∀ die, Statement (.dealerPeriod die) := by intros; rfl
theorem pctlSave : ∀ ctx, Statement (.pctlSave ctx) := by intros; rfl
theorem saveComplete : ∀ ctx, Statement (.saveComplete ctx) := by intros; rfl
theorem pctlRestore : ∀ ctx, Statement (.pctlRestore ctx) := by intros; rfl
theorem restoreProceed : ∀ ctx, Statement (.restoreProceed ctx) := by intros; rfl
theorem samplingWindowEnd : Statement .samplingWindowEnd := rfl
theorem bandwidthWindow : Statement .bandwidthWindow := rfl
theorem hostWriteRequest : ∀ q, Statement (.hostWriteRequest q) := by intros; rfl
theorem hostReadRequest : ∀ q, Statement (.hostReadRequest q) := by intros; rfl
theorem xdPieceSend : ∀ req, Statement (.xdPieceSend req) := by intros; rfl
theorem hostPieceApply : ∀ req die, Statement (.hostPieceApply req die) := by intros; rfl
theorem routeAck : ∀ req die, Statement (.routeAck req die) := by intros; rfl
theorem create : ∀ fn addr, Statement (.create fn addr) := by intros; rfl
theorem stop : ∀ ctx, Statement (.stop ctx) := by intros; rfl
theorem skidTimeout : ∀ ctx, Statement (.skidTimeout ctx) := by intros; rfl
theorem haltDone : ∀ ctx, Statement (.haltDone ctx) := by intros; rfl
theorem destroy : ∀ ctx, Statement (.destroy ctx) := by intros; rfl
theorem replay : ∀ ctx, Statement (.replay ctx) := by intros; rfl
theorem shqLookup : ∀ ctx addr, Statement (.shqLookup ctx addr) := by intros; rfl
theorem registerWrite : ∀ w off v, Statement (.registerWrite w off v) := by intros; rfl
theorem waitfullRetry : ∀ die slice, Statement (.waitfullRetry die slice) := by intros; rfl
theorem registerError : ∀ h lane r, Statement (.registerError h lane r) := by intros; rfl
theorem handStateError : ∀ h, Statement (.handStateError h) := by intros; rfl
theorem coreOffline : ∀ c, Statement (.coreOffline c) := by intros; rfl
theorem cacheError : ∀ x, Statement (.cacheError x) := by intros; rfl
theorem keyLoad : ∀ k, Statement (.keyLoad k) := by intros; rfl
theorem attestationReport : ∀ ctx, Statement (.attestationReport ctx) := by intros; rfl
theorem ethernetFrameDeliver : ∀ port data, Statement (.ethernetFrameDeliver port data) := by intros; rfl
theorem coldReset : ∀ b, Statement (.coldReset b) := by intros; rfl
theorem warmReset : ∀ b, Statement (.warmReset b) := by intros; rfl
theorem powerLoss : Statement .powerLoss := rfl
theorem firmwareUpdate : ∀ f, Statement (.firmwareUpdate f) := by intros; rfl
theorem recoveryRequest : Statement .recoveryRequest := rfl
theorem rgetDataReturn : ∀ msg data pois, Statement (.rgetDataReturn msg data pois) := by intros; rfl
theorem peerRefusal : ∀ msg reason, Statement (.peerRefusal msg reason) := by intros; rfl
theorem segmentRetransmission : ∀ msg seg, Statement (.segmentRetransmission msg seg) := by intros; rfl
theorem deviceFatalError : ∀ loc, Statement (.deviceFatalError loc) := by intros; rfl

end Sys2Proof.Laws.Words
end

