-- ==== Sys2Proof/Tests/Slice0.lean ====
section
/-! SUPPORT. Sys2Proof/Tests/Slice0.lean: small tests of one step or one word, with results worked out from the spec, and for
every statement with hypotheses a state that meets them. -/

namespace Sys2Proof.Tests

/- One theorem at a time: the tests are many and each is small. -/
set_option Elab.async false

open Sys2Proof Sys2Proof.Machine

/-! ## Small states -/

/-- A place within a clause whose header counts nothing on a peg. -/
def inClause : Pos := { pc := 0x1004, hdr := 0x1000, hw := placedHeader }

def laneAt (vals : KMap W32) (l : Nat) : Lane := { placedLane inClause l with regs := { vals := vals } }

/-- A hand whose suit 0 holds lanes 0 and 1, with these registers in both. -/
def handWith (vals : KMap W32) : Hand := { placedHand inClause with lanes := [(0, laneAt vals 0), (1, laneAt vals 1)] }

/-- v1 is 1, v2 0x40, v4 4, v6 6, v8 8 and every other register 0. -/
def vals : KMap W32 := [(1, 1), (2, 0x40), (4, 4), (6, 6), (8, 8)]

/-- The placed context with that hand, its suit issuing an instruction that ends at 0x1010. -/
def small (vals : KMap W32) : State :=
  { State.reset with
    ctxs := [(0, placedCtx)], cores := [(0, { hands := [(0, handWith vals)], touched := true })], cur := placedSuit, npc := 0x1010 }

/-- The same with page tables that map the first 1 GiB onto the pool. -/
def mapped (vals : KMap W32) : State := { small vals with mem := placedTables [] }

/-- Kernel 0 of context 0 changed. -/
def onKern (s : State) (f : Kernel → Kernel) : State := s.modKern 0 0 f
/-- Words of its launch record replaced. -/
def onRec (s : State) (ws : List (Nat × W64)) : State :=
  onKern s (fun k => { k with lrec := { k.lrec with w := ws.foldl (fun m e => m.set e.1 e.2) k.lrec.w } })

def h0 : HandRef := placedSuit.hr
def c0 : CoreRef := { die := 0, core := 0 }

/-- A register of lane 1 after an instruction. -/
def after (i : Instr) (s : State) (k : Nat) : W32 :=
  match exec i s with
  | .next t => rfVal (t.lane h0 1).regs k
  | _ => 0xDEAD

/-- Whether an instruction answers a next state that passes a test. -/
def runs (i : Instr) (s : State) (p : State → Bool) : Bool :=
  match exec i s with
  | .next t => p t
  | _ => false

/-! ## Ill-formed instructions: one for each check that makes an encoding legal (06 R139 to R145, R157, R162 and the field tables) -/

theorem test_wf_operandCode : (Instr.movExt Grd.always (.v 0) (.v 640)).wf = false := by decide
theorem test_wf_operandFile : (Instr.movExt Grd.always (.v 0) (.o 16)).wf = false := by decide
theorem test_wf_inlineRange : (Instr.movExt Grd.always (.v 0) (.imm 128)).wf = false := by decide
theorem test_wf_constantInExtended : (Instr.movExt Grd.always (.v 0) (.fc .one)).wf = false := by decide
theorem test_wf_baseOperand : (Instr.mov (.v 0) (.v 96)).wf = false := by decide
theorem test_wf_baseDestination : (Instr.mov (.v 96) (.v 0)).wf = false := by decide
theorem test_wf_destination : (Instr.movExt Grd.always (.o 16) (.v 0)).wf = false := by decide
theorem test_wf_destinationPair : (Instr.iadd64Ext Grd.always false false (.v 639) (.v 0) (.v 2)).wf = false := by decide
theorem test_wf_sourcePair : (Instr.brx Grd.always (.k 63)).wf = false := by decide
theorem test_wf_quad : (Instr.ld Grd.always false { seg := .gl, pol := .shared, disp := 0 } .b128 false (.v 637) (.v 0)).wf = false := by decide
theorem test_wf_range : (Instr.qscale Grd.always 0 (.v 0) 609).wf = false := by decide
theorem test_wf_cutRange : (Instr.cut { start := 630, len := 11 } { start := 0, len := 0 } { start := 0, len := 0 }).wf = false := by decide
theorem test_wf_cutSum : (Instr.cut { start := 0, len := 20 } { start := 0, len := 13 } { start := 0, len := 0 }).wf = false := by decide
theorem test_wf_guard : (Instr.exit { p := 8, neg := false }).wf = false := by decide
theorem test_wf_literal : (Instr.iaddExt Grd.always { size := .w32, sgn := false } false (.v 0) (.v 0) (.lit 0x100000000)).wf = false := by decide
theorem test_wf_pd7 : (Instr.iset Grd.always { size := .w32, sgn := false } .eq true 7 (.v 0) (.v 0) (.v 1)).wf = false := by decide
theorem test_wf_penOnPacked : (Instr.iset Grd.always { size := .w8, sgn := false } .eq true 0 (.v 0) (.v 0) (.v 1)).wf = false := by decide
theorem test_wf_absUnsigned : (Instr.iabsExt Grd.always { size := .w32, sgn := false } false (.v 0) (.v 0)).wf = false := by decide
theorem test_wf_rnd : (Instr.red Grd.always false { seg := .gl, pol := .shared, disp := 0 } .add .b32 .rne (.v 0) (.v 2)).wf = false := by decide
theorem test_wf_atomicSize : (Instr.red Grd.always false { seg := .gl, pol := .shared, disp := 0 } .fadd .b64 .mode (.v 0) (.v 2)).wf = false := by decide
theorem test_wf_sat : (Instr.i2f Grd.always .f32 true false .rne true (.v 0) (.v 0)).wf = false := by decide
theorem test_wf_sameFormat : (Instr.fcvt Grd.always .f16 .f16 false .rne false (.v 0) (.v 0) .zero).wf = false := by decide
theorem test_wf_unusedB : (Instr.fcvt Grd.always .f32 .f16 false .rne false (.v 0) (.v 0) (.v 1)).wf = false := by decide
theorem test_wf_header : (Instr.clauseHeader 12 15 0 0).wf = false := by decide
theorem test_wf_window : (Instr.movx Grd.always (.v 0) (.v 0) 0 0).wf = false := by decide
theorem test_wf_shift : (Instr.lea Grd.always false 5 (.v 0) (.v 2) (.v 4)).wf = false := by decide
theorem test_wf_format : (Instr.setfmt Grd.always 16 (.v 0)).wf = false := by decide
theorem test_wf_group : (Instr.pjoin Grd.always 0 .p4 2 (.v 0) (.v 0) (.v 1)).wf = false := by decide
theorem test_wf_mask : (Instr.elect Grd.always { pen := false, pd := 0, msk := false, scope := .suit } (.v 0) (.v 1)).wf = false := by decide
theorem test_wf_tmaskScope : (Instr.tmask Grd.always { pen := false, pd := 0, msk := false, scope := .tbl } (.v 0) .zero).wf = false := by decide
theorem test_wf_signedLoad : (Instr.ld Grd.always false { seg := .gl, pol := .shared, disp := 0 } .b32 true (.v 0) (.v 0)).wf = false := by decide
theorem test_wf_prefPolicy : (Instr.pref Grd.always { seg := .gl, pol := .core, disp := 0 } false (.v 0)).wf = false := by decide
theorem test_wf_movsSize : (Instr.movs Grd.always false { seg := .gl, pol := .shared, disp := 0 } false .b8 (.v 0) (.v 2)).wf = false := by decide
theorem test_wf_engineSegment : (Instr.cpy Grd.always false .kc .gl (.v 0) (.v 2) (.v 4)).wf = false := by decide
theorem test_wf_baseEngineSegment : (Instr.gath Grd.always false .sc .gl (.v 0) (.v 2) 4).wf = false := by decide
theorem test_wf_peer : (Instr.rsig Grd.always false 4096 (.v 0) (.v 2)).wf = false := by decide
theorem test_wf_tile : (Instr.mzero 8).wf = false := by decide
theorem test_wf_mmagOffset : (Instr.mmag false false { team := false, tile := 0, fa := 0, fb := 0, km1 := 0 } 0 (.k 55) none).wf = false := by decide
theorem test_wf_drainRange : (Instr.mdrain Grd.always false 0 .f32 false 0 .rne false 577 .zero).wf = false := by decide
theorem test_wf_drainFormat : (Instr.mdrain Grd.always false 0 .f32 false 1 .rne false 0 .zero).wf = false := by decide
theorem test_wf_willCount : (Instr.will 0 16 (.v 2)).wf = false := by decide
theorem test_wf_setseg : (Instr.setseg Grd.always .sc 0).wf = false := by decide
theorem test_wf_prn : (Instr.movpRead Grd.always false 0 0x009 (.v 0)).wf = false := by decide
theorem test_wf_movpContext : (Instr.movpRead Grd.always false 1 0x001 (.v 0)).wf = false := by decide
theorem test_wf_peg : (Instr.waitp Grd.always (.v 0) 12).wf = false := by decide
theorem test_wf_barrier : (Instr.bar 0).wf = false := by decide
theorem test_wf_trapCode : (Instr.trap Grd.always 65536).wf = false := by decide
theorem test_wf_meld : (Instr.meld 4096).wf = false := by decide

/-! ## Words (the examples of 06 to 14 and 26; the fields of each are worked out there) -/

/-- What words decode to, or why they are refused. -/
def word (ws : List W32) : Option Instr := match decodeAny ws with | .ok i => some i | .error _ => none
def refusedAt (ws : List W32) : Option Illegal := match decodeAny ws with | .ok _ => none | .error e => some e

/-- 06: IADD v5, v4, 1. -/
theorem test_word_iadd : word [0xE8102840] = some (.iadd (.v 5) (.v 4) (.imm 1)) := by decide
/-- 06: header, SETB 15, SETA 1, WAIT 9, CHUNKS 1. -/
theorem test_word_header : word [0x78804BFC] = some (.clauseHeader 15 1 9 1) := by decide
theorem test_word_nop : word [0] = some .nop := by decide
/-- 07: BR p3 with offset −4 chunks. -/
theorem test_word_br : word [0x5C749009, 0x007A4A92, 0xFFFFFFFC] = some (.br Grd.always (.p 3) 0xFFFFFFFC) := by decide
/-- 07: CUT v10..v13, v40..v41; 07 R170: a range of length 0 at a field other than 658 is illegal. -/
theorem test_word_cut : word [0x01549029, 0x007A4828, 0x84] = some (.cut { start := 10, len := 4 } { start := 40, len := 2 } { start := 0, len := 0 }) := by decide
theorem test_word_cutField : refusedAt [0x01549029, 0x00704828, 0x84] = some ⟨1, .range⟩ := by decide
/-- 08: ISUB v7, v2, v5, and IADD.sat.s.b8 v6, v3, v9. -/
theorem test_word_isub : word [0x0A083A40] = some (.isub (.v 7) (.v 2) (.v 5)) := by decide
theorem test_word_iaddExt : word [0x00603041, 0xA87A4809, 0] = some (.iaddExt Grd.always { size := .w8, sgn := true } true (.v 6) (.v 3) (.v 9)) := by decide
/-- 09: FMUL v2, v1, l0. -/
theorem test_word_fmul : word [0xE00414C0] = some (.fmul (.v 2) (.v 1) (.l 0)) := by decide
/-- 10: HRED.fadd.tbl.rne v9, v8. -/
theorem test_word_hred : word [0x01004949, 0x817A4A92, 1] = some (.hred Grd.always { pen := false, pd := 0, msk := false, scope := .tbl } .fadd .rne (.v 9) (.v 8) .zero) := by decide
/-- 11: LD.b32 v4, [gl, v2, 64]. -/
theorem test_word_ld : word [0x00402161, 0x207A4A92, 0x40] = some (.ld Grd.always false { seg := .gl, pol := .shared, disp := 0x40 } .b32 false (.v 4) (.v 2)) := by decide
/-- 12: CPYW of v4 bytes at gl v2 to talon 0. -/
theorem test_word_cpyw : word [0x52549199, 0x00701002, 0x20000000] = some (.cpyw Grd.always false .gl .zero (.v 2) (.v 4)) := by decide
/-- 13: MMA with A = v0, FA = FB = 1, KM1 = 0. -/
theorem test_word_mma : word [0x001491BD, 0x007A4A92, 0x00011000] = some (.mma false { team := false, tile := 0, fa := 1, fb := 1, km1 := 0 } 0 .zero none) := by decide
/-- 14: CLAIM into v14 and v15. -/
theorem test_word_claim : word [0x028071DD, 0x107A4A92, 0] = some (.claim Grd.always false 14 1 (.v 20)) := by decide
/-- 26: MOVP write of k4 to CX.CTL of context 12. -/
theorem test_word_movp : word [0x525493F1, 0x007A4AA4, 0x010C1181] = some (.movpWrite Grd.always true 12 0x181 (.k 4)) := by decide
/-- 06 R157, R139: a bit that no field names is refused. -/
theorem test_word_reserved : refusedAt [0x80402161, 0x207A4A92, 0x40] = some ⟨0, .reserved⟩ := by decide
/-- The table's numbering of a word, and step fetching what stands there. -/
theorem test_word_table : decodeTableWord 32 0xE8102840 = some (.iadd (.v 5) (.v 4) (.imm 1)) := by decide
theorem test_step_iadd : (match step (State.reset.withFetchWord 32 0xE8102840) with | .next t => rfVal (t.lane h0 3).regs 5 | _ => 0) = 1 := by decide +kernel

/-! One word or more for every constructor that is no event, packed by hand from the field tables: the words, and what they are. -/

/-- The base forms (06 Tables 6.2, 6.3). -/
theorem test_words_base0 : ([
    ([0x00000000], .nop),
    ([0xE1800040], .iadd (.v 0) (.o 0) (.l 0)),
    ([0xE3840A40], .isub (.v 1) (.o 1) (.l 1)),
    ([0xE1881044], .imul (.v 2) (.o 2) (.l 0)),
    ([0xE38C1A44], .imulh (.v 3) (.o 3) (.l 1)),
    ([0xE190204C], .imin (.v 4) (.o 4) (.l 0)),
    ([0xE3942A4C], .imax (.v 5) (.o 5) (.l 1)),
    ([0xE1983054], .and (.v 6) (.o 6) (.l 0)),
    ([0xE39C3A54], .or (.v 7) (.o 7) (.l 1)),
    ([0xE1A04454], .xor (.v 8) (.o 8) (.l 0)),
    ([0xE3A44E54], .andn (.v 9) (.o 9) (.l 1)),
    ([0xE1A8505C], .shl (.v 10) (.o 10) (.l 0)),
    ([0xE3AC5A5C], .shr (.v 11) (.o 11) (.l 1)),
    ([0xE1B0645C], .sar (.v 12) (.o 12) (.l 0)),
    ([0xE3B46A60], .rot (.v 13) (.o 13) (.l 1))] : List (List W32 × Instr)).all (fun p => decide (word p.1 = some p.2)) = true := by decide +kernel

/-- The base forms (06 Tables 6.2, 6.3). -/
theorem test_words_base1 : ([
    ([0xE1B870C0], .fadd (.v 14) (.o 14) (.l 0)),
    ([0xE3BC7AC0], .fsub (.v 15) (.o 15) (.l 1)),
    ([0xE18084C0], .fmul (.v 16) (.o 0) (.l 0)),
    ([0xE38488C8], .fmin (.v 17) (.o 1) (.l 1)),
    ([0xE18892C8], .fmax (.v 18) (.o 2) (.l 0)),
    ([0xE38C98E0], .hadd2 (.v 19) (.o 3) (.l 1)),
    ([0xE190A2E0], .hmul2 (.v 20) (.o 4) (.l 0)),
    ([0xE394A8E4], .hmin2 (.v 21) (.o 5) (.l 1)),
    ([0xE198B2E4], .hmax2 (.v 22) (.o 6) (.l 0)),
    ([0xE57F0050], .iabs (.o 0) (.v 95)),
    ([0xE57B0A50], .ineg (.o 1) (.v 94)),
    ([0xE5771058], .not (.o 2) (.v 93)),
    ([0xE5731868], .popc (.o 3) (.v 92)),
    ([0xE56F2268], .clz (.o 4) (.v 91)),
    ([0xE56B2C68], .ctz (.o 5) (.v 90))] : List (List W32 × Instr)).all (fun p => decide (word p.1 = some p.2)) = true := by decide +kernel

/-- The base forms (06 Tables 6.2, 6.3). -/
theorem test_words_base2 : ([
    ([0xE5673668], .brev (.o 6) (.v 89)),
    ([0xE563387C], .mov (.o 7) (.v 88)),
    ([0xE55F40D4], .frcp (.o 8) (.v 87)),
    ([0xE55B4AD4], .frsq (.o 9) (.v 86)),
    ([0xE55754D4], .fsqrt (.o 10) (.v 85)),
    ([0xE55358D8], .fexp2 (.o 11) (.v 84)),
    ([0xE54F62D8], .flog2 (.o 12) (.v 83)),
    ([0xE54B6CD8], .ftanh (.o 13) (.v 82)),
    ([0xE54770DC], .fsin (.o 14) (.v 81)),
    ([0xE5437ADC], .fcos (.o 15) (.v 80)),
    ([0xEFBAF888], .iadd64 (.v 95) (.o 14) (.imm (-1))),
    ([0xF4080CC0], .fmul (.v 1) (.v 2) (.fc .half)),
    ([0xE5CF907C], .mov .none (.spec .lane))] : List (List W32 × Instr)).all (fun p => decide (word p.1 = some p.2)) = true := by decide +kernel

/-- 07 Table 7.2. -/
theorem test_words_control0 : ([
    ([0x52549005, 0x00BA4A92, 0x80000001], .bra { p := 3, neg := true } 0x80000001),
    ([0x5C749009, 0x007A4A92, 0xFFFFFFFC], .br Grd.always (.p 3) 0xFFFFFFFC),
    ([0x5BD4900D, 0x00BA4A92, 0x00000000], .brx { p := 3, neg := true } (.k 62)),
    ([0x52547011, 0x00BA4A92, 0x00000009], .call { p := 3, neg := true } (.o 14) 9),
    ([0x0113F015, 0x007A4A92, 0x00000000], .callx Grd.always (.v 638) (.v 8)),
    ([0x4FD49019, 0x00BA4A92, 0x00000000], .ret { p := 3, neg := true } (.v 638)),
    ([0x5254901D, 0x007A4A92, 0x00000FFF], .meld 4095),
    ([0x52549021, 0x00BA4A92, 0x00000000], .exit { p := 3, neg := true }),
    ([0x52547825, 0x007A4A92, 0x00000000], .draw (.o 15)),
    ([0x01549029, 0x0079E428, 0x00007083], .cut { start := 10, len := 3 } { start := 40, len := 2 } { start := 633, len := 7 }),
    ([0x00D4902F, 0xF0B9C000, 0xFFFFFFFF, 0x23456789, 0x00000001], .suspend { p := 3, neg := true } (.v 6) (.lit 0x123456789) 0xFFFFFFFF 624 15),
    ([0x7FF49031, 0x00BA4A92, 0x0000000B], .waitp { p := 3, neg := true } (.imm 127) 11),
    ([0x52549035, 0x007A4A92, 0x00000007], .bar 7),
    ([0x52549039, 0x007A4A92, 0x00000000], .yield),
    ([0x52549039, 0x007A4A92, 0x00000001], .yieldSlot)] : List (List W32 × Instr)).all (fun p => decide (word p.1 = some p.2)) = true := by decide +kernel

/-- 07 Table 7.2. -/
theorem test_words_control1 : ([
    ([0x5254903D, 0x00BA4A92, 0x0000FFFF], .trap { p := 3, neg := true } 65535),
    ([0x5254923D, 0x007A4A92, 0x00000000], .tret)] : List (List W32 × Instr)).all (fun p => decide (word p.1 = some p.2)) = true := by decide +kernel

/-- 08 Table 8.2. -/
theorem test_words_integer0 : ([
    ([0x0033F841, 0xA8BA4B00, 0x00000000], .iaddExt { p := 3, neg := true } { size := .w8, sgn := true } true (.v 639) (.v 1) (.imm (-128))),
    ([0x0033FA41, 0x40BA4B00, 0x00000000], .isubExt { p := 3, neg := true } { size := .w16, sgn := false } false (.v 639) (.v 1) (.imm (-128))),
    ([0x00400C41, 0x007B9803, 0x0000000E], .iaddc Grd.always true 6 (.v 1) (.v 2) (.v 3) (.p 6)),
    ([0x0033F845, 0x28BA4B00, 0x00000000], .imulExt { p := 3, neg := true } { size := .w32, sgn := true } true (.v 639) (.v 1) (.imm (-128))),
    ([0x52340A47, 0x407A4800, 0x00000000, 0xCCCCCCCD, 0x00000000], .imulhExt Grd.always { size := .w16, sgn := false } (.o 1) (.l 1) (.lit 0xCCCCCCCD)),
    ([0x00400849, 0xA8701003, 0x00000000], .imad Grd.always { size := .w8, sgn := true } true (.v 1) (.v 2) (.v 3) (.v 4)),
    ([0x00801249, 0x28BAA005, 0x00000000], .imadw { p := 3, neg := true } true true (.v 2) (.v 4) (.v 5) (.k 8)),
    ([0x0033F84D, 0xA0BA4B00, 0x00000000], .iminExt { p := 3, neg := true } { size := .w8, sgn := true } (.v 639) (.v 1) (.imm (-128))),
    ([0x0033FA4D, 0x40BA4B00, 0x00000000], .imaxExt { p := 3, neg := true } { size := .w16, sgn := false } (.v 639) (.v 1) (.imm (-128))),
    ([0x00801851, 0xA87A4A92, 0x00000000], .iabsExt Grd.always { size := .w8, sgn := true } true (.v 3) (.v 4)),
    ([0x00801A51, 0x487A4A92, 0x00000000], .inegExt Grd.always { size := .w16, sgn := false } true (.v 3) (.v 4)),
    ([0x0033F855, 0x00BA4B00, 0x00000000], .andExt { p := 3, neg := true } (.v 639) (.v 1) (.imm (-128))),
    ([0x0033FA55, 0x00BA4B00, 0x00000000], .orExt { p := 3, neg := true } (.v 639) (.v 1) (.imm (-128))),
    ([0x0033FC55, 0x00BA4B00, 0x00000000], .xorExt { p := 3, neg := true } (.v 639) (.v 1) (.imm (-128))),
    ([0x0033FE55, 0x00BA4B00, 0x00000000], .andnExt { p := 3, neg := true } (.v 639) (.v 1) (.imm (-128)))] : List (List W32 × Instr)).all (fun p => decide (word p.1 = some p.2)) = true := by decide +kernel

/-- 08 Table 8.2. -/
theorem test_words_integer1 : ([
    ([0x5F001859, 0x00BA4A92, 0x00000000], .notExt { p := 3, neg := true } (.v 3) (.spec .psum)),
    ([0x0033F85D, 0x40BA4B00, 0x00000000], .shlExt { p := 3, neg := true } .w16 (.v 639) (.v 1) (.imm (-128))),
    ([0x0033FA5D, 0x80BA4B00, 0x00000000], .shrExt { p := 3, neg := true } .w8 (.v 639) (.v 1) (.imm (-128))),
    ([0x0033FC5D, 0x00BA4B00, 0x00000000], .sarExt { p := 3, neg := true } .w32 (.v 639) (.v 1) (.imm (-128))),
    ([0x00400861, 0x00701003, 0x00000001], .shf Grd.always true (.v 1) (.v 2) (.v 3) (.v 4)),
    ([0x0033FA61, 0x80BA4B00, 0x00000001], .rotExt { p := 3, neg := true } .w8 true (.v 639) (.v 1) (.imm (-128))),
    ([0x0033F865, 0x20BA4B00, 0x00000000], .bfe { p := 3, neg := true } true (.v 639) (.v 1) (.imm (-128))),
    ([0x00400A65, 0x00701003, 0x00000000], .bfi Grd.always (.v 1) (.v 2) (.v 3) (.v 4)),
    ([0x5BE01869, 0x00BA4A92, 0x00000000], .popcExt { p := 3, neg := true } (.v 3) (.k 63)),
    ([0x5BE01A69, 0x00BA4A92, 0x00000000], .clzExt { p := 3, neg := true } (.v 3) (.k 63)),
    ([0x5BE01C69, 0x00BA4A92, 0x00000000], .ctzExt { p := 3, neg := true } (.v 3) (.k 63)),
    ([0x5BE01E69, 0x00BA4A92, 0x00000000], .brevExt { p := 3, neg := true } (.v 3) (.k 63)),
    ([0x0040086D, 0x00701003, 0x00000000], .bsel Grd.always (.v 1) (.v 2) (.v 3) (.v 4)),
    ([0x00402071, 0x207A4B83, 0x000000D5], .iset Grd.always { size := .w32, sgn := true } .ge true 5 (.v 4) (.v 2) (.imm 3)),
    ([0x5C349075, 0x007B9EE2, 0x000006C5], .pset Grd.always 6 0xC5 .none (.p 1) (.p 2) (.p 7))] : List (List W32 × Instr)).all (fun p => decide (word p.1 = some p.2)) = true := by decide +kernel

/-- 08 Table 8.2. -/
theorem test_words_integer2 : ([
    ([0x00400879, 0x007B8003, 0x00000000], .sel Grd.always (.v 1) (.v 2) (.v 3) (.p 0)),
    ([0x5DF3F87D, 0x00BA4A92, 0x00000000], .movExt { p := 3, neg := true } (.v 639) (.spec .die)),
    ([0x00400881, 0x007A4864, 0x0000021C], .movx Grd.always (.v 1) (.v 2) 100 540),
    ([0x00432281, 0x007A4803, 0x0000021C], .movxw Grd.always 100 (.v 2) (.v 3) 540),
    ([0x00801085, 0x207A4805, 0x00000004], .lea Grd.always true 4 (.v 2) (.v 4) (.v 5)),
    ([0x0080108B, 0x287A4800, 0x00000000, 0x76543210, 0xFEDCBA98], .iadd64Ext Grd.always true true (.v 2) (.v 4) (.lit 0xFEDCBA9876543210))] : List (List W32 × Instr)).all (fun p => decide (word p.1 = some p.2)) = true := by decide +kernel

/-- 09 Table 9.2. -/
theorem test_words_float0 : ([
    ([0x0033F8C1, 0x01BA4B00, 0x00000000], .faddExt { p := 3, neg := true } .rne (.v 639) (.v 1) (.imm (-128))),
    ([0x0033FAC1, 0x06BA4B00, 0x00000000], .fsubExt { p := 3, neg := true } .rs (.v 639) (.v 1) (.imm (-128))),
    ([0x0033FCC1, 0x02BA4B00, 0x00000000], .fmulExt { p := 3, neg := true } .rtz (.v 639) (.v 1) (.imm (-128))),
    ([0x004008C5, 0x05701003, 0x00000002], .fmac Grd.always .rna true false (.v 1) (.v 2) (.v 3) (.v 4)),
    ([0x0033F8C9, 0x00BA4B00, 0x00000000], .fminExt { p := 3, neg := true } (.v 639) (.v 1) (.imm (-128))),
    ([0x0033FAC9, 0x00BA4B00, 0x00000000], .fmaxExt { p := 3, neg := true } (.v 639) (.v 1) (.imm (-128))),
    ([0x004008CD, 0x007A4803, 0x000000D7], .fset Grd.always .nan true 5 (.v 1) (.v 2) (.v 3)),
    ([0x004008D1, 0x007A4803, 0x000000C0], .fclass Grd.always true 4 (.v 1) (.v 2) (.v 3)),
    ([0x008018D5, 0x00BA4A92, 0x00000000], .frcpExt { p := 3, neg := true } (.v 3) (.v 4)),
    ([0x00801AD5, 0x00BA4A92, 0x00000000], .frsqExt { p := 3, neg := true } (.v 3) (.v 4)),
    ([0x008018D9, 0x00BA4A92, 0x00000000], .fexp2Ext { p := 3, neg := true } (.v 3) (.v 4)),
    ([0x00801AD9, 0x00BA4A92, 0x00000000], .flog2Ext { p := 3, neg := true } (.v 3) (.v 4)),
    ([0x00801CD9, 0x00BA4A92, 0x00000000], .ftanhExt { p := 3, neg := true } (.v 3) (.v 4)),
    ([0x008018DD, 0x00BA4A92, 0x00000000], .fsinExt { p := 3, neg := true } (.v 3) (.v 4)),
    ([0x00801ADD, 0x00BA4A92, 0x00000000], .fcosExt { p := 3, neg := true } (.v 3) (.v 4))] : List (List W32 × Instr)).all (fun p => decide (word p.1 = some p.2)) = true := by decide +kernel

/-- 09 Table 9.2. -/
theorem test_words_float1 : ([
    ([0x00801CD5, 0x037A4A92, 0x00000000], .fsqrtExt Grd.always .rup (.v 3) (.v 4)),
    ([0x0033F8E1, 0x1CBA4B00, 0x00000001], .hadd2Ext { p := 3, neg := true } true .rdn true true (.v 639) (.v 1) (.imm (-128))),
    ([0x0033FAE1, 0x08BA4B00, 0x00000000], .hmul2Ext { p := 3, neg := true } false .mode true (.v 639) (.v 1) (.imm (-128))),
    ([0x00400CE1, 0x19701003, 0x00000001], .hfma2 Grd.always true .rne true false true (.v 1) (.v 2) (.v 3) (.v 4)),
    ([0x0033F8E5, 0x10BA4B00, 0x00000000], .hmin2Ext { p := 3, neg := true } true (.v 639) (.v 1) (.imm (-128))),
    ([0x0033FAE5, 0x00BA4B00, 0x00000000], .hmax2Ext { p := 3, neg := true } false (.v 639) (.v 1) (.imm (-128))),
    ([0x008010E9, 0xB27A4A92, 0x00000001], .f2i Grd.always .bf16 true true true .rtz (.v 2) (.v 4)),
    ([0x008012E9, 0x5B7A4A92, 0x00000000], .i2f Grd.always .f16 false true .rup true (.v 2) (.v 4)),
    ([0x008010ED, 0x2E7A4805, 0x00000000], .fcvt Grd.always .bf16 .f32 false .rs true (.v 2) (.v 4) (.v 5)),
    ([0x4C0008F1, 0x007A4A92, 0x00000009], .qscale Grd.always 9 (.v 1) 608),
    ([0x4F8008F5, 0x097A4805, 0x00000002], .qpack Grd.always 2 .rne true (.v 1) 636 (.v 5)),
    ([0x0033E2F5, 0x007A4805, 0x00000003], .qunpk Grd.always 3 636 (.v 1) (.v 5)),
    ([0x4F8008F9, 0x007A4A92, 0x00000024], .psplit Grd.always 4 .p2 (.v 1) 636),
    ([0x00400AF9, 0x007A4803, 0x000001F5], .pjoin Grd.always 5 .p1 7 (.v 1) (.v 2) (.v 3)),
    ([0x525490FF, 0x007A4800, 0x00000002, 0x00040194, 0x00000000], .setfmt Grd.always 2 (.lit 0x00040194))] : List (List W32 × Instr)).all (fun p => decide (word p.1 = some p.2)) = true := by decide +kernel

/-- 10 Table 10.2. -/
theorem test_words_lanes0 : ([
    ([0x00801141, 0x10701C06, 0x000003D5], .shfl Grd.always { pen := true, pd := 5, msk := true, scope := .tbl } .xor true (.v 2) (.v 4) (.v 6) (.v 7)),
    ([0x00400945, 0x00700E92, 0x00000304], .vote Grd.always { pen := false, pd := 0, msk := true, scope := .suit } .ballot (.v 1) (.v 2) (.v 3)),
    ([0x01004949, 0x817A4A92, 0x00000001], .hred Grd.always { pen := false, pd := 0, msk := false, scope := .tbl } .fadd .rne (.v 9) (.v 8) .zero),
    ([0x0080114D, 0xB0BA8692, 0x00000104], .hscan { p := 3, neg := true } { pen := false, pd := 0, msk := true, scope := .suit } .add64 true .mode (.v 2) (.v 4) (.k 1)),
    ([0x00400951, 0x10701692, 0x000000D5], .lmatch Grd.always { pen := true, pd := 5, msk := true, scope := .tbl } true (.v 1) (.v 2) (.v 5)),
    ([0x52400955, 0x00701692, 0x00000004], .tmask Grd.always { pen := false, pd := 0, msk := true, scope := .suit } (.v 1) (.v 5)),
    ([0x52400B55, 0x00BA4A92, 0x000000A0], .elect { p := 3, neg := true } { pen := true, pd := 2, msk := false, scope := .suit } (.v 1) .zero)] : List (List W32 × Instr)).all (fun p => decide (word p.1 = some p.2)) = true := by decide +kernel

/-- 11 Tables 11.2, 11.3. -/
theorem test_words_memory0 : ([
    ([0x00402161, 0x90BA4A92, 0xB80FFFF8], .ld { p := 3, neg := true } true { seg := .ep, pol := .stream, disp := 0xFFFF8 } .b16 true (.v 4) (.v 2)),
    ([0x00949165, 0x407A4A7C, 0x40000010], .st Grd.always false { seg := .sc, pol := .shared, disp := 0x00010 } .b128 (.v 4) (.v 636)),
    ([0x00402169, 0x267A4806, 0xB8DFFFF8], .atom Grd.always true { seg := .ep, pol := .stream, disp := 0xFFFF8 } .bfadd2 .b32 .rs (.v 4) (.v 2) (.v 6)),
    ([0x0040216D, 0x30702006, 0x40000010], .cas Grd.always false { seg := .sc, pol := .shared, disp := 0x00010 } .b64 (.v 4) (.v 2) (.v 6) (.v 8)),
    ([0x00549171, 0x307A4806, 0xB89FFFF8], .red Grd.always true { seg := .ep, pol := .stream, disp := 0xFFFF8 } .incw .b64 .mode (.v 2) (.v 6)),
    ([0x00D49175, 0x307A4B81, 0x00000000], .evadd Grd.always false { seg := .gl, pol := .shared, disp := 0 } .none (.v 6) (.imm 1)),
    ([0x00D49179, 0x10BA4A92, 0x380FFFF8], .pref { p := 3, neg := true } { seg := .ep, pol := .stream, disp := 0xFFFF8 } true (.v 6)),
    ([0x5254917D, 0x00BA4A92, 0x80000000], .publ { p := 3, neg := true } true),
    ([0x5254937D, 0x00BA4A92, 0x00000000], .invl { p := 3, neg := true }),
    ([0x00549181, 0x407A4804, 0x85000008], .movs Grd.always true { seg := .gl, pol := .core, disp := 8 } true .b128 (.v 2) (.v 4)),
    ([0x52549185, 0x00BA4AA5, 0x00000000], .setmode { p := 3, neg := true } (.k 5))] : List (List W32 × Instr)).all (fun p => decide (word p.1 = some p.2)) = true := by decide +kernel

/-- 12 Tables 12.2, 12.3. -/
theorem test_words_engines0 : ([
    ([0x00549191, 0x00701804, 0xC2000000], .cpy Grd.always true .sc .kc (.v 2) (.v 4) (.v 6)),
    ([0x00549195, 0x0079F004, 0x38000000], .cpy2 Grd.always false .ep .sc (.v 2) (.v 4) 636),
    ([0x00549199, 0x00701804, 0xA6000000], .cpyw Grd.always true .ep (.v 2) (.v 4) (.v 6)),
    ([0x0054919D, 0x00B9F004, 0x06000000], .gath { p := 3, neg := true } false .gl .ep (.v 2) (.v 4) 636),
    ([0x005491A1, 0x00702004, 0xB2000000], .scat Grd.always true .ep .kc (.v 2) (.v 4) 8),
    ([0x005491A5, 0x23701804, 0x02000000], .sred Grd.always false .gl .kc true false .rup (.v 2) (.v 4) (.v 6)),
    ([0x005491A9, 0xDE701804, 0xB0B00000], .scvt Grd.always true .ep .gl .f16 .nar 11 .rs true (.v 2) (.v 4) (.v 6)),
    ([0x005491AD, 0x00701804, 0x88000FFF], .rput Grd.always true .sc 4095 (.v 2) (.v 4) (.v 6)),
    ([0x005491B1, 0x00701804, 0x30000007], .rget Grd.always false .ep 7 (.v 2) (.v 4) (.v 6)),
    ([0x005491B5, 0x007A4804, 0x80000800], .rsig Grd.always true 2048 (.v 2) (.v 4))] : List (List W32 × Instr)).all (fun p => decide (word p.1 = some p.2)) = true := by decide +kernel

/-- 13 Tables 13.3, 13.4. -/
theorem test_words_matrix0 : ([
    ([0x525491B9, 0x007A4A92, 0x60000000], .mzero 6),
    ([0x0C9491BD, 0x00732007, 0xD809601F], .mma true { team := true, tile := 5, fa := 9, fb := 6, km1 := 31 } 100 (.v 7) (some 200)),
    ([0x0C9491C1, 0x007A4807, 0x24012003], .mmag false true { team := false, tile := 2, fa := 1, fb := 2, km1 := 3 } 100 (.v 7) none),
    ([0x001491C1, 0x007002D6, 0xF80FF000], .mmag true false { team := true, tile := 7, fa := 15, fb := 15, km1 := 0 } 0 (.k 54) (some 0)),
    ([0x525379C7, 0x39BA4800, 0xB010C000, 0x3F800000, 0x00000000], .mdrain { p := 3, neg := true } true 3 .nar true 12 .rne true 623 (.lit 0x3F800000)),
    ([0x005491C9, 0x227A4804, 0x42500000], .mdst Grd.always false 4 .f16 true .sc .stream .rtz false (.v 2) (.v 4)),
    ([0x005491CD, 0x00BA4803, 0x10000000], .mscale { p := 3, neg := true } 1 (.v 2) (.v 3)),
    ([0x524011D1, 0x007A4A92, 0xF0000800], .mstat Grd.always true 7 true (.v 2))] : List (List W32 × Instr)).all (fun p => decide (word p.1 = some p.2)) = true := by decide +kernel

/-- 14 Table 14.2. -/
theorem test_words_system0 : ([
    ([0x029491D9, 0x107A481E, 0x00000000], .will 20 1 (.v 30)),
    ([0x029381DD, 0xF0BA4A92, 0x80000000], .claim { p := 3, neg := true } true 624 15 (.v 20)),
    ([0x524023DD, 0x007A4A92, 0x80000000], .estat Grd.always true (.v 4)),
    ([0x00C021E1, 0x007AA408, 0xC0000000], .deal Grd.always true .sc (.v 4) (.v 6) (.v 8) (.k 9)),
    ([0x00C021E5, 0x007A4A92, 0x30000000], .launch Grd.always false .ep (.v 4) (.v 6)),
    ([0x00C021E9, 0x00BA4A92, 0x80000000], .deckqPend { p := 3, neg := true } true (.v 4) (.v 6)),
    ([0x00C021E9, 0x10BA4A92, 0x80000000], .deckqClose { p := 3, neg := true } true (.v 4) (.v 6)),
    ([0x00C021E9, 0x20BA4A92, 0x80000000], .deckqState { p := 3, neg := true } true (.v 4) (.v 6)),
    ([0x00C021E9, 0x30BA4A92, 0x80000000], .deckqCancel { p := 3, neg := true } true (.v 4) (.v 6)),
    ([0x524021ED, 0x00BA4A92, 0x00000000], .chke { p := 3, neg := true } (.v 4)),
    ([0x524021ED, 0x00BA4A92, 0x00000001], .chkeTrap { p := 3, neg := true } (.v 4)),
    ([0x4F9491F1, 0x00BA4A92, 0x20000000], .setseg { p := 3, neg := true } .tl 636),
    ([0x524023F1, 0x007A4A92, 0x01FF0180], .movpRead Grd.always true 255 0x180 (.v 4)),
    ([0x525493F3, 0x00BA4800, 0x00001150, 0x80010001, 0x00000000], .movpWrite { p := 3, neg := true } false 0 0x150 (.lit 0x80010001)),
    ([0x00C021F5, 0x00BA4A92, 0x00000000], .keyz { p := 3, neg := true } (.v 4) (.v 6))] : List (List W32 × Instr)).all (fun p => decide (word p.1 = some p.2)) = true := by decide +kernel

/-- 14 Table 14.2. -/
theorem test_words_system1 : ([
    ([0x00C021F9, 0x00BA4A92, 0x80000000], .scrub { p := 3, neg := true } true (.v 4) (.v 6))] : List (List W32 × Instr)).all (fun p => decide (word p.1 = some p.2)) = true := by decide +kernel

/-! ## Results worked out in the spec -/

/-- 08: bytes of 0x7F800102 + 0x01FF0304, clamped and wrapped. -/
theorem test_iadd_sat : after (.iaddExt Grd.always { size := .w8, sgn := true } true (.v 6) (.v 3) (.v 9)) (small [(3, 0x7F800102), (9, 0x01FF0304)]) 6 = 0x7F800406 := by decide +kernel
theorem test_iadd_wrap : after (.iaddExt Grd.always { size := .w8, sgn := true } false (.v 6) (.v 3) (.v 9)) (small [(3, 0x7F800102), (9, 0x01FF0304)]) 6 = 0x807F0406 := by decide +kernel
/-- 08: 1,234,567,891 divided by 10, as a high product and a shift by 3. -/
theorem test_imulh : after (.imulhExt Grd.always { size := .w32, sgn := false } (.v 2) (.v 1) (.lit 0xCCCCCCCD)) (small [(1, 0x499602D3)]) 2 = 0x3ADE68A8 := by decide +kernel
theorem test_shr : after (.shrExt Grd.always .w32 (.v 2) (.v 1) (.imm 3)) (small [(1, 0x3ADE68A8)]) 2 = 0x075BCD15 := by decide +kernel
/-- 08 R189: the bytes that C picks from B:A. -/
theorem test_bsel : after (.bsel Grd.always (.v 4) (.v 1) (.v 2) (.v 3)) (small [(1, 0x44332211), (2, 0x88776655), (3, 0x1F070400)]) 4 = 0xFF885511 := by decide +kernel
/-- 09: a block of three values under the descriptor 0x00040194: scale, codes, plane, values again. -/
def block : State :=
  let s := small [(0, 0x41200000), (1, 0xC0400000), (2, 0x3F400000), (40, 0x00010B06), (61, 1)]
  s.modHand h0 (fun d => { d with sets := d.sets.map (fun e => (e.1, { e.2 with fmts := [(2, 0x00040194)] })) })
theorem test_qscale : after (.qscale Grd.always 2 (.v 50) 0) block 50 = 1 := by decide +kernel
theorem test_qpack : after (.qpack Grd.always 2 .rne false (.v 50) 0 (.imm 1)) block 50 = 0x00010B06 := by decide +kernel
theorem test_psplit : after (.psplit Grd.always 2 .p4 (.v 50) 40) block 50 = 0x000001B6 := by decide +kernel
theorem test_qunpk : (after (.qunpk Grd.always 2 50 (.v 40) (.v 61)) block 50, after (.qunpk Grd.always 2 50 (.v 40) (.v 61)) block 51, after (.qunpk Grd.always 2 50 (.v 40) (.v 61)) block 52) = (0x41000000, 0xC0400000, 0x3F800000) := by decide +kernel
/-- 07 R178, 22 R381: with no trap handler (CX.TRAPPC 0) a TRAP halts the context with kind 0x23; with one it enters it. -/
theorem test_trap_noHandler : runs (.trap Grd.always 7) (mapped []) (fun t => (t.ctxD 0).state = 2) = true := by decide +kernel
theorem test_trap_enters : runs (.trap Grd.always 7) ((mapped []).setReg 0 0x11 0x2000) (fun t => ((t.hand h0).suit 0).map (fun u => (u.pos.pc, u.trap.isSome)) = some (0x2000, true)) = true := by decide +kernel

/-- The digest of "abc" of FIPS 180-4, and the signature of the reset state's firmware. -/
theorem test_sha384_abc : sha384 [0x61, 0x62, 0x63] =
    0xcb00753f45a35e8bb5a03d699ac65007272c32ab0eded1631a8b605a43ff5bed8086072ba1e7cc2358baeca134c825a7 := by decide +kernel
theorem test_firmware_signed : State.reset.flash.verifies State.reset.flash.primary = true := by decide +kernel
/-- SSEL 10 seeds each lane of the kernel from a word of its own (05 R117). -/
theorem test_setmode_entropy : runs (.setmode Grd.always (.v 4)) (small [(4, 0x202)]) (fun t => decide (t.freeCount = 2)) = true := by decide +kernel

/-! ### The first 1 GiB of the mapped context -/

/-- What the walk of the placed tables needs: their three entries, clean, and a leaf that allows the access. -/
def flat (s : State) (n : Need) : Bool :=
  s.frames.isEmpty && decide (fld ((s.ctxD 0).reg 0x130).toNat 51 12 * 4096 = 0x4000000000) &&
    decide (s.mem64 0x4000000000 = 0x4000001001) && decide (s.mem64 0x4000001000 = 0x4000002001) && decide (s.mem64 0x4000002000 = 0x404000000F) &&
    !s.memPois 0x4000000000 8 && !s.memPois 0x4000001000 8 && !s.memPois 0x4000002000 8 && (s.leafBad 0 (s.ctxD 0) n 2 0x404000000F 0x4040000000).isEmpty

theorem xlate_flat (s : State) (n : Need) (va : Nat) (h : flat s n = true) (hv : va < 2 ^ 30) : s.xlate 0 n va = .hit (0x4040000000 + va) 0 0 30 := by
  simp only [flat, Bool.and_eq_true, List.isEmpty_iff, decide_eq_true_eq, Bool.not_eq_true'] at h
  obtain ⟨⟨⟨⟨⟨⟨⟨⟨hf, hr⟩, h0⟩, h1⟩, h2⟩, p0⟩, p1⟩, p2⟩, hb⟩ := h
  have e57 : va % 2 ^ 57 = va := by omega
  have l48 : va / 281474976710656 % 512 = 0 := by omega
  have l39 : va / 549755813888 % 512 = 0 := by omega
  have l30 : va / 1073741824 % 512 = 0 := by omega
  have m30 : va % 1073741824 = va := by omega
  have g1 : fld 0x4000001001 51 8 * 256 = 0x4000001000 := by decide
  have g2 : fld 0x4000002001 51 8 * 256 = 0x4000002000 := by decide
  have hb2 : s.leafBad 0 (s.ctxD 0) n 2 0x404000000F (0x4040000000 + va) = [] := by
    simpa [State.leafBad, State.frame, hf, kGet, kFind] using hb
  have b0 : bitN 0x4000001001 0 = true ∧ bitN 0x4000001001 1 = false := by decide
  have b1 : bitN 0x4000002001 0 = true ∧ bitN 0x4000002001 1 = false := by decide
  have b2 : bitN 0x404000000F 0 = true ∧ bitN 0x404000000F 1 = true ∧ fld 0x404000000F 51 16 * 65536 = 0x4040000000 ∧
      fld 0x404000000F 6 5 = 0 ∧ fld 0x404000000F 8 7 = 0 := by decide
  unfold State.xlate
  simp only [walkBits, e57]
  simp [State.walk, State.entry, State.leafGo, entryAt, State.rootOf, hr, l48, l39, l30, m30, h0, h1, h2, p0, p1, p2, g1, g2, b0, b1, b2, hb2]

theorem devAt_flat (s : State) (va n : Nat) (h : (s.offChans.isEmpty && !s.memPois (0x4040000000 + va) n && !s.runBars (0x4040000000 + va) n true && decide (va % 65536 + n ≤ 65536 ∧ va + n ≤ 2 ^ 30) &&
    flat s (devNeed false) && flat s (devNeed true)) = true) : s.devAt 0 va n (0x4040000000 + va) := by
  simp only [Bool.and_eq_true, List.isEmpty_iff, decide_eq_true_eq, Bool.not_eq_true'] at h
  obtain ⟨⟨⟨⟨⟨h1, h2⟩, h7⟩, h3, h4⟩, h5⟩, h6⟩ := h
  refine ⟨h1, h2, h7, h3, fun j hj => ?_⟩
  have hv : va + j < 2 ^ 30 := by omega
  exact ⟨⟨_, _, _, (Nat.add_assoc _ _ _ ▸ xlate_flat s _ _ h5 hv)⟩, _, _, _, (Nat.add_assoc _ _ _ ▸ xlate_flat s _ _ h6 hv)⟩
/-! ## States that meet the hypotheses of the statements

wit_<name> is for the obligation of that name, or for that part of one that several instructions share. -/


theorem wit_WordInstructionsComplete : (wordFun (.sel Grd.always (.v 5) (.v 4) (.imm 1) (.p 0))).isSome = true ∧
    (small vals).clearAt Grd.always (namesOf 1 (.v 5) [(1, .v 4), (1, .imm 1), (1, .p 0)]) (windowsOf 1 (.v 5) [(1, .v 4), (1, .imm 1), (1, .p 0)]) = true := by decide +kernel
theorem wit_ElementInstructionsComplete : (elemFun (.imad Grd.always { size := .w8, sgn := true } true (.v 5) (.v 4) (.imm 1) (.v 6))).isSome = true ∧
    (small vals).clearAt Grd.always (namesOf 1 (.v 5) [(1, .v 4), (1, .imm 1), (1, .v 6)]) (windowsOf 1 (.v 5) [(1, .v 4), (1, .imm 1), (1, .v 6)]) = true := by decide +kernel
theorem wit_ShiftInstructionsComplete : (shiftFun (.shlExt Grd.always .w8 (.v 5) (.v 4) (.imm 32))).isSome = true ∧ 3 < 32 / isizeBits .w8 ∧
    (small vals).clearAt Grd.always (namesOf 1 (.v 5) [(1, .v 4), (1, .imm 32)]) (windowsOf 1 (.v 5) [(1, .v 4), (1, .imm 32)]) = true := by decide +kernel
theorem wit_FieldInstructionsComplete : (small vals).clearAt Grd.always (namesOf 1 (.v 79) [(1, .v 4), (1, .v 6), (1, .v 8)]) (windowsOf 1 (.v 79) [(1, .v 4), (1, .v 6), (1, .v 8)]) = true := by decide +kernel
theorem wit_WideInstructionsComplete : (small vals).clearAt Grd.always (namesOf 2 (.v 78) [(2, .v 4), (2, .v 6)]) (windowsOf 2 (.v 78) [(2, .v 4), (2, .v 6)]) = true := by decide +kernel
theorem wit_PredicateInstructionsComplete : (true = true → ({ size := .w32, sgn := true } : ITy).size = .w32) ∧
    (small vals).clearAt Grd.always (namesOf 1 .none [(1, .v 4), (1, .v 6)]) (windowsOf 1 .none [(1, .v 4), (1, .v 6)]) = true := by decide +kernel

theorem unleased (s : State) (l : Nat) (a : Src) (b : Nat) (h : ((s.issuing Grd.always).lane l).leases = []) : ¬(s.issuing Grd.always).idxLeased l a b := by
  rintro ⟨op, hm⟩
  rw [h] at hm
  simp at hm

/-- Index 8 in a window of 9 from v71 ends at the last register of the seat. -/
theorem wit_IndexedMovesComplete : (small vals).clearAt Grd.always (namesOf 1 (.v 0) [(1, .v 8)]) (windowsOf 1 (.v 0) [(1, .v 8)]) = true ∧
    ∀ l ∈ ((small vals).issuing Grd.always).ex, ((small vals).issuing Grd.always).idxOk l (.v 8) 71 9 = true ∧ ¬((small vals).issuing Grd.always).idxLeased l (.v 8) 71 := by
  refine ⟨by decide +kernel, fun l hl => ?_⟩
  have h : ∀ l ∈ ((small vals).issuing Grd.always).ex, ((small vals).issuing Grd.always).idxOk l (.v 8) 71 9 = true ∧ (((small vals).issuing Grd.always).lane l).leases = [] := by decide +kernel
  exact ⟨(h l hl).1, unleased _ _ _ _ (h l hl).2⟩
theorem wit_BadIndexTraps : (small vals).clearAt Grd.always (namesOf 1 (.v 0) [(1, .v 8)]) (windowsOf 1 (.v 0) [(1, .v 8)]) = true ∧
    (∀ j ∈ ((small vals).issuing Grd.always).ex, ((small vals).issuing Grd.always).idxOk j (.v 8) 71 8 = true → ¬((small vals).issuing Grd.always).idxLeased j (.v 8) 71) ∧
    ((small vals).issuing Grd.always).ex.filter (fun j => !((small vals).issuing Grd.always).idxOk j (.v 8) 71 8) = 0 :: [1] := by
  refine ⟨by decide +kernel, fun j hj hok => ?_, by decide +kernel⟩
  have h : ∀ l ∈ ((small vals).issuing Grd.always).ex, ((small vals).issuing Grd.always).idxOk l (.v 8) 71 8 = false := by decide +kernel
  rw [h j hj] at hok
  cases hok

theorem wit_FloatArithmeticComplete : (fp32Fun (.fmac Grd.always .rs true false (.v 5) (.v 4) (.v 6) (.v 8))).isSome = true ∧
    (small vals).clearAt Grd.always (namesOf 1 (.v 5) [(1, .v 4), (1, .v 6), (1, .v 8)]) (windowsOf 1 (.v 5) [(1, .v 4), (1, .v 6), (1, .v 8)]) = true := by decide +kernel
theorem wit_PackedArithmeticComplete : (pairFun (.hadd2Ext Grd.always true .rs true false (.v 5) (.v 4) (.v 6))).isSome = true ∧
    (small vals).clearAt Grd.always (namesOf 1 (.v 5) [(1, .v 4), (1, .v 6), (1, .zero)]) (windowsOf 1 (.v 5) [(1, .v 4), (1, .v 6), (1, .zero)]) = true := by decide +kernel
theorem wit_FloatPickComplete : (pickFun (.fmin (.v 5) (.v 4) (.v 6))).isSome = true ∧ (pick2Fun (.hmax2Ext Grd.always true (.v 5) (.v 4) (.v 6))).isSome = true ∧
    (small vals).clearAt Grd.always (namesOf 1 (.v 5) [(1, .v 4), (1, .v 6)]) (windowsOf 1 (.v 5) [(1, .v 4), (1, .v 6)]) = true := by decide +kernel
theorem wit_FloatTestsComplete : (small vals).clearAt Grd.always (namesOf 1 (.v 5) [(1, .v 4), (1, .v 6)]) (windowsOf 1 (.v 5) [(1, .v 4), (1, .v 6)]) = true := by decide +kernel
theorem wit_ApproximateFunctionsComplete : (approxFun (.ftanh (.v 5) (.v 4))).isSome = true ∧
    (small vals).clearAt Grd.always (namesOf 1 (.v 5) [(1, .v 4)]) (windowsOf 1 (.v 5) [(1, .v 4)]) = true := by decide +kernel
theorem wit_ConversionsComplete : (small vals).clearAt Grd.always (namesOf 2 (.v 78) [(1, .v 4)]) (windowsOf 2 (.v 78) [(1, .v 4)]) = true ∧
    (small vals).clearAt Grd.always (namesOf 1 (.v 5) [(2, .v 4)]) (windowsOf 1 (.v 5) [(2, .v 4)]) = true ∧
    (small vals).clearAt Grd.always (namesOf 1 (.v 5) [(1, .v 4), (1, .v 6)]) (windowsOf 1 (.v 5) [(1, .v 4), (1, .v 6)]) = true := by decide +kernel
/-- PSPLIT of a 1-plane reads eight registers up to the last of the seat. -/
theorem wit_NarrowFormatsComplete : 7 < 8 / planeWidth .p1 ∧
    block.clearAt Grd.always (dstKeys 1 (.v 5) ++ rngKeys 0 (qscaleLen (block.fmtF 2))) (dstWin 1 (.v 5) ++ rngWin 0 (qscaleLen (block.fmtF 2))) = true ∧
    block.clearAt Grd.always (dstKeys 1 (.v 5) ++ rngKeys 76 4 ++ (if nScale (block.fmtF 2) = 0 then [] else srcKeys 1 (.v 6))) (dstWin 1 (.v 5) ++ rngWin 76 4 ++ srcWin 1 (.v 6)) = true ∧
    block.clearAt Grd.always (rngKeys 76 4 ++ srcKeys 1 (.v 5) ++ (if nScale (block.fmtF 2) = 0 then [] else srcKeys 1 (.v 6))) (rngWin 76 4 ++ srcWin 1 (.v 5) ++ srcWin 1 (.v 6)) = true ∧
    block.clearAt Grd.always (dstKeys 1 (.v 5) ++ rngKeys 72 (8 / planeWidth .p1)) (dstWin 1 (.v 5) ++ rngWin 72 (8 / planeWidth .p1)) = true ∧
    block.clearAt Grd.always (namesOf 1 (.v 5) [(1, .v 4), (1, .v 6)]) (windowsOf 1 (.v 5) [(1, .v 4), (1, .v 6)]) = true := by decide +kernel

theorem wit_FormatWriteComplete : (small [(4, 0x00040194)]).clearAt Grd.always (srcKeys 1 (.v 4)) (srcWin 1 (.v 4)) = true ∧
    ((small [(4, 0x00040194)]).issuing Grd.always).ex = 0 :: [1] ∧ ((small [(4, 0x00040194)]).issuing { p := 0, neg := false }).ex = [] ∧
    (small [(4, 0x00040194)]).clearAt { p := 0, neg := false } (srcKeys 1 (.v 4)) (srcWin 1 (.v 4)) = true ∧
    ((small [(4, 0x00040194)]).issuing Grd.always).pois .w32 0 (.v 4) = false ∧ nLegal (((small [(4, 0x00040194)]).issuing Grd.always).w32 0 (.v 4)).toNat = true := by decide +kernel
theorem wit_ModeWriteComplete : (small [(4, 2)]).clearAt Grd.always (srcKeys 1 (.v 4)) (srcWin 1 (.v 4)) = true ∧
    ((small [(4, 2)]).issuing Grd.always).ex = 0 :: [1] ∧ ((small [(4, 2)]).issuing Grd.always).pois .w32 0 (.v 4) = false ∧
    modeLegal (((small [(4, 2)]).issuing Grd.always).w32 0 (.v 4)).toNat = true ∧
    modeSsel (((small [(4, 0x202)]).issuing Grd.always).w32 0 (.v 4)).toNat = 2 ∧ modeLegal (((small [(4, 0x202)]).issuing Grd.always).w32 0 (.v 4)).toNat = true := by decide +kernel
theorem wit_SegmentWriteComplete : (small [(6, 0x80000)]).clearAt Grd.always (rngKeys 4 4) (rngWin 4 4) = true ∧ (small [(6, 0x80000)]).mayAt 1 = true ∧
    ((small [(6, 0x80000)]).issuing Grd.always).ex = 0 :: [1] ∧ ((small [(6, 0x80000)]).issuing Grd.always).vpois 0 4 4 = false ∧
    (Seg.tl = .tl → (((small [(6, 0x80000)]).issuing Grd.always).desc 0 4).base + (((small [(6, 0x80000)]).issuing Grd.always).desc 0 4).limit ≤ 2 ^ 19) := by decide +kernel
theorem wit_SystemOperandTraps : ((small [(4, 0xFFFFFFFF), (6, 0x80001)]).issuing Grd.always).ex = 0 :: [1] ∧
    (small [(4, 0xFFFFFFFF), (6, 0x80001)]).clearAt Grd.always (srcKeys 1 (.v 4)) (srcWin 1 (.v 4)) = true ∧
    ((small [(4, 0xFFFFFFFF), (6, 0x80001)]).issuing Grd.always).pois .w32 0 (.v 4) = false ∧
    nLegal (((small [(4, 0xFFFFFFFF), (6, 0x80001)]).issuing Grd.always).w32 0 (.v 4)).toNat = false ∧
    modeLegal (((small [(4, 0xFFFFFFFF), (6, 0x80001)]).issuing Grd.always).w32 0 (.v 4)).toNat = false ∧
    (small [(6, 0x80001)]).clearAt Grd.always (rngKeys 4 4) (rngWin 4 4) = true ∧ (small [(6, 0x80001)]).mayAt 1 = true ∧
    ((small [(6, 0x80001)]).issuing Grd.always).vpois 0 4 4 = false ∧
    2 ^ 19 < (((small [(6, 0x80001)]).issuing Grd.always).desc 0 4).base + (((small [(6, 0x80001)]).issuing Grd.always).desc 0 4).limit := by decide +kernel

theorem wit_LaneInstructionsComplete : (small vals).clearAt Grd.always [] (windowsOf 2 (.v 78) [(2, .v 4), (1, .v 6)] ++ srcWin 1 (.imm 3)) = true ∧
    ((small vals).issuing Grd.always).maskClear { pen := true, pd := 0, msk := true, scope := .tbl } (.imm 3) = true ∧
    (∀ l ∈ ((small vals).issuing Grd.always).party { pen := true, pd := 0, msk := true, scope := .tbl } (.imm 3),
      (((small vals).issuing Grd.always).lane l).leases? (namesOf 2 (.v 78) [(2, .v 4), (1, .v 6)]) = false) ∧
    ((small vals).issuing Grd.always).party { pen := true, pd := 0, msk := true, scope := .tbl } (.imm 3) = [0, 1] := by decide +kernel

def gl0 : MemOp := { seg := .gl, pol := .shared, disp := 0 }

theorem wit_AccessesIssueComplete : ((accForm (.cas Grd.always false gl0 .b64 (.v 78) (.v 2) (.v 6) (.v 8))).map (fun f =>
    (mapped vals).clearAt f.g f.keys f.wins && ((mapped vals).issuing f.g).aligned f)) = some true ∧
    (mapped vals).noneParked = true ∧ (mapped vals).pointsPassed = true ∧ (mapped vals).pegRoom false = true ∧
    ((mapped vals).issuing Grd.always).u.stall = .ready ∧ ((mapped vals).issuing Grd.always).ex ≠ [] := by decide +kernel
/-- The same, and v10 is 1. -/
def vals1 : KMap W32 := vals ++ [(10, 1)]

theorem wit_MisalignedAccessTraps : ((accForm (.ld Grd.always false gl0 .b32 false (.v 78) (.v 10))).map (fun f =>
    (mapped vals1).clearAt f.g f.keys f.wins && !((mapped vals1).issuing f.g).pois .w64 0 f.a && !((mapped vals1).issuing f.g).pois .w64 1 f.a && f.sc.isNone &&
    decide (((mapped vals1).issuing f.g).ex.filter (fun j => (((mapped vals1).issuing f.g).offAddr f j).isSome) = 0 :: [1]) &&
    decide (((mapped vals1).issuing f.g).offAddr f 0 = some (1, 0)))) = some true ∧
    ((accForm (.movs Grd.always false gl0 false .b32 (.v 2) (.v 10))).map (fun f =>
      (mapped vals1).clearAt f.g f.keys f.wins && decide (((mapped vals1).issuing f.g).offAddr f 0 = some (1, 1)))) = some true ∧
    (mapped vals1).noneParked = true ∧ (mapped vals1).pointsPassed = true ∧ (mapped vals1).pegRoom false = true := by decide +kernel

/-- A request on its way for lane 0, with its operation. -/
def reqOf (k : AccKind) (sc : Bool) (len : Nat) (dst : List Nat) (data : List Byte) : Req :=
  { op := 0, lane := 0, h := h0, gen := 0, ctx := 0, kern := 0, item := 0, pa := if sc then 0 else 0x4040000040, pol := .shared, repl := 0
    acc := { kind := k, sc := sc, addr := 0x40, len := len, pol := .shared, dst := dst, data := data } }
def withReq (r : Req) : State :=
  { mapped vals with
    reqs := [(0, r)], nextReq := 1, nextOp := 1
    ops := [(0, { h := h0, gen := 0, ctx := 0, kern := 0, major := 0x58, peg := none, kind := .access
                  lanes := [{ lane := 0, kern := 0, item := 0, age := 1, due := 1, st := .pending }] })] }
def loadReq : Req := reqOf (.load true) false 2 [5] []
def storeReq : Req := reqOf .store false 4 [] [1, 2, 3, 4]
def addReq : Req := reqOf (.atomic .add 5 {}) false 4 [5] []

theorem wit_HomeLoadComplete : kFind 0 (withReq loadReq).reqs = some loadReq ∧ loadReq.acc.kind = .load true ∧ (withReq loadReq).atHome 0 loadReq = true ∧
    (∃ o, kFind loadReq.op (withReq loadReq).ops = some o ∧ ∀ x ∈ o.lanes, x.lane = loadReq.lane → x.due ≤ 1) ∧ loadReq.acc.len ≤ 16 ∧
    (withReq loadReq).memPois loadReq.pa loadReq.acc.len = false ∧
    (withReq loadReq).copyFor h0.cr (lineOf loadReq.pa) loadReq.pol loadReq.repl ((withReq loadReq).ptsOf h0 0 loadReq.pts) = none ∧ ((withReq loadReq).core h0.cr).cbuf = [] :=
  ⟨by decide +kernel, by decide +kernel, by decide +kernel, ⟨_, rfl, by decide +kernel⟩, by decide +kernel, by decide +kernel, by decide +kernel, by decide +kernel⟩
theorem wit_HomeWriteComplete : kFind 0 (withReq storeReq).reqs = some storeReq ∧ storeReq.acc.kind = .store ∧ storeReq.pol ≠ .core ∧
    (withReq storeReq).atHome 0 storeReq = true ∧ (∃ o, kFind storeReq.op (withReq storeReq).ops = some o ∧ ∀ x ∈ o.lanes, x.lane = storeReq.lane → x.due ≤ 1) ∧
    storeReq.acc.data ≠ [] ∧ (withReq storeReq).plainBytes storeReq storeReq.acc.data.length = true ∧ storeReq.acc.len = storeReq.acc.data.length :=
  ⟨by decide +kernel, by decide +kernel, by decide +kernel, by decide +kernel, ⟨_, rfl, by decide +kernel⟩, by decide +kernel, by decide +kernel, by decide +kernel⟩
theorem wit_HomeAtomicComplete : kFind 0 (withReq addReq).reqs = some addReq ∧ addReq.acc.kind.isAtomic = true ∧ addReq.gen ≠ swappedGen ∧
    (∃ o, kFind addReq.op (withReq addReq).ops = some o ∧ ∀ x ∈ o.lanes, x.lane = addReq.lane → x.due ≤ 1) ∧ (withReq addReq).groupReady addReq = true ∧ (withReq addReq).covered addReq = true ∧
    (withReq addReq).atomGroup addReq = [(0, addReq)] ∧ 0 < addReq.acc.len ∧ (withReq addReq).plainBytes addReq addReq.acc.len = true ∧
    (withReq addReq).memPois addReq.pa addReq.acc.len = false :=
  ⟨by decide +kernel, by decide +kernel, by decide +kernel, ⟨_, rfl, by decide +kernel⟩, by decide +kernel, by decide +kernel, by decide +kernel, by decide +kernel, by decide +kernel,
   by decide +kernel⟩

/-- An operation that has arrived in lane 0, which leases v5 for it, counted on peg 3. -/
def arrived : State :=
  ({ mapped vals with
     nextOp := 1
     ops := [(0, { h := h0, gen := 0, ctx := 0, kern := 0, major := 0x58, peg := some 3, kind := .access
                   lanes := [{ lane := 0, kern := 0, item := 0, age := 1, st := .arrived [(5, 0x77, false)] }] })] }).modHand h0 (fun d =>
    { d.modLane 0 (fun l => { l with leases := [(5, 0)] }) with pegs := [(3, [{ op := 0, done := false }])] })
theorem wit_OpCompletionComplete : (kFind 0 arrived.ops).map (fun o => decide (o.gen ≠ swappedGen) && arrived.sameGen o.h o.gen &&
      decide (o.lanes ≠ []) && decide ((o.lanes.map LaneOp.lane).Nodup) &&
      o.lanes.all (fun x => arrived.holds o x && !x.void && decide (x.st = .arrived [(5, 0x77, false)]))) = some true ∧ ((arrived.lane h0 0).leases.contains (5, 0)) = true := by decide +kernel
theorem wit_CacheAndTimeComplete : (mapped vals).clearAt Grd.always (srcKeys 2 (.v 2)) (srcWin 2 (.v 2)) = true ∧
    (∀ l ∈ ((mapped vals).issuing Grd.always).ex, ((mapped vals).issuing Grd.always).pois .w64 l (.v 2) = false) ∧
    (mapped vals).clearAt Grd.always [] [] = true ∧ (mapped vals).eventClear Grd.always = true ∧ (mapped vals).pegRoom true = true ∧ (mapped vals).pubBars h0.cr = false ∧
    (({ mapped vals with clk := 64 }.hand h0).st = .dealt ∧ ({ mapped vals with clk := 64 }.hand h0).ptsClk + 64 ≤ { mapped vals with clk := 64 }.clk) := by decide +kernel


/-! ### The machine as a whole -/

/-- State.reset with a clause header, and with an IADD, placed where the next step fetches. -/
def atHeader : State := State.reset.withFetchWord 32 (headerWord 15 15 0 0)
def atIadd : State := State.reset.withFetchWord 32 0xE8102840
/-- A suit within its clause that has decoded it. -/
def decoded : State := { small vals with agenda := [.issue placedSuit] }.modSuit placedSuit (fun u => { u with clause := some (0x1000, [0xE8102840, 0, 0]) })
def u0 : Suit := { kern := 0, pos := inClause }
def u1 : Suit := { kern := 0, pos := { pc := 0x1000, hdr := 0x1000 } }

theorem wit_StepKeepsMemoryCanonical : atIadd.memWf = true ∧ (match step atIadd with | .next _ => true | _ => false) = true := by decide +kernel
theorem wit_StepRuns_header : atHeader.agenda = [.issue placedSuit] ∧ atHeader.up = true ∧ { atHeader with agenda := [] }.chosen placedSuit = true ∧
    (atHeader.hand h0).suit 0 = some u1 ∧ (atHeader.translate h0 0 0 { rd := true, wr := false, pl := 2 } 0x1000).1 = .hit 0x4040001000 0 0 30 ∧
    atHeader.claimBars .mem h0.cr (lineOf 0x4040001000) false = false ∧
    (match { atHeader with agenda := [] }.fetchWords h0 0 0 2 0x1000 1 with | .words ws _ => decide (ws = [atHeader.wordAt 0x4040001000]) | _ => false) = true ∧
    (match decodeHeader (atHeader.wordAt 0x4040001000) with | .ok i => decide (i = .clauseHeader 15 15 0 0) | .error _ => false) = true := by decide +kernel
theorem wit_StepRuns_clause : decoded.agenda = [.issue placedSuit] ∧ decoded.up = true ∧ { decoded with agenda := [] }.chosen placedSuit = true ∧
    (decoded.hand h0).suit 0 = some { u0 with clause := some (0x1000, [0xE8102840, 0, 0]) } ∧ u0.pos.pc ≠ u0.pos.hdr ∧
    (match decodeWords [0xE8102840, 0, 0] with | .ok i => decide (i = .iadd (.v 5) (.v 4) (.imm 1)) | .error _ => false) = true := by decide +kernel
theorem wit_StepRuns_refetch : atIadd.agenda = [.issue placedSuit] ∧ { atIadd with agenda := [] }.chosen placedSuit = true ∧
    (atIadd.hand h0).suit 0 = some u0 ∧ u0.clause.map Prod.fst ≠ some u0.pos.hdr ∧
    (match { atIadd with agenda := [] }.fetchWords h0 0 0 2 0x1004 u0.pos.body with
     | .words ws _ => (match decodeWords (u0.pos.rest ws) with | .ok i => decide (i = .iadd (.v 5) (.v 4) (.imm 1)) | .error _ => false)
     | _ => false) = true := by decide +kernel
theorem wit_StepRuns_event : { State.reset with agenda := [.event .powerLoss] }.up = true ∧ Instr.powerLoss.isEvent = true ∧
    State.reset.agenda = [] ∧ State.reset.up = true := by decide +kernel
theorem wit_DecodingEncodedGivesTheInstruction : (Instr.iadd (.v 5) (.v 4) (.imm 1)).isEvent = false ∧ (Instr.iadd (.v 5) (.v 4) (.imm 1)).wf = true := by
  decide +kernel
theorem wit_DecodedWordsAreTheEncoding : (match decodeAny [0xE8102840, 7] with | .ok i => decide (i = .iadd (.v 5) (.v 4) (.imm 1)) | .error _ => false) = true := by
  decide +kernel

/-! ### Control -/

/-- v10 and v11 give a clause address. -/
def valsB : KMap W32 := [(1, 1), (10, 0x2000)]

theorem wit_BranchesComplete : ((branchForm (.callx Grd.always (.v 78) (.v 10))).map (fun f =>
      (small valsB).clearAt f.1 (namesOf 2 f.2.1 f.2.2.1) (windowsOf 2 f.2.1 f.2.2.1) && ((small valsB).issuing f.1).targetsOk f.2.2.1)) = some true ∧
    ((branchForm (.br Grd.always (.v 1) 4)).map (fun f =>
      (small valsB).clearAt f.1 (namesOf 2 f.2.1 f.2.2.1) (windowsOf 2 f.2.1 f.2.2.1) && ((small valsB).issuing f.1).targetsOk f.2.2.1)) = some true ∧
    (small valsB).noneParked = true ∧ ((small valsB).issuing Grd.always).u.trap = none := by decide +kernel
theorem wit_HeaderAndNopComplete : atHeader.clearAt Grd.always [] [] = true ∧
    (match atHeader.fetchWords h0 0 (atHeader.issuing Grd.always).ctx (atHeader.issuing Grd.always).pl ((atHeader.issuing Grd.always).u.pos.pc + 4) 3 with
     | .words ws _ => (match decodeBody (barLegal (atHeader.issuing Grd.always).kern.lrec) 16 1 false ws with | .ok _ => true | .error _ => false)
     | _ => false) = true ∧
    (∀ p, p < 12 → (0 : Nat).testBit p = true → (atHeader.hand h0).peg p = 0) ∧ atHeader.noneParked = true ∧
    (atHeader.modHand h0 (fun d => { d with pegs := [(3, [{ op := 0, done := false }])] })).noneParked = true ∧
    (8 : Nat).testBit 3 = true ∧ ((atHeader.modHand h0 (fun d => { d with pegs := [(3, [{ op := 0, done := false }])] })).hand h0).peg 3 ≠ 0 ∧
    (((small vals).hand h0).suit 0).isSome = true := by decide +kernel
/-- Lane 1 has waited at the MELD until clock 5; both lanes stand there. -/
def melding : State := { (small vals).modSuit placedSuit (fun u => { u with stall := .meld 5 }) with clk := 5 }
theorem wit_MeldsComplete : (small vals).clearAt Grd.always [] [] = true ∧ ((small vals).issuing Grd.always).u.trap = none ∧
    (melding.hand h0).suit 0 = some { u0 with stall := .meld 5 } ∧
    (melding.hand h0).suits.all (fun e => match e.2.stall with | .meld v => decide (v ≤ melding.clk) | _ => true) = true := by decide +kernel
theorem wit_ExitComplete : (small vals).clearAt Grd.always [] [] = true ∧ (small vals).noneParked = true ∧ (small vals).pointsPassed = true ∧
    ((small vals).issuing Grd.always).u.trap = none ∧ ((small vals).issuing Grd.always).unleased = true ∧ (small vals).pubBars h0.cr = false ∧
    ((small vals).issuing Grd.always).exitDue = false ∧
    ∀ l ∈ ((small vals).issuing Grd.always).ex, (((small vals).issuing Grd.always).lane l).will.isSome = true →
      (small vals).itemWaits ((small vals).issuing Grd.always).ctx (((small vals).issuing Grd.always).item l).kern (((small vals).issuing Grd.always).item l).item = false := by
  decide +kernel
theorem wit_CutAndYieldComplete : (small vals).clearAt Grd.always (rngKeys 78 2 ++ rngKeys 4 2) (rngWin 78 2 ++ rngWin 4 2) = true ∧
    [({ start := 78, len := 2 } : Rng), { start := 4, len := 2 }, { start := 0, len := 0 }].filter (fun r => r.len ≠ 0) = [{ start := 78, len := 2 }, { start := 4, len := 2 }] ∧
    (small vals).clearAt Grd.always [] [] = true ∧ ((small vals).issuing Grd.always).u.trap = none := by decide +kernel
/-- A hand that has made its fill action on this clock. -/
def filledHand : State := (small vals).modHand h0 (fun d => { d with filled := true })
theorem wit_DrawComplete : (small vals).clearAt Grd.always (dstKeys 1 (.v 79)) (dstWin 1 (.v 79)) = true ∧ ((small vals).issuing Grd.always).u.trap = none ∧
    ((small vals).hand h0).filled = false ∧ ((small vals).issuing Grd.always).u.stall = .ready ∧
    filledHand.clearAt Grd.always (dstKeys 1 (.v 79)) (dstWin 1 (.v 79)) = true ∧ (filledHand.issuing Grd.always).u.trap = none ∧
    (filledHand.hand h0).filled = true := by decide +kernel

/-- The mapped context with a continuation area and one executing lane, for SUSPEND until the word at 0x40 reaches 6. -/
def suspending : State := (mapped [(2, 0x40), (4, 0), (6, 6)]).modHand h0 (fun d => { d with lanes := [(0, laneAt [(2, 0x40), (6, 6)] 0)] })
    |> (onRec · [(12, 32)])
theorem wit_SuspendComplete : suspending.clearAt Grd.always (namesOf 0 .none [(2, .v 2), (2, .v 6)] ++ rngKeys 72 8) (windowsOf 0 .none [(2, .v 2), (2, .v 6)] ++ rngWin 72 8) = true ∧
    suspending.eventClear Grd.always = true ∧ (suspending.issuing Grd.always).u.trap = none ∧ (suspending.issuing Grd.always).ex = [0] ∧
    (suspending.lane h0 0).item = some { kern := 0, item := 0, table := 0, tix := 0, age := 1 } ∧ (suspending.issuing Grd.always).kern.lrec.pcap ≠ 0 ∧
    (suspending.issuing Grd.always).unleased = true ∧ (suspending.issuing Grd.always).pois .w64 0 (.v 2) = false ∧ (suspending.issuing Grd.always).pois .w64 0 (.v 6) = false ∧
    ((suspending.issuing Grd.always).w64 0 (.v 2)).toNat % 8 = 0 ∧
    (match segCheck .gl (suspending.laneDesc h0 0 0 .gl) { rd := true, wr := true, pl := 2 } 0x40 8 with | .ok va => decide (va = 0x40) | _ => false) = true ∧
    (suspending.translate h0 0 0 { rd := true, wr := true, pl := 2 } 0x40).1 = .hit 0x4040000040 0 0 30 ∧
    suspending.claimBars .mem h0.cr (lineOf 0x4040000040) true = false ∧ (suspending.core h0.cr).cbuf = [] ∧
    suspending.waitCount (suspending.home 0x4040000040).die (suspending.home 0x4040000040).slice < 2048 ∧
    ¬((suspending.issuing Grd.always).w64 0 (.v 6)).toNat ≤ suspending.mem64 0x4040000040 ∧
    suspending.clearAt { p := 0, neg := false } [] [] = true ∧ suspending.noneParked = true ∧ suspending.pointsPassed = true ∧
    (suspending.issuing { p := 0, neg := false }).ex = [] ∧ (suspending.issuing { p := 0, neg := false }).u.trap = none := by decide +kernel
theorem wit_PegWaitsComplete : (small vals).clearAt Grd.always (srcKeys 1 (.v 1)) (srcWin 1 (.v 1)) = true ∧
    (∀ l ∈ ((small vals).issuing Grd.always).ex, ((small vals).hand h0).peg 3 ≤ (((small vals).issuing Grd.always).w32 l (.v 1)).toNat) ∧
    (∃ l ∈ (((small vals).modHand h0 (fun d => { d with pegs := [(3, [{ op := 0, done := false }])] })).issuing Grd.always).ex,
      ((((small vals).modHand h0 (fun d => { d with pegs := [(3, [{ op := 0, done := false }])] })).issuing Grd.always).w32 l (.v 3)).toNat <
      (((small vals).modHand h0 (fun d => { d with pegs := [(3, [{ op := 0, done := false }])] })).hand h0).peg 3) ∧
    ((({ small vals with clk := 257 }.modSuit placedSuit (fun u => { u with stall := .waitp 256 3 [(0, 0)] })).hand h0).suit 0) = some { u0 with stall := .waitp 256 3 [(0, 0)] } ∧
    (((small vals).modHand h0 (fun d => d.modLane 0 (fun l => { l with st := .heldWait 3 1 }))).lane h0 0).st = .heldWait 3 1 ∧ ((small vals).hand h0).peg 3 ≤ 1 := by
  decide +kernel
/-- All 32 items of the block have arrived at a barrier. -/
def atBarrier : State := (onKern (small vals) (fun k => { k with arrivals := [(barKey 1 0, List.range 32)] })).modHand h0 (fun d =>
  d.modLane 0 (fun l => { l with st := .heldBarrier 1 }))
theorem wit_BarriersComplete : (small vals).clearAt Grd.always [] [] = true ∧ (small vals).eventClear Grd.always = true ∧
    (small vals).kern 0 0 = some ((small vals).issuing Grd.always).kern ∧ ((small vals).issuing Grd.always).act = [0, 1] ∧
    ((small vals).issuing Grd.always).u.trap = none ∧ ((small vals).issuing Grd.always).u.stall = .ready ∧ (small vals).pubBars h0.cr = false ∧
    (atBarrier.kern 0 0).map (fun k => decide ((kFind (barKey 1 0) k.arrivals).isSome = true ∧
      k.lrec.unitItems 1 ≤ (kGet [] (barKey 1 0) k.arrivals).length + k.unitOut 1 0)) = some true := by decide +kernel

/-- The mapped context with a trap queue of eight entries at 0x2000 and a handler at 0x8000. -/
def handled : State := (mapped vals).modCtx 0 (fun x => { x with tq := 0x2000, regs := kSet 0x11 0x8000 x.regs })
theorem wit_TrapEntrySavesAndJumps : [0, 1].Nodup ∧ (handled.hand h0).suit 0 = some u0 ∧ handled.trapReady placedSuit = true ∧
    handled.trapPlace 0 = some 0x4040002000 := by decide +kernel
theorem wit_TrapAndReturnComplete : handled.clearAt Grd.always [] [] = true ∧ handled.noneParked = true ∧ (handled.issuing Grd.always).u.trap = none ∧
    (handled.issuing Grd.always).ex ≠ [] ∧ handled.trapReady handled.cur = true ∧ (handled.issuing { p := 0, neg := false }).ex = [] ∧
    ((handled.modSuit placedSuit (fun u => { u with trap := some { tpc := Pos.at_ 0x1020, amask := [0, 1] } })).issuing Grd.always).u.trap =
      some { tpc := Pos.at_ 0x1020, amask := [0, 1] } ∧
    (handled.modSuit placedSuit (fun u => { u with trap := some { tpc := Pos.at_ 0x1020, amask := [0, 1] } })).clearAt Grd.always [] [] = true ∧
    (handled.modSuit placedSuit (fun u => { u with trap := some { tpc := Pos.at_ 0x1020, amask := [0, 1] } })).noneParked = true := by decide +kernel

/-! ### Engines -/

/-- Registers of a copy of 16 bytes from 0x100 to 0x40. -/
def valsE : KMap W32 := [(2, 0x40), (4, 0x100), (6, 16)]
/-- The mapped context with one peer entry and one inbound window, at 0x3000 and 0x3010: every right, 4 KiB. -/
def peered : State := { mapped valsE with mem := cellsWrite (cellsWrite (placedTables []) 0x4040003000 (bytesOf 8 (2 ^ 63 + 2 ^ 62 + 2 ^ 61 + 2 ^ 60) ++ bytesOf 8 4096))
                                                0x4040003010 (bytesOf 8 (2 ^ 63 + 2 ^ 62 + 2 ^ 61 + 2 ^ 60 + 0x5000) ++ bytesOf 8 4096) }
    |>.modCtx 0 (fun x => { x with regs := kSet 0x170 0x3000 (kSet 0x171 1 (kSet 0x172 0x3010 (kSet 0x173 1 (kSet 0x100 placedDesc.w0 (kSet 0x101 placedDesc.w1 x.regs))))) })

def engPasses (i : Instr) (s : State) : Bool :=
  match engForm i with
  | none => false
  | some f => s.clearAt f.g f.keys f.wins && s.eventClear f.g && s.pegRoom f.ps && decide ((s.issuing f.g).ex = 0 :: [1]) &&
      f.ops.all (fun a => !(s.issuing f.g).pois a.1 0 a.2) && f.ok (s.issuing f.g) 0 && (f.want (s.issuing f.g) 0).isSome

theorem wit_EngineInstructionsComplete : engPasses (.cpy Grd.always false .gl .gl (.v 2) (.v 4) (.v 6)) peered = true ∧
    engPasses (.rsig Grd.always true 0 (.v 2) (.v 4)) peered = true := by decide +kernel

theorem wit_EngineInstructions_local : ∀ f, engForm (.cpy Grd.always false .gl .gl (.v 2) (.v 4) (.v 6)) = some f → (peered.issuing f.g).peerMay 0 f none := by
  intro f h
  obtain rfl := Option.some.inj h
  rfl
theorem okOf {x : Except Nat Nat} {a : Nat} (h : (match x with | .ok v => decide (v = a) | .error _ => false) = true) : x = .ok a := by
  cases x with
  | ok v => exact congrArg _ (of_decide_eq_true h)
  | error e => cases h
theorem gotOf {p : EntGot × State} {e : PeerEnt} (h : p.1 = .got e false) : p = (.got e false, p.2) := Prod.ext h rfl
theorem wit_EngineInstructions_peer : ∀ f, engForm (.rsig Grd.always true 0 (.v 2) (.v 4)) = some f → ∃ m, (peered.issuing f.g).peerMay 0 f m := by
  intro f h
  obtain rfl := Option.some.inj h
  exact ⟨_, by decide +kernel, 0x3000, { w0 := 2 ^ 63 + 2 ^ 62 + 2 ^ 61 + 2 ^ 60, w1 := 4096 }, _, okOf (by decide +kernel), gotOf (by decide +kernel),
    by decide +kernel, by decide +kernel, rfl⟩

def memAt (a : Nat) : EAddr := { sp := .mem, addr := a }
/-- A copy of 16 bytes from 0x100 to 0x40 in flight, with the ranges that it has still to claim and the claims it holds. -/
def engOf (todo : List ERange) (held : List EClaim) : Eng :=
  { kind := .copy (memAt 0x100) (memAt 0x40) 16, leader := 0, ticket := 0, todo := todo, held := held, total := 16 }
def engOpOf (g : Eng) : Op :=
  { h := h0, gen := 0, ctx := 0, kern := 0, major := 0x88, peg := none, kind := .engine g
    lanes := [{ lane := 0, kern := 0, item := 0, age := 1, due := 1, st := .pending }] }
def engState (g : Eng) : State := { peered with ops := [(0, engOpOf g)], nextOp := 1 }
def srcClaim : EClaim := { at_ := memAt 0x100, pa := 0x4040000100, len := 16, dst := false }
def dstClaim : EClaim := { at_ := memAt 0x40, pa := 0x4040000040, len := 16, dst := true }
def toClaim : Eng := engOf [{ at_ := memAt 0x40, len := 16, dst := true }] [srcClaim]
def toClaimSc : Eng := engOf [{ at_ := { sp := .sc, addr := 0x40 }, len := 16, dst := true }] [srcClaim]
def claimed : Eng := engOf [] [srcClaim, dstClaim]

theorem wit_ClaimGrantComplete : (engState toClaim).engMoves (engOpOf toClaim) toClaim = true ∧ toClaim.issued = false ∧
    (engState toClaim).xlate 0 (toClaim.need true 2) 0x40 = .hit 0x4040000040 0 0 30 ∧ ((engState toClaim).kernD 0 0).lrec.pl = 2 ∧
    (engState toClaim).claimConflict 0 (engOpOf toClaim) toClaim .mem 0x4040000040 16 true = false ∧ (engState toClaim).sliceFull 0 toClaim 0x4040000040 16 = false ∧
    (engState toClaimSc).engMoves (engOpOf toClaimSc) toClaimSc = true ∧
    (engState toClaimSc).claimConflict 0 (engOpOf toClaimSc) toClaimSc .sc 0x40 16 true = false := by decide +kernel
/-- Another operation, with an earlier ticket, holds bytes of the same line. -/
theorem wit_ClaimGrant_conflict : { engState { toClaim with ticket := 1 } with ops := [(0, engOpOf { toClaim with ticket := 1 }), (1, engOpOf claimed)] }.engMoves (engOpOf { toClaim with ticket := 1 }) { toClaim with ticket := 1 } = true ∧
    { engState { toClaim with ticket := 1 } with ops := [(0, engOpOf { toClaim with ticket := 1 }), (1, engOpOf claimed)] }.claimConflict 0 (engOpOf { toClaim with ticket := 1 }) { toClaim with ticket := 1 } .mem 0x4040000040 16 true = true := by decide +kernel
/-- A GATH of one element of 16 bytes that has claimed its index list, which holds index 0. -/
def gathering : Eng :=
  { engOf [] [{ at_ := memAt 0x100, pa := 0x4040000100, len := 4, dst := false }] with
    kind := .gather (memAt 0x200) (memAt 0x40) (memAt 0x100) 1 16, room := 0x1000, reached := false }
theorem wit_ClaimGrant_reach : (engState gathering).engMoves (engOpOf gathering) gathering = true ∧ gathering.issued = false ∧ gathering.todo = [] ∧ gathering.reached = false ∧
    ((engState gathering).reachOf (engOpOf gathering) gathering).map Prod.snd = some [{ at_ := memAt 0x200, len := 16, dst := false }, { at_ := memAt 0x40, len := 16, dst := true }] := by decide +kernel
theorem wit_EngineIssuePointComplete : (engState claimed).engMoves (engOpOf claimed) claimed = true ∧ (engState claimed).teamReads (engOpOf claimed) claimed = false ∧
    (engState claimed).offChans = [] ∧ ((engState claimed).core h0.cr).cbuf = [] ∧ (engState claimed).memPois srcClaim.pa srcClaim.len = false := by decide +kernel
theorem wit_EngineIssuePoint_copy : (engState claimed).engAt 0 (engOpOf claimed) claimed ∧ claimed.oneCopy srcClaim dstClaim ∧ claimed.reached = true :=
  ⟨⟨rfl, rfl⟩, ⟨rfl, rfl, rfl, rfl, rfl, rfl, rfl⟩, rfl⟩

def gone : Msg := { op := 0, ctx := 0, entry := 0, port := 0, seq := 0, pctx := 1, pwin := 0, off := 0x40, body := .sig 5, segs := [(0, 1)] }
/-- A signal, not yet sent and sent; a get that has been sent, with its range; each with its message 0. -/
def signal : Eng := { engOf [] [] with kind := .signal 5, msg := some 0 }
def sent : Eng := { signal with issued := true }
def getting : Eng := { engOf [] [dstClaim] with kind := .get (memAt 0x40) 16, issued := true, msg := some 0 }
def withMsg (g : Eng) (m : Msg) : State := { engState g with msgs := [(0, m)], nextMsg := 1 }
theorem wit_EngineIssuePoint_signal : (withMsg signal gone).engAt 0 (engOpOf signal) signal ∧ (withMsg signal gone).engMoves (engOpOf signal) signal = true ∧
    (withMsg signal gone).teamReads (engOpOf signal) signal = false ∧ kFind 0 (withMsg signal gone).msgs = some gone :=
  ⟨⟨rfl, rfl⟩, by decide +kernel, by decide +kernel, rfl⟩
theorem wit_EngineLineReleaseComplete : (engState { engOf [] [dstClaim] with issued := true }).engAt 0 (engOpOf { engOf [] [dstClaim] with issued := true }) { engOf [] [dstClaim] with issued := true } ∧
    Eng.written { engOf [] [dstClaim] with issued := true } = true ∧ dstClaim.len ≤ 64 - dstClaim.pa % 64 ∧ (engState claimed).saving 0 = false ∧
    ∀ x ∈ (engOpOf claimed).lanes, x.lane = 0 ∧ x.due ≤ 1 := ⟨⟨rfl, rfl⟩, by decide +kernel, by decide +kernel, by decide +kernel, by decide +kernel⟩
theorem wit_PeerAnswersComplete : (withMsg sent gone).engAt gone.op (engOpOf sent) sent ∧ kFind 0 (withMsg sent gone).msgs = some gone ∧ isGet gone.body = false ∧
    ((withMsg sent gone).ctx gone.ctx).isSome = true ∧ kFind 0 gone.segs = some 1 ∧ (∃ e ∈ ({ gone with segs := [(0, 8)] } : Msg).segs, 8 ≤ e.2) :=
  ⟨⟨rfl, rfl⟩, rfl, rfl, by decide +kernel, rfl, _, List.mem_cons_self, Nat.le_refl _⟩
theorem wit_PeerAnswers_get : (withMsg getting { gone with body := .get 16 }).engAt 0 (engOpOf getting) getting ∧ getting.held = [dstClaim] ∧
    (List.replicate 16 (7 : Byte)).length = dstClaim.len ∧ (withMsg getting { gone with body := .get 16 }).offChans = [] := ⟨⟨rfl, rfl⟩, rfl, rfl, rfl⟩

def put1 : PeerMsg := { port := 0, sender := 1, sctx := 1, entry := 0, seq := 0, ctx := 0, win := 0, off := 0x20, op := .put [1, 2, 3, 4] [] }
theorem wit_PeerMessagesComplete : peered.inbox = [] ∧ put1.seq = seqOf peered.inSeq (msgKey put1) ∧ (peered.ctx 0).map Ctx.state = some 1 ∧
    bitN (kGet {} 0 peered.parts).ports put1.port = true ∧ put1.win < peered.reg 0 0x173 ∧
    (match peered.winEntry put1 with
     | .ok (e, q) => !q.pois && bitN e.w0 63 && bitN e.w0 60 && decide (put1.off.toNat + 4 ≤ e.w1 % 2 ^ 48 ∧ e.w0 % 2 ^ 57 + put1.off.toNat = 0x5020) &&
         decide (q.s.xlate 0 { rd := false, wr := true, pl := 2 } 0x5020 = .hit 0x4040005020 0 0 30)
     | .error _ => false) = true ∧
    (∀ l ∈ spanOf 64 0x4040005020 4, peered.claimBars .mem { die := 0, core := 0 } l true = false) ∧ peered.offChans = [] ∧
    ∀ x, ({ put1 with ctx := 3 } : PeerMsg).ctx = 3 → peered.ctx 3 = some x → x.state ≠ 1 := by
  refine ⟨by decide +kernel, by decide +kernel, by decide +kernel, by decide +kernel, by decide +kernel, by decide +kernel, by decide +kernel, rfl, ?_⟩
  intro x _ h
  have : peered.ctx 3 = none := by decide +kernel
  simp [this] at h

/-! ### The matrix array -/

/-- 13, one product: in every lane a row of A with 2.0 at element 3 and 1.0 at element 17, and the tile of Table 12.9 at talon offset 0. -/
def product : State :=
  let v : KMap W32 := [(0, 0x4000), (2, 0x20)]
  let s : State := { small v with cores := [(0, { hands := [(0, { placedHand inClause with lanes := (List.range 32).map (fun l => (l, laneAt v l)) })], touched := true
                                                  tal := cellsWrite [] 0 (wordBytes [0x00040020, 0x00000120, 0, 0, 0x00020008, 0x000000B2]) })] }
  s.modHand h0 (fun d => { d with sets := d.sets.map (fun e => (e.1, { e.2 with fmts := [(1, 0x194)] })) })
def mma0 : MmaF := { team := false, tile := 0, fa := 1, fb := 1, km1 := 0 }
def mmaI0 : MmaI := { mmag := false, ps := false, gsrc := false, m := mma0, a := 0, b := .zero, c := none }
/-- Each row gains 0.5 in column 0, bit 63 alone, and nothing in column 1. -/
theorem test_mma : (dotOf ((product.issuing Grd.always).rowOf mmaI0 5) ((product.issuing Grd.always).columnOf mmaI0 0 0)).sum = 0x8000000000000000 ∧
    (dotOf ((product.issuing Grd.always).rowOf mmaI0 5) ((product.issuing Grd.always).columnOf mmaI0 0 1)).sum = 0 := by decide +kernel
def drained : State := product.setSlot c0 0 { acc := (List.range 32).map (fun i => (accKey i 0, 0x8000000000000000)), cr := [(0, 0x100000000000000000)], cc := (List.range 32).map (fun i => (i, 0x8000000000000000)) }
/-- The drain to BF16 gives 0x3F00 in v8 and zeros after it. -/
theorem test_mdrain : runs (.mdrain Grd.always false 0 .bf16 false 0 .rne false 8 (.lit 0x3F800000)) drained (fun t =>
    (kFind 0 t.ops).map (fun o => o.lanes.head?.map (fun e => match e.st with | .arrived ws => ws.take 2 | _ => [])) = some (some [(8, 0x3F00, false), (9, 0, false)])) = true := by
  decide +kernel

theorem wit_SlotInstructionsComplete : product.clearAt Grd.always [] [] = true ∧ product.mayTile Grd.always 7 = true ∧
    product.clearAt Grd.always (namesOf 0 .none [(1, .v 0), (1, .v 2)]) (windowsOf 0 .none [(1, .v 0), (1, .v 2)]) = true ∧ (product.issuing Grd.always).ex ≠ [] ∧
    product.clearAt Grd.always (dstKeys 1 (.v 79)) (dstWin 1 (.v 79)) = true ∧ product.pegRoom true = true := by decide +kernel

/-- An MMAG with all 32 rows in group 0, its table in k0 to k9. -/
def mmagI0 : MmaI := { mmag := true, ps := false, gsrc := false, m := mma0, a := 0, b := .k 0, c := none }
def grouped : State := onKern product (fun k => { k with lrec := { k.lrec with k := [(0, 32)] } })
def mmaPasses (s : State) (i : Instr) : Bool :=
  match mmaForm i with
  | none => false
  | some f =>
    let x := { s.issuing Grd.always with ex := (s.issuing Grd.always).act }
    s.clearAt Grd.always (mmaKeys (x.fmt f.m.fa) f.k f.a f.c ++ srcKeys 1 f.b) (srcWin 1 f.b) && (!f.gsrc || s.settled Grd.always) && s.pegRoom f.ps &&
      s.mayTile Grd.always f.m.tile && s.wholeTable && (!f.m.team || decide (2 ≤ x.kern.lrec.team)) &&
      (match x.tiles f with | some t => x.mmaRight f t.1 | none => false)
theorem wit_MultiplyComplete : mmaPasses product (.mma false mma0 0 .zero none) = true ∧ mmaPasses grouped (.mmag false false mma0 0 (.k 0) none) = true ∧
    mmaForm (.mma false mma0 0 .zero none) = some mmaI0 := by decide +kernel
/-- A kernel with teams of two, and the one member that is Dealt waiting with its MMA. -/
def teamed : State := (onRec product [(6, placedRec.word 6 + 2 ^ 28)]).modSuit placedSuit (fun u => { u with stall := .team { i := { mmaI0 with m := { mma0 with team := true } }, op := 0, npc := 0x1010, groups := [{ g := 0, first := 0, n := 32, off := 0 }] } })
theorem wit_Multiply_team : mmaPasses (teamed.modSuit placedSuit (fun u => { u with stall := .ready })) (.mma false { mma0 with team := true } 0 .zero none) = true := by decide +kernel
theorem wit_TeamStartComplete : (teamed.teamReady c0 0 0 0).length = 1 ∧ ((teamed.teamReady c0 0 0 0).map Arrived.r).Nodup ∧
    ((teamed.teamReady c0 0 0 0).map (fun a => a.r.hr)).Nodup ∧
    (∀ a ∈ teamed.teamReady c0 0 0 0, (teamed.member a).isSome = true ∧ (a.w.groups.map RowGrp.first).Nodup ∧
      ∀ q ∈ a.w.groups, ∀ r ∈ a.w.groups, q.first < r.first → q.first + q.n ≤ r.first) ∧
    (∀ a ∈ teamed.teamReady c0 0 0 0, ∀ b ∈ teamed.teamReady c0 0 0 0, (teamed.member a).map (fun x => x.teamKey a.w) = (teamed.member b).map (fun x => x.teamKey b.w)) := by
  decide +kernel

/-- The mapped context with `drained`, one lane executing, and its address in v2. -/
def storing : State := { drained with mem := placedTables [] }.modHand h0 (fun d => { d with lanes := [(0, laneAt [(2, 0x40)] 0)] })
theorem wit_DrainsComplete : drained.clearAt Grd.always (rngKeys 8 (drainRegs .bf16 0) ++ srcKeys 1 (.imm 1)) (rngWin 8 (drainRegs .bf16 0) ++ srcWin 1 (.imm 1)) = true ∧
    drained.pegRoom false = true ∧ drained.mayTile Grd.always 0 = true ∧ (drained.issuing Grd.always).ex ≠ [] ∧
    drained.clearAt Grd.always (rngKeys 8 (drainRegs .nar (drained.fmtNow 1)) ++ srcKeys 1 (.imm 1)) (rngWin 8 (drainRegs .nar (drained.fmtNow 1)) ++ srcWin 1 (.imm 1)) = true ∧
    nLegal (drained.fmtNow 1) = true := by decide +kernel
theorem wit_Drains_store : storing.clearAt Grd.always (namesOf 0 .none [(2, .v 2), (1, .imm 1)]) (windowsOf 0 .none [(2, .v 2), (1, .imm 1)]) = true ∧
    storing.noneParked = true ∧ storing.pointsPassed = true ∧ storing.pegRoom false = true ∧ storing.mayTile Grd.always 0 = true ∧
    (storing.issuing Grd.always).ex = [0] ∧ (storing.issuing Grd.always).pois .w64 0 (.v 2) = false ∧ ((storing.issuing Grd.always).w64 0 (.v 2)).toNat = 0x40 ∧
    polIn .shared 0 ≠ .core ∧
    ((storing.issuing Grd.always).drainRow (storing.slot c0 (storing.slotAt Grd.always 0)).compare .bf16 false 0 .rne false (.imm 1) 0).1.length = 128 ∧
    (match segCheck .gl (storing.laneDesc h0 0 0 .gl) { rd := false, wr := true, pl := 2 } 0x40 128 with | .ok va => decide (va = 0x40) | .error _ => false) = true := by decide +kernel
theorem wit_Drains_place : (match ((let x := storing.issuing Grd.always
    let row := x.drainRow (storing.slot c0 (storing.slotAt Grd.always 0)).compare .bf16 false 0 .rne false (.imm 1) 0
    (x.drained (.imm 1) [(0, row)] (storing.compare c0 (storing.slotAt Grd.always 0))).rowXlate (x.rowReq .gl .shared 0 0x40 row.1) (pieces16 0x40 (row.1.map Prod.fst))).1) with
  | .ok xs => decide (xs.map Prod.fst = (List.range 8).map (fun j => 0x4040000040 + 16 * j)) && xs.all (fun q => decide (q.2.1 ≠ .core))
  | .error _ => false) = true := by decide +kernel

/-! ### Estates -/

/-- The kernel of the mapped context as a deck of 32 identities with its records from 0x6000 on and its piles, 32 of them, at 0x9000. -/
def deck (m : List Host.Cell) : State := onRec { mapped vals with mem := m } [(8, 2 ^ 52), (9, 0x6000), (10, 32), (11, 0x9000), (12, 32)]
/-- The same as an heir of itself. -/
def heir : State := onRec (deck (placedTables [])) [(7, 1)]
theorem wit_EstateInstructionsComplete : heir.clearAt Grd.always (rngKeys 76 4 ++ srcKeys 2 (.v 2)) (rngWin 76 4 ++ srcWin 2 (.v 2)) = true ∧
    (∀ l ∈ (heir.issuing Grd.always).act, (heir.issuing Grd.always).pois .w64 l (.v 2) = false) ∧
    (heir.issuing Grd.always).kern.lrec.heirk ≠ 0xFFFF ∧
    (∀ l ∈ (heir.issuing Grd.always).act, ((heir.issuing Grd.always).item l).willed = false) ∧
    heir.noneParked = true ∧ heir.pointsPassed = true ∧ heir.pegRoom true = true ∧
    (heir.issuing Grd.always).ex ≠ [] ∧ (∀ l ∈ (heir.issuing Grd.always).ex, (heir.issuing Grd.always).pois .w64 l (.v 2) = false) ∧
    heir.clearAt Grd.always (dstKeys 1 (.v 79)) (dstWin 1 (.v 79)) = true := by decide +kernel

/-- Identity 3 with two registers in memory, claimed by lane 0 for v8 to v10; and a claim of an identity outside the deck. -/
def inMemory : List Host.Cell := cellsWrite (cellsWrite (placedTables []) 0x4040006120 (bytesOf 8 (estW0 2 2 3))) 0x4040006140 (bytesOf 8 0x1234)
def claim3 : ClaimReq := { ctx := 0, h := h0, gen := 0, lane := 0, kern := 0, item := 0, ident := 3, outside := false, dst := 8, n := 3, j := none, op := some 0 }
def claim99 : ClaimReq := { claim3 with ident := 99, outside := true }
def claiming (c : ClaimReq) : State := { deck inMemory with claims := [(0, c)], nextClaim := 1 }
theorem wit_ClaimResolveComplete : (claiming claim3).claimReady 0 claim3 = true ∧ (claiming claim3).claimant claim3 ∧ ((claiming claim3).kern 0 0).isSome = true ∧
    (claiming claim3).devAt 0 0x6120 96 0x4040006120 ∧ ((claiming claim3).kernD 0 0).recVa 3 = 0x6120 ∧ (claiming claim3).mem64 0x4040006120 / 2 ^ 62 = 2 ∧
    (claiming claim99).claimReady 0 claim99 = true ∧ (claiming claim99).claimant claim99 :=
  ⟨by decide +kernel, ⟨rfl, by decide +kernel, _, rfl, rfl, rfl⟩, by decide +kernel, devAt_flat _ _ _ (by decide +kernel),
   by decide +kernel, by decide +kernel, by decide +kernel, ⟨rfl, by decide +kernel, _, rfl, rfl, rfl⟩⟩

/-- Lane 1 Pinned with the estate of identity 3, or with a self-estate of item 1, sealed at clock 0; the kernel has no barriers. -/
def pinned3 : Estate := { self := false, ident := 3, deck := 0, start := 4, data := [(7, false)], kern := 0, item := 1, sealClk := 0 }
def pinnedSelf : Estate := { pinned3 with self := true, ident := 1 }
def pinning (e : Estate) (m : List Host.Cell) : State :=
  { onRec (deck m) [(1, 0x200900000108)] with clk := 8193 }.modHand h0 (fun d => d.modLane 1 (fun l => { l with st := .pinned, item := none, estate := some e }))
def pinnedMem : List Host.Cell := cellsWrite (placedTables []) 0x4040006120 (bytesOf 8 (estW0 1 1 3) ++ bytesOf 8 (estW1 0 0 h0 1 0))
theorem wit_Evictions_record : (pinning pinned3 pinnedMem).evictable h0 1 = true ∧ ((pinning pinned3 pinnedMem).lane h0 1).estate = some pinned3 ∧
    ((pinning pinned3 pinnedMem).kern 0 0).isSome = true ∧ (pinning pinned3 pinnedMem).devAt 0 0x6120 96 0x4040006120 ∧
    pinnedHere ((pinning pinned3 pinnedMem).mem64 0x4040006120) ((pinning pinned3 pinnedMem).mem64 0x4040006128) 3 h0 1 ((pinning pinned3 pinnedMem).hand h0).tag = true :=
  ⟨by decide +kernel, by decide +kernel, by decide +kernel, devAt_flat _ _ _ (by decide +kernel), by decide +kernel⟩
theorem wit_Evictions_pile : (pinning pinnedSelf pinnedMem).evictable h0 1 = true ∧ ((pinning pinnedSelf pinnedMem).lane h0 1).estate = some pinnedSelf ∧
    ((pinning pinnedSelf pinnedMem).kernD 0 0).pileVa 1 = 0x9060 ∧ (pinning pinnedSelf pinnedMem).devAt 0 0x9060 96 0x4040009060 ∧
    (pinning pinnedSelf pinnedMem).mem64 0x4040009060 / 2 ^ 62 = 0 :=
  ⟨by decide +kernel, by decide +kernel, by decide +kernel, devAt_flat _ _ _ (by decide +kernel), by decide +kernel⟩

/-! ### Work -/

/-- A kernel deals from a task deck of 32 records in a ring at 0x7800; a launch record stands at 0x7000, and v2:v3 give it. -/
def taskRec : List W64 := (placedRec.w.set 6 (placedRec.word 6 + 2 ^ 56)).set 15 0x7800
def working : State :=
  let s := mapped [(2, 0x7000), (4, 1), (6, 0)]
  let m := [1, 5, 6, 7, 12, 13].foldl (fun m i => cellsWrite m (0x4040007000 + 8 * i) (bytesOf 8 (placedRec.word i))) (placedTables [])
  onKern { s with mem := cellsWrite m 0x4040007180 ((List.range 16).flatMap (fun _ => bytesOf 4 0x47B8)) } (fun k => { k with lrec := { k.lrec with w := taskRec } })

/-- What `sourceAt` asks of a run of gl. -/
def srcAt (s : State) (off n pa : Nat) : Bool :=
  s.offChans.isEmpty && !s.memPois pa n && (s.core h0.cr).cbuf.isEmpty && (spanOf 64 pa n).all (fun u => !s.claimBars .mem h0.cr u false) &&
    decide (off % 65536 + n ≤ 65536) && (match segCheck .gl (s.laneDesc h0 0 0 .gl) { rd := true, wr := false, pl := 2 } off n with | .ok va => decide (va = off) | .error _ => false) &&
    decide (s.xlate 0 { rd := true, wr := false, pl := 2 } off = .hit pa 0 0 30)

/-- The same of a range of the scratchpad. -/
def scSrcAt (s : State) (off n : Nat) : Bool :=
  (s.core h0.cr).cbuf.isEmpty && (spanOf 64 off n).all (fun u => !s.claimBars .sc h0.cr u false) &&
    (match segCheck .sc (s.laneDesc h0 0 0 .sc) { rd := true, wr := false, pl := 2 } off n with | .ok va => decide (va = off) | .error _ => false)
theorem wit_Source_scratchpad : scSrcAt working 0 512 = true ∧ scSrcAt working 0x40 64 = true := by decide +kernel

theorem wit_LaunchComplete : working.clearAt Grd.always (namesOf 1 (.v 79) [(2, .v 2)]) (windowsOf 1 (.v 79) [(2, .v 2)]) = true ∧ working.eventClear Grd.always = true ∧
    working.pegRoom true = true ∧ (working.issuing Grd.always).ex = 0 :: [1] ∧ (working.issuing Grd.always).pois .w64 0 (.v 2) = false ∧
    ((working.issuing Grd.always).w64 0 (.v 2)).toNat = 0x7000 ∧ srcAt working 0x7000 512 0x4040007000 = true ∧ (working.issuing Grd.always).pl = 2 := by decide +kernel
theorem wit_Launch_taken : working.takes 0 (working.bytesAt 0x4040007000 512) (some 2) 1 := by
  unfold State.takes; decide +kernel
theorem wit_Launch_refused : leastBy id (working.launchBad 0 (LaunchRec.parse (List.replicate 512 0)) (some 2)) = some 1 := by decide +kernel

theorem wit_DealComplete : working.clearAt Grd.always (namesOf 1 (.v 79) [(2, .v 2), (1, .v 4), (1, .v 6)]) (windowsOf 1 (.v 79) [(2, .v 2), (1, .v 4), (1, .v 6)]) = true ∧
    working.eventClear Grd.always = true ∧ working.pegRoom true = true ∧ (working.issuing Grd.always).ex = 0 :: [1] ∧
    (working.issuing Grd.always).pois .w64 0 (.v 2) = false ∧ (working.issuing Grd.always).pois .w32 0 (.v 4) = false ∧ (working.issuing Grd.always).pois .w32 0 (.v 6) = false ∧
    ((working.issuing Grd.always).w32 0 (.v 4)).toNat = 1 ∧ ((working.issuing Grd.always).w32 0 (.v 6)).toNat = 0 ∧ srcAt working 0x7000 64 0x4040007000 = true ∧
    srcAt working 0x7000 0 0x4040007000 = true ∧ (working.deck 0 0).isSome = true ∧ working.dealBar 0 0 = none ∧ (working.kernD 0 0).ringFree = 32 ∧
    (working.kernD 0 0).ringVa ((working.kernD 0 0).ringPlace (working.kernD 0 0).appended) = 0x7800 ∧ (onKern working (fun k => { k with appended := 64 })).dealBar 0 0 = none ∧
    ((onKern working (fun k => { k with appended := 64 })).kernD 0 0).ringFree = 0 ∧
    (onKern working (fun k => { k with closed := true })).dealBar 0 0 = some 3 ∧ working.dealBar 0 5 = some 1 := by decide +kernel
theorem wit_Deal_ring : working.devAt 0 0x7800 64 0x4040007800 := devAt_flat _ _ _ (by decide +kernel)
theorem wit_DeckQueriesComplete : (deckqForm (.deckqCancel Grd.always true (.v 79) (.v 6))).isSome = true ∧
    working.clearAt Grd.always (namesOf 1 (.v 79) [(1, .v 6)]) (windowsOf 1 (.v 79) [(1, .v 6)]) = true ∧ working.eventClear Grd.always = true ∧ working.pegRoom true = true ∧
    (working.issuing Grd.always).ex = 0 :: [1] ∧ (working.issuing Grd.always).pois .w32 0 (.v 6) = false ∧
    (working.deck 0 ((working.issuing Grd.always).w32 0 (.v 6)).toNat).isSome = true ∧ (working.kernD 0 0).lrec.task = true ∧ (working.kernD 0 0).cst ≠ .complete ∧
    (working.kernD 0 0).cancelled = false ∧ working.deck 0 ((working.issuing Grd.always).w32 0 (.v 4)).toNat = none := by decide +kernel
theorem wit_ChkeComplete : handled.clearAt Grd.always (dstKeys 1 (.v 79)) (dstWin 1 (.v 79)) = true ∧ (∀ l ∈ (handled.issuing Grd.always).ex, (handled.lane h0 l).psum = false) ∧
    ((handled.modHand h0 (fun d => d.modLane 1 (fun l => { l with psum := true }))).issuing Grd.always).ex.filter (fun l =>
      ((handled.modHand h0 (fun d => d.modLane 1 (fun l => { l with psum := true }))).lane h0 l).psum) = [1] ∧
    ((handled.modHand h0 (fun d => d.modLane 1 (fun l => { l with psum := true }))).trapPlace 0).isSome = true ∧
    (handled.modHand h0 (fun d => d.modLane 1 (fun l => { l with psum := true }))).trapReady placedSuit = true ∧
    ((handled.modHand h0 (fun d => d.modLane 1 (fun l => { l with psum := true }))).issuing Grd.always).u.trap = none := by decide +kernel

/-- The launch queue of the context: 16 records from 0x7000 on, results at 0xA000, entry 0 due. -/
def queued : State := ((((working.setReg 0 0x120 0x7000).setReg 0 0x121 4).setReg 0 0x124 0xA000).setReg 0 0x123 1)
theorem wit_LaunchQueueComplete : (queued.ctx 0).isSome = true ∧ (queued.host 5).live = [] ∧ (queued.host 5).waiting = [] ∧ ((1 : W64) - 1).toNat < queued.reg 0 0x123 ∧ queued.reg 0 0x122 ≤ (1 : W64).toNat ∧ queued.entryDue 0 = true ∧
    queued.reg 0 0x120 + 512 * (queued.reg 0 0x122 % 2 ^ queued.reg 0 0x121) = 0x7000 ∧ queued.reg 0 0x124 + 4 * (queued.reg 0 0x122 % 2 ^ queued.reg 0 0x121) = 0xA000 ∧
    (queued.setReg 0 0x122 1).reg 0 0x122 = 1 := by decide +kernel
theorem wit_LaunchQueue_entry : queued.devAt 0 0x7000 512 0x4040007000 ∧ queued.devAt 0 0xA000 4 0x404000A000 ∧ queued.takes 0 (queued.bytesAt 0x4040007000 512) none 1 :=
  ⟨devAt_flat _ _ _ (by decide +kernel), devAt_flat _ _ _ (by decide +kernel),
   by unfold State.takes; decide +kernel⟩

/-- Kernel 0 with all its items gone and its hand released, with and without a completion event word. -/
def exited (cev : Nat) : State := { onKern { mapped vals with cores := [(0, {})] } (fun k =>
  { k with lrec := { k.lrec with w := k.lrec.w.set 14 (BitVec.ofNat 64 cev) }, tables := [], ended := [(0, 0)], cst := .exited }) with cur := placedSuit }
theorem wit_KernelCompletionComplete : (exited 0).completes 0 0 = true ∧ ((exited 0).kern 0 0).map (fun k => decide (k.cst ≠ .complete ∧ k.finish = 0 ∧ k.deckOnly = false ∧
      k.probate = none ∧ k.lrec.kf = 0 ∧ k.lrec.cev = 0)) = some true ∧ (∀ c ∈ (exited 0).cores, c.2.kpsum.contains (kernKey 0 0) = false) ∧
    (exited 0x40).completes 0 0 = true ∧ ((exited 0x40).kern 0 0).map (fun k => k.lrec.cev) = some 0x40 ∧ (exited 0x40).offChans = [] ∧
    ((exited 0x40).kern 0 0).map (fun k => match segCheck .gl k.gl { rd := true, wr := true, pl := 2 } 0x40 8 with | .ok va => decide (va = 0x40) | .error _ => false) = some true ∧
    (exited 0x40).xlate 0 { rd := true, wr := true, pl := 2 } 0x40 = .hit 0x4040000040 0 0 30 ∧ (exited 0x40).runBars 0x4040000040 8 true = false := by decide +kernel

/-! ### Privileged registers, keys and scrubs -/

/-- Context 1 beside the placed one: Stopped, protected or not. -/
def beside (prot : Bool) (kst : Nat) : State :=
  let s := small [(4, 1), (6, 2)]
  { s with ctxs := s.ctxs ++ [(1, { state := 3, prot := prot, kstate := kst, cores := [(0, 2)] })] }
theorem wit_MovpComplete : (beside false 0).clearAt Grd.always (dstKeys 2 (.v 78)) (dstWin 2 (.v 78)) = true ∧ (beside false 0).eventClear Grd.always = true ∧
    (beside false 0).mayAt (movpLevel false true 0x140) = true ∧ (beside false 0).ownPart Grd.always 1 = true ∧
    (beside false 0).clearAt Grd.always (srcKeys 2 (.v 4)) (srcWin 2 (.v 4)) = true ∧ (beside false 0).mayAt (movpLevel true true 0x130) = true ∧
    ((beside false 0).issuing Grd.always).ex = 0 :: [1] ∧ ((beside false 0).issuing Grd.always).pois .w64 0 (.v 4) = false ∧ plainPrn 0x130 = true ∧
    ((beside false 0).ctx 1).map Ctx.state = some 3 ∧ plainPrn 0x150 = true ∧ (beside false 0).mayAt (movpLevel true true 0x150) = true := by decide +kernel
def keyPasses (s : State) (v : Nat) : Bool :=
  s.clearAt Grd.always (namesOf 1 (.v 79) [(1, .v 4)]) (windowsOf 1 (.v 79) [(1, .v 4)]) && s.eventClear Grd.always && s.mayAt 2 && s.pegRoom true &&
    decide ((s.issuing Grd.always).ex = 0 :: [1]) && !(s.issuing Grd.always).pois .w32 0 (.v 4) && decide (((s.issuing Grd.always).w32 0 (.v 4)).toNat = v) && s.ownPart Grd.always v
/-- A context number that is free, one that is Open, one that is Stopped and unprotected, and one that is Stopped and protected. -/
theorem wit_KeyzComplete : keyPasses (small [(4, 9)]) 9 = true ∧ (small [(4, 9)]).ctx 9 = none ∧ keyPasses (small []) 0 = true ∧ ((small []).ctx 0).map Ctx.state = some 1 ∧
    keyPasses (beside false 0) 1 = true ∧ ((beside false 0).ctx 1).map (fun y => (y.state, y.prot)) = some (3, false) ∧
    keyPasses (beside true 1) 1 = true ∧ ((beside true 1).ctx 1).map (fun y => (y.state, y.prot)) = some (3, true) := by decide +kernel
/-- A KEYZ that has waited past its deadline. -/
def keyWait : Keyz := { id := 7, h := h0, suit := 0, dst := .v 5, lanes := [0, 1], deadline := 2048 }
def keyWaiting : State := { (beside true 2).modCtx 1 (fun y => { y with keyz := [keyWait] }) with clk := 2049 }.modSuit placedSuit (fun u => { u with stall := .keyz 7 })
theorem wit_Keyz_waits : (keyWaiting.ctxD 1).keyz = [keyWait] ∧ (keyWaiting.hand h0).suit 0 = some { u0 with stall := .keyz 7 } ∧ keyWait.lanes.Nodup ∧
    keyWait.deadline < keyWaiting.clk ∧ keyWaiting.offChans.contains 7 = false ∧ keyWaiting.badChans.contains 7 = false ∧ (keyWaiting.lane h0 0).st = .active 0 := by decide +kernel

/-- The same while channel 7 is offline and holds the slot. -/
def keyHeld : State := { keyWaiting.modCtx 1 (fun y => { y with slots := [(7, 0)] }) with offChans := [7] }
theorem wit_Keyz_held : (keyWaiting.ctxD 1).slots = [] ∧ keyWaiting.dies.contains (7 / 64) = true ∧ (keyHeld.ctxD 1).keyz = [keyWait] ∧
    (keyHeld.ctxD 1).slots.any (fun e => keyHeld.offChans.contains e.1) = true ∧ keyWait.deadline < keyHeld.clk := by decide +kernel

/-- Context 1 under a scrub: at unit 12 of its one core, or at the one frame that bears its mark. -/
def scrubbing (b : Scrub) : State :=
  { (beside true 2).modCtx 1 (fun y => { y with scrub := some b }) with
    frames := [(0x404000, { req := some 1 })], nextOp := 1
    ops := [(0, { h := h0, gen := 0, ctx := 0, kern := 0, major := 0x7c, peg := none, kind := .scrub 1 (some 5)
                  lanes := [{ lane := 0, kern := 0, item := 0, age := 1, st := .pending }] })] }
theorem wit_ScrubComplete : keyPasses (small [(4, 9)]) 9 = true ∧ keyPasses (beside true 1) 1 = true ∧ ((beside true 1).ctx 1).map Ctx.kstate = some 1 ∧
    keyPasses (beside true 2) 1 = true ∧ ((beside true 2).ctx 1).map (fun y => (y.state, y.kstate, y.scrub.isNone)) = some (3, 2, true) ∧
    ((scrubbing { cores := [({ die := 0, core := 1 }, 12)], ops := [0] }).ctx 1).map (fun y => y.scrub) =
      some (some { cores := [({ die := 0, core := 1 }, 12)], ops := [0] }) ∧
    (∀ h ∈ ((scrubbing { cores := [({ die := 0, core := 1 }, 12)], ops := [0] }).core { die := 0, core := 1 }).hands, h.2.st = .unformed) ∧
    ((scrubbing { cores := [], ops := [0] }).ctx 1).map (fun y => y.scrub) = some (some { cores := [], ops := [0] }) ∧
    (scrubbing { cores := [], ops := [0] }).frames.filter (fun q => q.2.req = some 1) = [(0x404000, { req := some 1 })] ∧
    kSorted (scrubbing { cores := [], ops := [0] }).frames = true ∧ (scrubbing { cores := [], ops := [0] }).runBars (65536 * 0x404000) 65536 true = false ∧
    (scrubbing { cores := [], ops := [0] }).offChans = [] ∧
    (kFind 0 (scrubbing { cores := [], ops := [0] }).ops).map Op.kind = some (.scrub 1 (some 5)) := by decide +kernel

/-! ### Slots, hands and windows -/

/-- Hand 0 of core 0 changed on the mapped context. -/
def handed (f : Hand → Hand) : State := (mapped vals).modHand h0 f
/-- A table of kernel 0 from whose items none has been drawn. -/
def fresh (bar : Bool) : Table := { core := c0, base := 0, len := 1024, left := List.range 32, out := 0, barrier := bar }
/-- Kernel 0 dealt by items, or in blocks, without barriers, with some of its tables granted. -/
def dealing (w6 : W64) (ts : KMap Table) (s : State) : State :=
  onKern (onRec s [(1, 0x200900000108), (6, w6)]) (fun k => { k with tables := ts, nextTable := ts.length })
def byItem : W64 := 2 * 2 ^ 58 + 2 ^ 36 + 2 ^ 28 + 4 * 2 ^ 13 + 10
def byBlock : W64 := placedRec.w.getD 6 0
def openHand : Hand := { st := .opened, ctx := 0, seat := 80 }

def reforming : State := handed (fun d => { d with suits := [], lanes := d.lanes.map (fun e => (e.1, { e.2 with st := .heldReady, pos := Pos.at_ 0x2000 })) })
theorem wit_SlotFills_reform : reforming.fillable h0 = true ∧ (reforming.hand h0).group = some (0, Pos.at_ 0x2000, [0, 1]) ∧ (reforming.hand h0).freeSlot = some 0 := by decide +kernel
/-- Item 1 suspended: its self-estate of two registers pinned in lane 1, its continuation woken. -/
def woken1 : Cont := { ctx := 0, kern := 0, item := 1, pc := 0x3000, start := 8, len := 2, psum := false, epois := false, willed := false, pts := 0 }
def carry1 : Estate := { self := true, ident := 1, deck := 0, start := 8, data := [(7, false), (9, false)], kern := 0, item := 1, sealClk := 0 }
def seating : State := (handed (fun _ => { openHand with lanes := [(1, { st := .pinned, estate := some carry1 })] })).modCore c0 (fun c => { c with contq := [woken1] })
theorem wit_SlotFills_seat : seating.fillable h0 = true ∧ (seating.hand h0).group = none ∧ seating.contCand h0 = some (woken1, 1) ∧ seating.contLane h0 woken1 = some 1 ∧
    (seating.hand h0).freeSlot = some 0 ∧ (seating.lane h0 1).estate = some carry1 := by decide +kernel
def drawing : State := dealing byItem [(0, fresh false)] (handed (fun _ => openHand))
theorem wit_SlotFills_draw : drawing.fillable h0 = true ∧ (drawing.hand h0).st = .opened ∧ (drawing.hand h0).group = none ∧ drawing.contCand h0 = none ∧
    drawing.waiting 0 (.draw h0) = false ∧ drawing.entryKern h0 = some 0 ∧ (drawing.hand h0).freeSlot = some 0 := by decide +kernel
/-- With room for one item. -/
def drawing1 : State := onRec drawing [(6, byItem + 2 ^ 40)]
theorem wit_SlotFills_drawn : (drawing1.draw h0 0).got ≠ [] := by decide +kernel
/-- Lane 2 has waited as a Held-ready lane since clock 0, and no slot is Free; the suit in slot 0 runs, or waits at a MELD. -/
def rotating1 (u : Suit) : State := { handed (fun d => { d with
  lanes := d.lanes ++ [(2, { placedLane (Pos.at_ 0x3000) 2 with st := .heldReady, heldSince := some 0 })]
  suits := [(0, u), (1, { kern := 0 }), (2, { kern := 0 }), (3, { kern := 0 })] }) with clk := 8192 }
def rotates (u : Suit) : Prop := ((rotating1 u).hand h0).waited (rotating1 u).clk = [2] ∧ ((rotating1 u).hand h0).filled = false ∧ ((rotating1 u).hand h0).freeSlot = none ∧
    (rotating1 u).runs ((rotating1 u).hand h0).ctx = true ∧ ((rotating1 u).hand h0).rotating = some 0 ∧ ((rotating1 u).hand h0).suit 0 = some u
def atClause : Suit := { kern := 0, pos := Pos.at_ 0x2000 }
def atMeld : Suit := { atClause with stall := .meld 31 }
theorem wit_SlotFills_rotation : rotates atClause ∧ atClause.pos.pc = atClause.pos.hdr ∧ rotates atMeld := by unfold rotates; decide +kernel

def forming : State := dealing byItem [(0, fresh false)] { mapped vals with cores := [] }
theorem wit_Hands_form : forming.nextHand c0 = some 0 ∧ forming.needer c0 = some (0, 0) ∧ forming.seatSum c0 + (forming.kernD 0 0).lrec.seat ≤ 6144 ∧
    forming.coreSum c0 0 (forming.kernD 0 0).lrec.energy ≤ 96 := by decide +kernel
def blocking : State := dealing byBlock [(0, fresh false)] (handed (fun _ => openHand))
theorem wit_Hands_block : blocking.runs 0 = true ∧ blocking.bound 0 0 c0 = true ∧ blocking.mayUse 0 c0 = true ∧ blocking.kernReady 0 0 = true ∧
    (blocking.kern 0 0).map (fun k => (k.lrec.hdeal, k.plainBlocks, k.lrec.tiles)) = some (true, true, 8) ∧
    (blocking.nextBlocks c0 0 0).map (fun r => (decide ((r.2.2.map (fun i => i % 32)).Nodup), r.1.blockHands c0 0 0 r.2.1, (r.1.hand h0).ctx, r.1.admits h0 0, (r.1.core c0).freeSlots.length, r.2.2.length)) =
      some (true, [h0], 0, true, 8, 32) := by decide +kernel
/-- A kernel with barrier tables, none granted, and an Open hand with every lane Idle. -/
def granting : State := onKern (onRec (handed (fun _ => openHand)) [(6, byItem)]) (fun k => { k with tables := [], nextTable := 0 })
theorem wit_Hands_grant : granting.runs 0 = true ∧ granting.bound 0 0 c0 = true ∧ granting.mayUse 0 c0 = true ∧ granting.kernReady 0 0 = true ∧ (granting.kernD 0 0).lrec.barTables = true ∧
    (granting.kernD 0 0).leftOn c0 true = [] ∧ granting.nextUnit 0 0 = some [0] ∧ (granting.kernD 0 0).lrec.cap = 0 ∧
    ((granting.reserve 0 0 ((granting.kernD 0 0).tableItems 0) (granting.idleFor c0 0 0)).bind (fun s1 => s1.grant 0 0 0 c0)).isSome = true := by decide +kernel
def returning : State := handed (fun d => { d with suits := [], lanes := [] })
theorem wit_Hands_return : (returning.hand h0).st = .dealt ∧ returning.matrixBusy h0 = false ∧ ∀ l, l < 32 → (returning.lane h0 l).st = .idle := by decide +kernel
def releasing : State := dealing byItem [] (handed (fun _ => openHand)) |> (onKern · (fun k => { k with ended := [(0, 0)] }))
theorem wit_Hands_release : releasing.runs (releasing.hand h0).ctx = true ∧ releasing.mayRelease h0 = true := by decide +kernel

/-- Kernel 0 as a stage deck of die 0 with an item to draw, which no core serves. -/
def staged : State := onRec drawing [(10, 2 ^ 56)]
theorem wit_Periods_dealer : staged.stages 0 = [{ ctx := 0, kern := 0 }] ∧ staged.serving 0 { ctx := 0, kern := 0 } = [] ∧
    (coresOf 0).find? (fun x => (staged.serves x).isNone && staged.mayUse 0 x) = some c0 ∧ kGet 0 0 staged.dealerAt = 0 := by decide +kernel
def windows : State := { mapped vals with clk := 65536, share := [(4 * 5, { rr := [(1, 300), (2, 10)], w := 1 }), (4 * 6, { rr := [(1, 300)], bar := true })] }
theorem topDie1 : Share.topDie { rr := [(1, 300), (2, 10)], w := 1 } [1] 1 := ⟨by simp, by intro j hj; simp at hj; subst hj; exact ⟨Nat.le_refl _, fun _ => Nat.le_refl _⟩⟩
theorem wit_PeriodsComplete : windows.dies.contains 0 = true ∧ kGet 0 0 windows.dealerAt < windows.clk / 4096 ∧ windows.sampleAt < windows.clk / 65536 ∧
    (kFind (4 * 5) windows.share).isSome = true ∧ 64 * 1 < 1 + (300 + 10) ∧ windows.dies.Pairwise (· < ·) ∧
    (windows.dies.filter (fun d => decide (d ≠ 4 * 5 % 4) && decide ((windows.partOf (4 * 5 / 4 * 2 ^ 21)).rthr < kGet 0 d [(1, 300), (2, 10)]))) = [1] ∧
    (kFind (4 * 5) windows.share).map (fun e => (e.bar, e.wclk, e.max)) = some (false, none, []) ∧
    (kFind (4 * 6) windows.share).map Share.bar = some true ∧ windows.bandAt < windows.clk / 2048 ∧ windows.dies.Nodup ∧ (windows.ctx 0).isSome = true ∧
    bitN ((windows.setReg 0 0x150 0x80010001).ctxD 0 |>.reg 0x150).toNat 31 = true := by decide +kernel

/-- The context in each state of pre-emption, with its one hand on core 0. -/
def preempting (p : PStat) : State := (mapped vals).modCtx 0 (fun x => { x with pstat := p })
def saveable : State := preempting .saving
def savedHand : Hand := { placedHand inClause with st := .swapped, lanes := [(0, laneAt vals 0)] }
def savedIn (q : Bool) : State :=
  let s := { preempting .restoring with cores := [], frames := if q then [(0x404000, { q := true })] else [] }
  (s.setReg 0 0x127 0x4040000000).modCtx 0 (fun x => { x with savesz := 1, saves := [{ core := c0, hands := [(0, savedHand)], slots := [], scr := [], scrPois := [], tal := [], talPois := [] }] })
theorem wit_PreemptionComplete : ((preempting .running).ctx 0).map (fun x => (x.state, x.pstat)) = some (1, .running) ∧
    ((preempting .saved).ctx 0).map (fun x => (x.state, x.pstat)) = some (1, .saved) ∧
    (saveable.ctx 0).map (fun x => (x.state, x.pstat, x.estateWaits)) = some (1, .saving, false) ∧ saveable.saveReady 0 = true ∧ (saveable.handsOf 0).Nodup ∧ saveable.handsOf 0 = [h0] ∧
    saveable.toPublish 0 = [] ∧ saveable.offIn (saveable.saveArea 0).1 (saveable.saveArea 0).2 = none := by decide +kernel
theorem wit_Preemption_restore :
    ((savedIn true).ctx 0).map (fun x => (x.state, x.pstat, x.saves.all ((savedIn true).coreFree 0))) = some (1, .restoring, true) ∧
    (savedIn true).areaBad ((savedIn true).saveArea 0).1 ((savedIn true).saveArea 0).2 = some 0 ∧
    ((savedIn false).ctx 0).map (fun x => (x.state, x.pstat, x.saves.all ((savedIn false).coreFree 0), x.saves.length)) = some (1, .restoring, true, 1) ∧
    (savedIn false).areaBad ((savedIn false).saveArea 0).1 ((savedIn false).saveArea 0).2 = none ∧ (savedIn false).ops.isEmpty = true ∧ (savedHand.lanes.map Prod.fst).Nodup := by decide +kernel
/-- The channel that holds the first line of its save area is offline. -/
def saveOff : State := { (saveable.setReg 0 0x127 0x4040000000).modCtx 0 (fun x => { x with savesz := 1 }) with offChans := [(saveable.home 0x4040000000).chan] }
theorem wit_Preemption_offline : (saveOff.ctx 0).map (fun x => (x.state, x.pstat, x.estateWaits)) = some (1, .saving, false) ∧ saveOff.saveReady 0 = true ∧
    saveOff.toPublish 0 = [] ∧ (saveOff.handsOf 0).Nodup ∧ (saveOff.offIn (saveOff.saveArea 0).1 (saveOff.saveArea 0).2).isSome = true := by decide +kernel
/-- No lane of the hand may be evicted. -/
theorem wit_Preemption_lanes (l : Nat) : saveable.mayEvict h0 l = false := by
  match l with
  | 0 => decide +kernel
  | 1 => decide +kernel
  | n + 2 =>
    have h : (saveable.hand h0).lane (n + 2) = {} := by
      have e : (saveable.hand h0).lanes = [(0, laneAt vals 0), (1, laneAt vals 1)] := by decide +kernel
      simp [Hand.lane, e, kGet, kFind]
    simp [State.mayEvict, State.lane, h]

/-! ### The host and the services of the device -/

/-- Host window 0 of function 1 opens on context 0 from address 0. -/
def windowed : State := { mapped vals with hwin := [(4, 2 ^ 63)] }
def hostWrite : HostReq := { req := 0, fn := 1, bar := 2, off := 0x48, len := 20, data := [some 7, none] ++ List.replicate 18 (some 7), ro := false }
def hostRead : HostReq := { hostWrite with data := [] }
/-- Eight bytes, the third not enabled. -/
def piece1 : Piece := { die := 0, va := 0x48, data := [some 1, some 2, none, some 4, some 5, some 6, some 7, some 8] }
def piece2 : Piece := { piece1 with die := 1, va := 0x50 }
def sent1 : Piece := { piece1 with ord := some 3 }
def tx (ps : List Piece) : HostTx := { ro := false, ctx := 0, pieces := ps }
def hosting (l : List HostTx) : State := { windowed with hosts := [(0, { live := l })], order := 4 }
theorem wit_HostRequests_write : hostWrite.data ≠ [] ∧ hostWrite.off % 4096 + hostWrite.data.length ≤ 4096 ∧ hostWrite.bar ≠ 0 ∧ (windowed.host 0).waiting = [] ∧
    (windowed.host 0).live = [] ∧ windowed.window 1 0x48 = some (0, 0x48) ∧ (mapped vals).window 1 0x48 = none ∧
    windowed.xlate 0 { rd := false, wr := true, pl := 2 } 0x48 = .hit 0x4040000048 0 0 30 := by decide +kernel
theorem wit_HostRequests_read : hostRead.data = [] ∧ hostRead.off % 4096 + hostRead.len ≤ 4096 ∧ ({ hostRead with bar := 0 } : HostReq).bar = 0 ∧ hostRead.bar ≠ 0 ∧
    windowed.xlate 0 { rd := true, wr := false, pl := 2 } 0x48 = .hit 0x4040000048 0 0 30 ∧
    (∀ l ∈ spanOf 64 0x4040000048 20, windowed.claimBars .mem { die := 0, core := 0 } l false = false) ∧
    (match (small vals).xlate 0 { rd := true, wr := false, pl := 2 } 0x48 with | .hit _ _ _ _ => false | _ => true) = true := by decide +kernel
theorem wit_HostRequests_send : ((hosting [tx [sent1, piece1]]).host 0).live = [tx [sent1, piece1]] ∧ (tx [sent1, piece1]).pieces = [sent1] ++ piece1 :: [] ∧ piece1.ord = none ∧
    (∀ b ∈ [sent1], b.ord.isSome = true ∧ (b.die = piece1.die ∨ b.acked = true)) ∧
    ((hosting [tx [sent1], tx [piece2]]).host 0).live = [tx [sent1], tx [piece2]] ∧ ((hosting [tx [sent1], tx [piece2]]).host 0).waiting = [] ∧ sent1.acked = false ∧
    piece2.die ≠ sent1.die ∧ ((hosting [tx [piece2], tx [sent1]]).host 0).live = [tx [piece2], tx [sent1]] ∧ (tx [piece2]).ro = false ∧ piece2.ord = none ∧
    sent1.ord.isSome = true := ⟨rfl, rfl, rfl, by decide, rfl, rfl, rfl, by decide, rfl, rfl, rfl, rfl⟩
theorem wit_HostRequests_apply : ((hosting [tx [sent1, piece1]]).host 0).live = [tx [sent1, piece1]] ∧ (tx [sent1, piece1]).pieces = [] ++ sent1 :: [piece1] ∧ sent1.die = 0 ∧
    sent1.ord.isSome = true ∧ sent1.applied = false ∧ (∀ b ∈ [piece1], b.die = 0 → b.ord = none) ∧ (hosting [tx [sent1, piece1]]).offChans = [] ∧
    (hosting [tx [sent1, piece1]]).piecePlace 0 sent1 = some (0x4040000048, 0, 30) ∧ (∃ b, some b ∈ sent1.data) ∧
    (hosting [tx [sent1, piece1]]).claimBars .mem { die := 0, core := 0 } (0x4040000048 / 64) true = false ∧
    ({ small vals with hosts := [(0, { live := [tx [sent1, piece1]] })] } : State).piecePlace 0 sent1 = none :=
  ⟨rfl, rfl, rfl, rfl, rfl, by decide, rfl, by decide +kernel, ⟨1, by decide⟩, by decide +kernel, by decide +kernel⟩
theorem wit_HostRequests_ack : ((hosting [tx [{ sent1 with applied := true }]]).host 0).live = [tx [{ sent1 with applied := true }]] ∧
    ((hosting [tx [{ sent1 with applied := true }]]).host 0).waiting = [] ∧ (tx [{ sent1 with applied := true }]).pieces ≠ [] ∧
    (∀ p ∈ (tx [{ sent1 with applied := true }]).pieces, p.die = 0 ∧ p.applied = true ∧ p.acked = false) := ⟨rfl, rfl, by simp [tx], by decide⟩

/-- A descriptor of context 5, on core 0 of die 0 with ten save units; and one of context 0, which is in use. -/
def descWords : List Nat := [5 * 2 ^ 56 + 2 * 2 ^ 54, 0, 0, 0, 10 * 2 ^ 52 + 0x4010000000, 1, 0, 0, 0, 0x4000000000]
def creating (c : Nat) : State := { mapped vals with mem := (List.range 10).foldl (fun m i => cellsWrite m (0x4040007000 + 8 * i)
  (bytesOf 8 (if i = 0 then c * 2 ^ 56 + 2 * 2 ^ 54 else descWords.getD i 0))) (placedTables []) }
theorem wit_ContextLife_create : (creating 5).power ≠ .recovery ∧ (kFind (1 - 1) (creating 5).parts).map (fun p => (p.valid, p.holds 0x4040007000 256)) = some (true, true) ∧
    kFind (3 - 1) (creating 5).parts = none ∧
    (creating 5).memPois 0x4040007000 256 = false ∧ (creating 5).createBad (1 - 1) (recWord ((creating 5).memRead 0x4040007000 256)) = 0 ∧
    ((creating 0).ctx (fld (recWord ((creating 0).memRead 0x4040007000 256) 0) 63 56)).isSome = true := by decide +kernel
/-- The context in a state of its life; as Stopping since clock 0 with an engine operation in flight. -/
def living (st : Nat) : State := { engState claimed with clk := 2048 }.modCtx 0 (fun x => { x with state := st, halt := if st = 1 then none else some { cause := 0, clk := 0 } })
theorem wit_ContextLifeComplete : ((living 1).ctx 0).map Ctx.state = some 1 ∧ ((living 2).ctx 0).map (fun x => (x.state, x.halt.isSome)) = some (2, true) ∧
    ((living 2).ctx 0).map (fun x => x.halt.map (fun h => decide (h.clk + 2048 ≤ (living 2).clk))) = some (some true) ∧
    (living 2).ops.any (fun e => decide (e.2.ctx = 0) && e.2.engCode.isSome) = true ∧ (living 2).settling 0 = false ∧ (living 2).pubWaits 0 = false ∧
    ((living 2).ctx 0).map Ctx.lineThere = some true ∧
    ((living 3).ctx 0).map (fun x => (x.state, x.scrub.isNone, x.prot)) = some (3, true, false) ∧
    (((living 3).modCtx 0 (fun x => { x with destroyDue := true })).ctx 0).map Ctx.destroyDue = some true ∧
    (((living 3).modCtx 0 (fun x => { x with scrub := some { cores := [], ops := [] } })).ctx 0).map (fun x => x.scrub.isSome) = some true := by decide +kernel

/-- An access of lane 0 parked in a replayable fault, whose page is mapped now. -/
def parkedLoad : Access := { kind := .load false, sc := false, addr := 0x40, len := 4, pol := .shared, dst := [5], pl := 2 }
def parkedLane : LaneOp := { lane := 0, kern := 0, item := 0, age := 1, st := .parked parkedLoad }
def parkedOp : Op := { h := h0, gen := 0, ctx := 0, kern := 0, major := 0x58, peg := none, kind := .access, lanes := [parkedLane] }
def parking : State := { mapped vals with ops := [(0, parkedOp)], nextOp := 1 }
/-- Lane 1 waits for the fetch of the word at 0x2000, whose page is mapped; or at 2^40, which no table maps. -/
def fetching (va : Nat) : State := handed (fun d => (d.modLane 1 (fun l => { l with st := .heldFault (.fetch va) })))
def hits (x : Xl) : Bool := match x with | .hit _ _ _ _ => true | _ => false
def misses (x : Xl) : Bool := match x with | .miss _ _ => true | _ => false
theorem wit_ReplayComplete : ((mapped vals).ctx 0).map (fun x => (x.state, x.waits.isEmpty, decide (x.pstat ≠ .saved))) = some (1, true, true) ∧ (mapped vals).ops.isEmpty = true ∧
    ((mapped vals).handsOf 0).all (fun h => ((mapped vals).hand h).fetches.isEmpty) = true ∧ parkedLoad.len ≤ 16 ∧ parkedOp.gen ≠ swappedGen ∧ parking.holds parkedOp parkedLane = true ∧ parkedLane.lane < 32 ∧
    (mapped vals).reqs.isEmpty = true ∧ parking.reqs.isEmpty = true ∧
    (parking.handsOf 0).all (fun h => (parking.hand h).fetches.isEmpty) = true ∧ hits ((parking.replayStart 0).translate h0 0 0 parkedLoad.need 0x40).1 = true ∧
    (fetching 0x2000).handsOf 0 = [h0] ∧ ((fetching 0x2000).hand h0).fetches = [(0x2000, 0)] ∧
    hits (((fetching 0x2000).replayStart 0).translate h0 0 0 { rd := true, wr := false, pl := 2 } 0x2000).1 = true ∧
    ((fetching (2 ^ 40)).hand h0).fetches = [(2 ^ 40, 0)] ∧
    misses (((fetching (2 ^ 40)).replayStart 0).translate h0 0 0 { rd := true, wr := false, pl := 2 } (2 ^ 40)).1 = true := by decide +kernel

/-- Lane 0 waits for a wait record at slice 3 of die 1. -/
def recWaiting : State := (mapped vals).modHand h0 (fun d => d.modLane 0 (fun l => { l with st := .heldFault (.waitRecord 1 3 9) }))
theorem wit_DeviceServicesComplete : ((mapped vals).ctx 0).map (fun x => x.part) = some (1 - 1) ∧ (mapped vals).power = .running ∧ (mapped vals).hostClear 5 = true ∧ bar0Reg (0x1000 + 8 * 0x120) = true ∧
    plainPrn ((0x1000 + 8 * 0x120 - 0x1000) / 8) = true ∧ (0x1000 + 8 * 0x120 - 0x1000) / 8 ≠ 0x130 ∧
    recWaiting.handList = [h0] ∧ (recWaiting.lane h0 0).st = .heldFault (.waitRecord 1 3 9) ∧ recWaiting.runs (recWaiting.hand h0).ctx = true ∧
    (∀ j, j < 32 → j ≠ 0 → (match (recWaiting.lane h0 j).st with | .heldFault _ => true | _ => false) = false) ∧ recWaiting.waitCount 1 3 < 2048 ∧
    ((beside true 2).ctx 1).map Ctx.prot = some true ∧ (kFind 0 (mapped vals).parts).map (fun p => (p.valid, bitN p.ports 2)) = some (true, true) ∧ (mapped vals).parts.map Prod.fst = [0] ∧
    (mapped vals).badPorts.contains 2 = false := by decide +kernel

/-! ### Errors and resets -/

/-- Lane 0 unsealed with a cut that keeps v4 and v5; lane 1 sealed; their table on the core. -/
def cutting : State := (small vals).modHand h0 (fun d => d.modLane 0 (fun l => { l with isSealed := false, cut := some { pos := Pos.at_ 0x1000, ranges := [{ start := 4, len := 2 }] } }))
theorem wit_ErrorsComplete : ((cutting.lane h0 0).item.isSome, (cutting.lane h0 0).isSealed, (cutting.lane h0 0).cut.isSome) = (true, false, true) ∧
    ((cutting.lane h0 1).item.map Item.table, (cutting.lane h0 1).isSealed) = (some 0, true) ∧
    (kFind 0 (cutting.kernD (cutting.hand h0).ctx 0).tables).map (fun t => decide (coreKey t.core = coreKey h0.cr)) = some true ∧ (cutting.core c0).offline = false ∧
    cutting.saving (cutting.hand h0).ctx = false ∧ (cutting.lane h0 0).st = .active 0 ∧ (cutting.lane h0 1).st = .active 0 := by decide +kernel
/-- Lane 0 Pinned with an estate of item 32, whose table has ended; a held lane; and a context that is being saved. -/
def pinnedLane : State := (small vals).modHand h0 (fun d => d.modLane 0 (fun _ => { st := .pinned, estate := some { ident := 7, deck := 0, self := false, start := 4, data := [], item := 32, kern := 0, sealClk := 0 } }))
def savingCtx : State := (small vals).modCtx 0 (fun x => { x with pstat := .saving })
theorem wit_Errors_pinned : (pinnedLane.lane h0 0).st = .pinned ∧ (pinnedLane.lane h0 0).item = none ∧ (pinnedLane.lane h0 0).estate.map (fun e => (e.item, e.kern)) = some (32, 0) ∧
    pinnedLane.saving (pinnedLane.hand h0).ctx = false ∧ (kFind 1 (pinnedLane.kernD 0 0).tables).isNone = true ∧ (pinnedLane.kernD 0 0).lrec.fan1 = 32 ∧
    (recWaiting.lane h0 0).st ≠ .pinned ∧ (∀ n, n < 4 → (recWaiting.lane h0 0).st ≠ .active n) := by decide +kernel
theorem wit_Errors_saving : (savingCtx.ctx 0).map Ctx.state = some 1 ∧ savingCtx.saving (savingCtx.hand h0).ctx = true ∧ savingCtx.saveReads h0 1 (.v 4) = true ∧
    (savingCtx.hand h0).st ≠ .unformed := by decide +kernel
theorem wit_Errors_kept : (cutting.lane h0 0).cut.map (fun c => c.keeps (.v 4)) = some true ∧ (cutting.lane h0 0).item.map Item.table = some 0 := by decide +kernel
theorem wit_Errors_range : ∀ n, RegSite.v 6 = .v n → ∀ g ∈ [({ start := 4, len := 2 } : Rng)], ¬(g.start ≤ n ∧ n < g.start + g.len) := by
  intro n h g hg
  cases h
  simp at hg
  subst hg
  decide
/-- Only lane 0 holds an item. -/
def alone : State := (small vals).modHand h0 (fun d => { d with lanes := [(0, laneAt vals 0)] })
theorem wit_Errors_hand : (alone.lane h0 0).item.map Item.table = some 0 ∧ ∀ j, j < 32 → j ≠ 0 → (alone.lane h0 j).item.isNone = true ∧ (alone.lane h0 j).estate.isNone = true := by decide +kernel
def copied : State := { (mapped vals).modCore c0 (fun c => { c with l1 := [(5, { data := 0, wts := 0, rts := 0, pois := 0 })] }) with
  replicas := [(replicaKey 1 5, { data := 0, wts := 0, rts := 0, pois := 0 })], slices := [(5, { dirty := [(2, 0)] })] }
theorem wit_Errors_caches : (copied.core c0).cbuf.isEmpty = true ∧ (kFind 5 (copied.core c0).l1).isSome = true ∧ (kFind (replicaKey 1 5) copied.replicas).isSome = true ∧
    (kFind 5 copied.slices).map (fun e => (kFind 2 e.dirty, kFind 1 e.dirty)) = some (some 0, none) := by decide +kernel
/-- The device as the recovery image runs it, with an image that the fuses do not bar. -/
def recovering : State := { State.reset with power := .recovery, flash := { State.reset.flash with rollback := 3 } }
theorem wit_ResetsComplete : ({ State.reset with power := .held } : State).power = .held ∧ State.reset.power ≠ .off ∧ recovering.power ≠ .off ∧ recovering.power ≠ .held ∧ recovering.flash.primary.readable = true ∧
    recovering.flash.rollback ≤ ({ recovering.flash.primary with version := 3 } : FwImage).version ∧
    ({ recovering.flash.primary with version := 2 } : FwImage).version < recovering.flash.rollback := by decide +kernel
/-- An image whose bytes are not there, and a boot that finds no unit failing. -/
theorem wit_Resets_refused : ({ State.reset.flash.primary with readable := false } : FwImage).readable = false ∧ ({ recovering.flash with request := true }.refused false) = some 5 ∧
    (selfTest []).unusable = false := by decide +kernel

end Sys2Proof.Tests
end

/-! 64-bit forms and instructions that write or read predicates (08 R187, R190; O11): the integers of operands as words, elements
of a packed word, and what each instruction gives a lane. -/

namespace Sys2Proof.Machine

/-! ## Numbers of the integer instructions as words (05 R108, 08 R185) -/

/-- An integer taken modulo 2^w is a word. -/
theorem ofNat_wrapNat (w : Nat) (e : Int) : BitVec.ofNat w (wrapNat w e) = BitVec.ofInt w e := by
  apply BitVec.eq_of_toNat_eq
  rw [BitVec.toNat_ofNat, Nat.mod_eq_of_lt (wrapNat_lt w e), BitVec.toNat_ofInt]
  rfl

/-- Sign extension of a word's number is the word read in two's complement. -/
theorem sext_toNat {w : Nat} (hw : 0 < w) (x : BitVec w) : sext w x.toNat = x.toInt := by
  obtain ⟨n, rfl⟩ : ∃ n, w = n + 1 := ⟨w - 1, by omega⟩
  have hx := x.isLt
  have hdiv : x.toNat / 2 ^ n = 1 ↔ ¬2 * x.toNat < 2 ^ (n + 1) := by
    rw [Nat.div_eq_iff (Nat.two_pow_pos n)]
    omega
  unfold sext
  rw [BitVec.toInt_eq_toNat_cond, Nat.mod_eq_of_lt hx]
  simp only [Nat.add_sub_cancel, hdiv]
  exact ite_not ..

/-- Clamping by comparisons is the nearest integer within the bounds. -/
theorem ite_bounds_eq_max_min {lo hi : Int} (h : lo ≤ hi) (e : Int) :
    (if e < lo then lo else if hi < e then hi else e) = max lo (min e hi) := by
  split
  · omega
  · split <;> omega

theorem cast_two_pow_sub_one (n : Nat) : ((2 ^ n - 1 : Nat) : Int) = 2 ^ n - 1 := by
  rw [Int.natCast_sub Nat.one_le_two_pow, Int.natCast_pow]
  rfl

theorem clampTo_eq_clampInt (w : Nat) (sgn : Bool) (e : Int) : clampTo w sgn e = clampInt w sgn e := by
  refine (ite_bounds_eq_max_min ?_ e).trans ?_
  · cases sgn with
    | false => exact Int.natCast_nonneg _
    | true => exact Int.le_trans (Int.neg_nonpos_of_nonneg (Int.natCast_nonneg _)) (Int.natCast_nonneg _)
  · unfold clampInt
    rw [cast_two_pow_sub_one, cast_two_pow_sub_one, Int.natCast_pow]
    cases sgn <;> rfl

/-! ## 64-bit numbers (08 R187) -/

/-- An integer operand read by signedness is its word's integer. -/
theorem ext_toNat {w : Nat} (hw : 0 < w) (sgn : Bool) (x : BitVec w) : ext w sgn x.toNat = intOf sgn x := by
  cases sgn
  · rfl
  · exact sext_toNat hw x

theorem Iss.ext_val32 (x : Iss) (l : Nat) (sgn : Bool) (a : Src) : ext 32 sgn (x.val .w32 l a) = intOf sgn (x.w32 l a) := by
  rw [← Iss.w32_toNat, ext_toNat (by decide)]

theorem Iss.ext_val64 (x : Iss) (l : Nat) (sgn : Bool) (a : Src) : ext 64 sgn (x.val .w64 l a) = intOf sgn (x.w64 l a) := by
  rw [← Iss.w64_toNat, ext_toNat (by decide)]

theorem ofNat_wide (sgn sat : Bool) (e : Int) : BitVec.ofNat 64 (wide sgn sat e) = wide64 sgn sat e := by
  unfold wide wide64
  rw [ofNat_wrapNat, clampTo_eq_clampInt]

/-- A 64-bit sum of unsigned integers, wrapped, is the sum of the words. -/
theorem wide64_add (x y : W64) : wide64 false false (intOf false x + intOf false y) = x + y := by
  simp [wide64, intOf, BitVec.ofInt_add]

/-! ## Packed elements (08 R185) -/

/-- The number whose w-bit digits, lowest first, are the first n values of d. -/
def digitSum (w : Nat) (d : Nat → Nat) : Nat → Nat
  | 0 => 0
  | n + 1 => digitSum w d n + d n * 2 ^ (w * n)

theorem digitSum_lt {w : Nat} {d : Nat → Nat} (hd : ∀ j, d j < 2 ^ w) (n : Nat) : digitSum w d n < 2 ^ (w * n) := by
  induction n with
  | zero => simp [digitSum]
  | succ n ih =>
    calc digitSum w d n + d n * 2 ^ (w * n) < (d n + 1) * 2 ^ (w * n) := by rw [Nat.succ_mul]; omega
      _ ≤ 2 ^ w * 2 ^ (w * n) := Nat.mul_le_mul_right _ (hd n)
      _ = 2 ^ (w * (n + 1)) := by rw [← Nat.pow_add, Nat.mul_succ, Nat.add_comm]

theorem digitSum_digit {w : Nat} {d : Nat → Nat} (hd : ∀ j, d j < 2 ^ w) (n : Nat) {j : Nat} (hj : j < n) :
    digitSum w d n / 2 ^ (w * j) % 2 ^ w = d j := by
  induction n with
  | zero => exact absurd hj (Nat.not_lt_zero j)
  | succ n ih =>
    rw [digitSum]
    rcases Nat.lt_succ_iff_lt_or_eq.mp hj with h | rfl
    · obtain ⟨k, rfl⟩ : ∃ k, n = j + 1 + k := ⟨n - (j + 1), by omega⟩
      have hsplit : d (j + 1 + k) * 2 ^ (w * (j + 1 + k)) = 2 ^ (w * j) * (2 ^ w * (d (j + 1 + k) * 2 ^ (w * k))) := by
        rw [Nat.mul_add, Nat.mul_succ, Nat.pow_add, Nat.pow_add]
        ac_rfl
      rw [hsplit, Nat.add_mul_div_left _ _ (Nat.two_pow_pos _), Nat.add_mul_mod_self_left, ih h]
    · rw [Nat.add_mul_div_right _ _ (Nat.two_pow_pos _), Nat.div_eq_of_lt (digitSum_lt hd j), Nat.zero_add,
        Nat.mod_eq_of_lt (hd j)]

theorem foldl_digits (w : Nat) (d : Nat → Nat) (n : Nat) :
    ((List.range n).map (fun j => d j * 2 ^ (w * j))).foldl (· + ·) 0 = digitSum w d n := by
  induction n with
  | zero => rfl
  | succ n ih => rw [List.range_succ, List.map_append, List.foldl_append, ih]; rfl

theorem ofElems_eq_digitSum (w : Nat) (f : Nat → Int) : ofElems w f = digitSum w (fun j => wrapNat w (f j)) (32 / w) :=
  foldl_digits w _ _

theorem isizeBits_pos (z : ISize) : 0 < isizeBits z := by cases z <;> decide

theorem isizeBits_mul_div (z : ISize) : isizeBits z * (32 / isizeBits z) = 32 := by cases z <;> rfl

theorem ofElems_lt (z : ISize) (f : Nat → Int) : ofElems (isizeBits z) f < 2 ^ 32 := by
  rw [ofElems_eq_digitSum]
  exact Nat.lt_of_lt_of_eq (digitSum_lt (fun _ => wrapNat_lt _ _) _) (congrArg (2 ^ ·) (isizeBits_mul_div z))

theorem toNat_elemAt (w : Nat) (x : W32) (j : Nat) : (elemAt w x j).toNat = x.toNat / 2 ^ (w * j) % 2 ^ w := by
  unfold elemAt
  rw [BitVec.extractLsb'_toNat, Nat.shiftRight_eq_div_pow]

/-- An element of a word built from its elements. -/
theorem elemAt_ofElems (z : ISize) (f : Nat → Int) {j : Nat} (hj : j < 32 / isizeBits z) :
    elemAt (isizeBits z) (BitVec.ofNat 32 (ofElems (isizeBits z) f)) j = BitVec.ofInt (isizeBits z) (f j) := by
  apply BitVec.eq_of_toNat_eq
  rw [toNat_elemAt, BitVec.toNat_ofNat, Nat.mod_eq_of_lt (ofElems_lt z f), ofElems_eq_digitSum,
    digitSum_digit (fun _ => wrapNat_lt _ _) _ hj, BitVec.toNat_ofInt]
  rfl

theorem elemOf_toNat {w : Nat} (hw : 0 < w) (sgn : Bool) (x : W32) (j : Nat) :
    elemOf w sgn j x.toNat = elemInt sgn (elemAt w x j) := by
  unfold elemOf elemInt
  rw [← toNat_elemAt]
  simp only [sext_toNat hw]

theorem Iss.packed_toNat (x : Iss) (z : ISize) (l : Nat) (a : Src) : (x.packed z l a).toNat = x.val (.packed z) l a := by
  unfold Iss.packed
  rw [BitVec.toNat_ofNat, Nat.mod_eq_of_lt (Iss.val_lt x (.packed z) (by simp) l a)]

theorem Iss.elemOf_val (x : Iss) (z : ISize) (sgn : Bool) (l : Nat) (a : Src) (j : Nat) :
    elemOf (isizeBits z) sgn j (x.val (.packed z) l a) = elemInt sgn (elemAt (isizeBits z) (x.packed z l a) j) := by
  rw [← Iss.packed_toNat, elemOf_toNat (isizeBits_pos z)]

/-- Poison does not depend on how a 32-bit operand is read. -/
theorem Iss.pois_packed (x : Iss) (z : ISize) (l : Nat) (a : Src) : x.pois (.packed z) l a = x.pois .w32 l a := by
  cases a <;> rfl

/-! ## What instructions that compute lane by lane give -/

/-- An instruction that gives each lane an outcome, which names no register and no predicate twice. -/
theorem gives_of_useOf {i : Instr} {g : Grd} {major dn : Nat} {d : Dst} {srcs : List (Nat × Src)} {F : Iss → Nat → LaneOut}
    {f : Iss → Nat → Gift} (hx : ∀ s, exec i s = lanewise (useOf g major dn d srcs) s F) (ho : ∀ x l, (F x l).once)
    (hf : ∀ x l, (F x l).gift = f x l) : Gives i g (namesOf dn d srcs) (windowsOf dn d srcs) f :=
  gives_of_lanewise i _ _ f (useOf g major dn d srcs) F hx (useOf_plain ..) (fun _ h => h) (fun _ h => h) ho hf

theorem out32_preds_once (d : Dst) (v : Nat) (p : Bool) (pr : List (Nat × Bool × Bool)) (h : (pr.map Prod.fst).Nodup) :
    ({ out32 d v p with pr := pr } : LaneOut).once := ⟨(out32_once d v p).1, h⟩

theorem out32_preds_gift (d : Dst) (v : Nat) (p : Bool) (pr : List (Nat × Bool × Bool)) :
    ({ out32 d v p with pr := pr } : LaneOut).gift = { gift32 d (BitVec.ofNat 32 v) p with preds := pr } := by
  rw [← out32_gift]
  rfl

theorem Iss.anyPois_two (x : Iss) (l : Nat) (a b : Src) : x.anyPois l [a, b] = (x.pois .w32 l a || x.pois .w32 l b) := by
  simp [Iss.anyPois]

theorem Iss.anyPois_three (x : Iss) (l : Nat) (a b c : Src) :
    x.anyPois l [a, b, c] = (x.pois .w32 l a || x.pois .w32 l b || x.pois .w32 l c) := by
  simp [Iss.anyPois, Bool.or_assoc]

theorem nodup_predIf (pen : Bool) (q : Nat × Bool × Bool) : ((if pen then [q] else []).map Prod.fst).Nodup := by
  cases pen <;> simp

/-! ## 64-bit forms and carries (08 R187) -/

/-- The sum word of an addition with carry. -/
theorem ofNat_addCarry (a b c : Nat) : BitVec.ofNat 32 (addCarry a b c).1 = BitVec.ofNat 32 (a + b + c) := by
  apply BitVec.eq_of_toNat_eq
  simp [addCarry]

theorem addCarry_snd (a b c : Nat) : (addCarry a b c).2 = decide (2 ^ 32 ≤ a + b + c) := rfl

theorem exec_iaddc (g : Grd) (pen : Bool) (pd : Nat) (d : Dst) (a b c : Src) (s : State) :
    exec (.iaddc g pen pd d a b c) s = execIaddc g pen pd d a b c s := rfl

theorem iaddc_gives (g : Grd) (pen : Bool) (pd : Nat) (d : Dst) (a b c : Src) :
    Gives (.iaddc g pen pd d a b c) g (namesOf 1 d [(1, a), (1, b), (1, c)]) (windowsOf 1 d [(1, a), (1, b), (1, c)]) (fun x l =>
      let sum := (x.w32 l a).toNat + (x.w32 l b).toNat + (x.w32 l c).toNat % 2
      let p := x.anyPois l [a, b, c]
      { gift32 d (BitVec.ofNat 32 sum) p with preds := if pen then [(pd, decide (2 ^ 32 ≤ sum), p)] else [] }) := by
  refine gives_of_useOf (exec_iaddc g pen pd d a b c) (fun _ _ => ?_) (fun x l => ?_)
  · exact out32_preds_once d _ _ _ (nodup_predIf pen _)
  · simp only [out32_preds_gift, ofNat_addCarry, addCarry_snd, Iss.w32_toNat, Iss.anyPois_three]

theorem exec_imadw (g : Grd) (sgn sat : Bool) (d : Dst) (a b c : Src) (s : State) :
    exec (.imadw g sgn sat d a b c) s = execImadw g sgn sat d a b c s := rfl

theorem imadw_gives (g : Grd) (sgn sat : Bool) (d : Dst) (a b c : Src) :
    Gives (.imadw g sgn sat d a b c) g (namesOf 2 d [(1, a), (1, b), (2, c)]) (windowsOf 2 d [(1, a), (1, b), (2, c)]) (fun x l =>
      gift64 d (wide64 sgn sat (intOf sgn (x.w32 l a) * intOf sgn (x.w32 l b) + intOf sgn (x.w64 l c)))
        (x.pois .w32 l a || x.pois .w32 l b || x.pois .w64 l c)) := by
  refine gives_of_useOf (exec_imadw g sgn sat d a b c) (fun _ _ => ?_) (fun x l => ?_)
  · exact out64_once d _ _
  · rw [out64_gift, ofNat_wide, Iss.ext_val32, Iss.ext_val32, Iss.ext_val64]

theorem exec_lea (g : Grd) (sgn : Bool) (sh : Nat) (d : Dst) (a b : Src) (s : State) :
    exec (.lea g sgn sh d a b) s = execLea g sgn sh d a b s := rfl

theorem lea_gives (g : Grd) (sgn : Bool) (sh : Nat) (d : Dst) (a b : Src) :
    Gives (.lea g sgn sh d a b) g (namesOf 2 d [(2, a), (1, b)]) (windowsOf 2 d [(2, a), (1, b)]) (fun x l =>
      gift64 d (BitVec.ofInt 64 ((x.w64 l a).toNat + intOf sgn (x.w32 l b) * 2 ^ sh)) (x.pois .w64 l a || x.pois .w32 l b)) := by
  refine gives_of_useOf (exec_lea g sgn sh d a b) (fun _ _ => ?_) (fun x l => ?_)
  · exact out64_once d _ _
  · rw [out64_gift, ofNat_wrapNat, Iss.ext_val32, Iss.w64_toNat, Int.natCast_pow]
    rfl

/-- An instruction whose meaning is the 64-bit sum gives it, wrapped or clamped. -/
theorem add64Op_gives {i : Instr} {g : Grd} {sgn sat : Bool} {d : Dst} {a b : Src}
    (hx : ∀ s, exec i s = add64Op g sgn sat d a b s) :
    Gives i g (namesOf 2 d [(2, a), (2, b)]) (windowsOf 2 d [(2, a), (2, b)]) (fun x l =>
      gift64 d (wide64 sgn sat (intOf sgn (x.w64 l a) + intOf sgn (x.w64 l b))) (x.pois .w64 l a || x.pois .w64 l b)) := by
  refine gives_of_useOf hx (fun _ _ => ?_) (fun x l => ?_)
  · exact out64_once d _ _
  · rw [out64_gift, ofNat_wide, Iss.ext_val64, Iss.ext_val64]

theorem exec_iadd64Ext (g : Grd) (sgn sat : Bool) (d : Dst) (a b : Src) (s : State) :
    exec (.iadd64Ext g sgn sat d a b) s = add64Op g sgn sat d a b s := rfl

/-- The base form wraps an unsigned sum (06 R135). -/
theorem exec_iadd64 (d : Dst) (a b : Src) (s : State) :
    exec (.iadd64 d a b) s = add64Op Grd.always false false d a b s := rfl

theorem iadd64_gives (d : Dst) (a b : Src) :
    Gives (.iadd64 d a b) Grd.always (namesOf 2 d [(2, a), (2, b)]) (windowsOf 2 d [(2, a), (2, b)]) (fun x l =>
      gift64 d (x.w64 l a + x.w64 l b) (x.pois .w64 l a || x.pois .w64 l b)) := by
  simpa only [wide64_add] using add64Op_gives (exec_iadd64 d a b)

/-! ## Comparisons and predicates (08 R190) -/

theorem icHolds_iff (cc : ICc) (x y : Int) : icHolds cc x y = true ↔ cmpHolds cc x y := by
  cases cc <;> simp [icHolds, cmpHolds]

theorem ofNat_two_pow_sub_one (w : Nat) : BitVec.ofNat w (2 ^ w - 1) = BitVec.allOnes w := by
  apply BitVec.eq_of_toNat_eq
  rw [BitVec.toNat_ofNat, BitVec.toNat_allOnes, Nat.mod_eq_of_lt (Nat.sub_lt (Nat.two_pow_pos w) Nat.one_pos)]

/-- The word of a comparison, element by element (08 R190). -/
theorem elemAt_isetVal (ty : ITy) (cc : ICc) (a b : Nat) {j : Nat} (hj : j < 32 / isizeBits ty.size) :
    elemAt (isizeBits ty.size) (BitVec.ofNat 32 (isetVal ty cc a b)) j =
      if icHolds cc (elemOf (isizeBits ty.size) ty.sgn j a) (elemOf (isizeBits ty.size) ty.sgn j b) then BitVec.allOnes _ else 0 := by
  unfold isetVal
  rw [elemAt_ofElems ty.size _ hj]
  split
  · rw [BitVec.ofInt_natCast, ofNat_two_pow_sub_one]
  · rfl

theorem ofNat_isetVal_ne_zero (ty : ITy) (cc : ICc) (a b : Nat) : BitVec.ofNat 32 (isetVal ty cc a b) ≠ 0 ↔ isetVal ty cc a b ≠ 0 := by
  have h : isetVal ty cc a b < 2 ^ 32 := ofElems_lt ty.size _
  rw [Ne, ← BitVec.toNat_inj, BitVec.toNat_ofNat, Nat.mod_eq_of_lt h]
  rfl

/-- The word that ISET gives a lane. -/
def Iss.isetWord (x : Iss) (l : Nat) (ty : ITy) (cc : ICc) (a b : Src) : W32 :=
  BitVec.ofNat 32 (isetVal ty cc (x.val (.packed ty.size) l a) (x.val (.packed ty.size) l b))

theorem Iss.elemAt_isetWord (x : Iss) (l : Nat) (ty : ITy) (cc : ICc) (a b : Src) {j : Nat} (hj : j < 32 / isizeBits ty.size) :
    let holds := cmpHolds cc (elemInt ty.sgn (elemAt (isizeBits ty.size) (x.packed ty.size l a) j))
      (elemInt ty.sgn (elemAt (isizeBits ty.size) (x.packed ty.size l b) j))
    let e := elemAt (isizeBits ty.size) (x.isetWord l ty cc a b) j
    (holds ∧ e = BitVec.allOnes _) ∨ (¬holds ∧ e = 0) := by
  have he := elemAt_isetVal ty cc (x.val (.packed ty.size) l a) (x.val (.packed ty.size) l b) hj
  rw [Iss.elemOf_val, Iss.elemOf_val] at he
  intro holds e
  by_cases h : holds
  · exact .inl ⟨h, he.trans (if_pos ((icHolds_iff ..).mpr h))⟩
  · exact .inr ⟨h, he.trans (if_neg (mt (icHolds_iff ..).mp h))⟩

theorem exec_iset (g : Grd) (ty : ITy) (cc : ICc) (pen : Bool) (pd : Nat) (d : Dst) (a b : Src) (s : State) :
    exec (.iset g ty cc pen pd d a b) s = execIset g ty cc pen pd d a b s := rfl

theorem iset_gives (g : Grd) (ty : ITy) (cc : ICc) (pen : Bool) (pd : Nat) (d : Dst) (a b : Src) :
    Gives (.iset g ty cc pen pd d a b) g (namesOf 1 d [(1, a), (1, b)]) (windowsOf 1 d [(1, a), (1, b)]) (fun x l =>
      { gift32 d (x.isetWord l ty cc a b) (x.anyPois l [a, b]) with
        preds := if pen then [(pd, decide (x.isetWord l ty cc a b ≠ 0), x.anyPois l [a, b])] else [] }) := by
  refine gives_of_useOf (exec_iset g ty cc pen pd d a b) (fun _ _ => ?_) (fun x l => ?_)
  · exact out32_preds_once d _ _ _ (nodup_predIf pen _)
  · simp only [out32_preds_gift, Iss.pois_packed, Iss.anyPois_two, Iss.isetWord, ofNat_isetVal_ne_zero]

theorem bitN_toNat {w : Nat} (x : BitVec w) (i : Nat) : bitN x.toNat i = x.getLsbD i := by
  rw [BitVec.getLsbD, Nat.testBit_eq_decide_div_mod_eq]
  rfl

/-- What one operand adds to the number of the table's bit. -/
theorem Iss.val_ne_zero_ite (x : Iss) (l : Nat) (a : Src) (n : Nat) :
    (if x.val .w32 l a ≠ 0 then n else 0) = if x.w32 l a = 0 then 0 else n := by
  rw [← Iss.w32_toNat, ite_not]
  simp only [← BitVec.toNat_inj]
  rfl

theorem ofNat_toNat_bool (b : Bool) : BitVec.ofNat 32 b.toNat = if b then 1 else 0 := by
  cases b <;> rfl

theorem exec_pset (g : Grd) (pd : Nat) (lut : Byte) (d : Dst) (a b c : Src) (s : State) :
    exec (.pset g pd lut d a b c) s = execPset g pd lut d a b c s := rfl

theorem pset_gives (g : Grd) (pd : Nat) (lut : Byte) (d : Dst) (a b c : Src) :
    Gives (.pset g pd lut d a b c) g (namesOf 1 d [(1, a), (1, b), (1, c)]) (windowsOf 1 d [(1, a), (1, b), (1, c)]) (fun x l =>
      let bit := lut.getLsbD ((if x.w32 l a = 0 then 0 else 4) + (if x.w32 l b = 0 then 0 else 2) + (if x.w32 l c = 0 then 0 else 1))
      { gift32 d (if bit then 1 else 0) (x.anyPois l [a, b, c]) with preds := [(pd, bit, x.anyPois l [a, b, c])] }) := by
  refine gives_of_useOf (exec_pset g pd lut d a b c) (fun _ _ => ?_) (fun x l => ?_)
  · exact out32_preds_once d _ _ _ (List.nodup_cons.mpr ⟨List.not_mem_nil, List.nodup_nil⟩)
  · simp only [out32_preds_gift, Iss.val_ne_zero_ite, bitN_toNat, ofNat_toNat_bool, Iss.anyPois_three]

/-- Settles O11, each instruction by what its outcome in one lane gives (08 R187, R190). -/
theorem predicateAndWideInstructionsComplete : Obligations.PredicateAndWideInstructionsComplete :=
  ⟨⟨iaddc_gives, imadw_gives, lea_gives, iadd64_gives,
      fun g sgn sat d a b => add64Op_gives (exec_iadd64Ext g sgn sat d a b)⟩,
    fun g ty cc pen pd d a b _ => ⟨fun x l => x.isetWord l ty cc a b, fun x l _ hj => x.elemAt_isetWord l ty cc a b hj,
      iset_gives g ty cc pen pd d a b⟩,
    pset_gives⟩

end Sys2Proof.Machine

/-! Picks, comparisons and classes of floating-point numbers (09 R198 to R200, R203; O15): the model's own functions of values and
codes as the functions that the obligation states them by, and what each instruction gives a lane. -/

namespace Sys2Proof.Machine

/-! ## Lesser and greater number (09 R198) -/

/-- The pick of a number, by whether the first operand is the lesser. -/
theorem ite_beq_eq_pick (below mx : Bool) (a b : Nat) :
    (if below = mx then b else a) = if below then (if mx then b else a) else (if mx then a else b) := by
  cases below <;> cases mx <;> rfl

theorem FFmt.minMax_eq_numPick (f : FFmt) (mx : Bool) (a b : Nat) : f.minMax mx a b = numPick f mx a b := by
  unfold FFmt.minMax numPick
  dsimp only
  cases (f.value a).isNan <;> cases (f.value b).isNan
  case false.false => exact ite_beq_eq_pick _ mx a b
  all_goals rfl

@[simp] theorem FFmt.flush_false (f : FFmt) (c : Nat) : f.flush false c = c := rfl

/-- An instruction whose meaning is the pick of two FP32 codes gives it, neither rounded nor flushed (09 R198). -/
theorem pick_gives {i : Instr} {g : Grd} {mx : Bool} {d : Dst} {a b : Src}
    (hx : ∀ s, exec i s = fpFun g 0x32 false (f32.minMax mx) d a b s) :
    Gives i g (namesOf 1 d [(1, a), (1, b)]) (windowsOf 1 d [(1, a), (1, b)]) (fun x l =>
      gift32 d (BitVec.ofNat 32 (numPick f32 mx (f32.flush (modeDaz x.mode) (x.w32 l a).toNat)
        (f32.flush (modeDaz x.mode) (x.w32 l b).toNat))) (x.anyPois l [a, b])) := by
  refine gives_of_useOf hx (fun _ _ => ?_) (fun x l => ?_)
  · exact out32_once d _ _
  · rw [out32_gift, Bool.false_and, FFmt.flush_false, FFmt.minMax_eq_numPick, Iss.w32_toNat, Iss.w32_toNat, Iss.anyPois_two]

/-- The instructions of `pickFun` mean the pick of two FP32 codes. -/
theorem exec_of_pickFun {i : Instr} {g : Grd} {mx : Bool} {d : Dst} {a b : Src} (h : pickFun i = some (g, mx, d, a, b)) (s : State) :
    exec i s = fpFun g 0x32 false (f32.minMax mx) d a b s := by
  unfold pickFun at h
  split at h <;> cases h <;> rfl

/-- An instruction whose meaning is the pick of each of two elements gives the pair of picks (09 R203). -/
theorem pick2_gives {i : Instr} {g : Grd} {bf mx : Bool} {d : Dst} {a b : Src} (hx : ∀ s, exec i s = pairMinMax g bf mx d a b s) :
    Gives i g (namesOf 1 d [(1, a), (1, b)]) (windowsOf 1 d [(1, a), (1, b)]) (fun x l =>
      let t := if bf then bf16 else f16
      let arg (j : Nat) (y : Src) : Nat := t.flush (modeDaz x.mode) (elem16 j (x.val (.half bf) l y))
      gift32 d (pair16 (numPick t mx (arg 0 a) (arg 0 b)) (numPick t mx (arg 1 a) (arg 1 b)))
        (x.pois (.half bf) l a || x.pois (.half bf) l b)) := by
  refine gives_of_useOf hx (fun _ _ => ?_) (fun x l => ?_)
  · exact out32_once d _ _
  · simp only [out32_gift, FFmt.minMax_eq_numPick, Nat.mul_comm _ 65536]
    rfl

/-- The instructions of `pick2Fun` mean the pick of each of two elements. -/
theorem exec_of_pick2Fun {i : Instr} {g : Grd} {bf mx : Bool} {d : Dst} {a b : Src} (h : pick2Fun i = some (g, bf, mx, d, a, b))
    (s : State) : exec i s = pairMinMax g bf mx d a b s := by
  unfold pick2Fun at h
  split at h <;> cases h <;> rfl

/-! ## Comparisons (09 R199) -/

/-- Of two values at most one is less than the other. -/
theorem FV.lt_asymm : ∀ {a b : FV}, FV.lt a b = true → FV.lt b a = false
  | .inf s, .inf t, h => by
    obtain ⟨hs, -⟩ := (Bool.and_eq_true ..).mp h
    rw [hs]
    exact Bool.and_false t
  | .inf _, .fin _ _ _, h => congrArg (!·) h
  | .fin _ _ _, .inf t, h => (Bool.not_eq_true' t).mp h
  | .fin _ _ _, .fin _ _ _, h => decide_eq_false (Int.lt_asymm (of_decide_eq_true h))
  | _, .nan, _ => rfl

/-- Of two numbers, the second is not less just where the first is less or they are equal. -/
theorem FV.not_lt_eq_lt_or_eq {a b : FV} (ha : a.isNan = false) (hb : b.isNan = false) :
    (!FV.lt b a) = (FV.lt a b || FV.eq a b) := by
  unfold FV.eq
  rw [ha, hb]
  cases h : FV.lt a b
  · rfl
  · rw [FV.lt_asymm h]
    rfl

theorem FV.eq_comm (a b : FV) : FV.eq a b = FV.eq b a := by
  unfold FV.eq
  ac_rfl

theorem fcHolds_eq_fsetHolds (cc : FCc) (a b : FV) : fcHolds cc a b = fsetHolds cc a b := by
  unfold fcHolds fsetHolds
  cases hn : a.isNan || b.isNan
  case true => cases cc <;> rfl
  case false =>
    obtain ⟨ha, hb⟩ := Bool.or_eq_false_iff.mp hn
    cases cc
    case le => exact congrArg (true && ·) (FV.not_lt_eq_lt_or_eq ha hb)
    case ge => exact congrArg (true && ·) ((FV.not_lt_eq_lt_or_eq hb ha).trans (by rw [FV.eq_comm]))
    all_goals rfl

/-- The word of a truth: all ones, or 0. -/
theorem ofNat_ite_allOnes (t : Bool) : BitVec.ofNat 32 (if t then 2 ^ 32 - 1 else 0) = if t then BitVec.allOnes 32 else 0 := by
  cases t <;> rfl

theorem exec_fset (g : Grd) (cc : FCc) (pen : Bool) (pd : Nat) (d : Dst) (a b : Src) (s : State) :
    exec (.fset g cc pen pd d a b) s = execFset g cc pen pd d a b s := rfl

theorem fset_gives (g : Grd) (cc : FCc) (pen : Bool) (pd : Nat) (d : Dst) (a b : Src) :
    Gives (.fset g cc pen pd d a b) g (namesOf 1 d [(1, a), (1, b)]) (windowsOf 1 d [(1, a), (1, b)]) (fun x l =>
      let t := fsetHolds cc (x.flt f32 (x.w32 l a).toNat) (x.flt f32 (x.w32 l b).toNat)
      { gift32 d (if t then BitVec.allOnes 32 else 0) (x.anyPois l [a, b]) with
        preds := if pen then [(pd, t, x.anyPois l [a, b])] else [] }) := by
  refine gives_of_useOf (exec_fset g cc pen pd d a b) (fun _ _ => ?_) (fun x l => ?_)
  · exact out32_preds_once d _ _ _ (nodup_predIf pen _)
  · simp only [out32_preds_gift, ofNat_ite_allOnes, fcHolds_eq_fsetHolds, Iss.w32_toNat, Iss.anyPois_two, Iss.flt]

/-! ## Classes (09 R200) -/

theorem fld_toNat {w : Nat} (v : BitVec w) (hi lo : Nat) : fld v.toNat hi lo = (v.extractLsb' lo (hi + 1 - lo)).toNat := by
  rw [BitVec.extractLsb'_toNat, Nat.shiftRight_eq_div_pow]
  rfl

theorem toNat_mod_two_pow {w : Nat} (v : BitVec w) (n : Nat) : v.toNat % 2 ^ n = (v.extractLsb' 0 n).toNat := by
  rw [BitVec.extractLsb'_toNat, Nat.shiftRight_zero]

/-- The infinities and NaNs tested one after the other are one case split by the mantissa within the other by the exponent. -/
theorem ite_and_not_ite {α : Type} (p q : Prop) [Decidable p] [Decidable q] (x y z : α) :
    (if p ∧ ¬q then x else if p then y else z) = if p then (if q then y else x) else z := by
  by_cases hp : p <;> by_cases hq : q <;> simp [hp, hq]

/-- The class word as a number, by the fields of the code: sign, exponent, mantissa and the mantissa's first bit. -/
theorem toNat_classWord (v : W32) : (classWord v).toNat = fclassOf v.toNat := by
  have hsign : bitN v.toNat 31 = v.msb := (bitN_toNat v 31).trans (BitVec.msb_eq_getLsbD_last v).symm
  have hquiet : bitN v.toNat 22 = (v.extractLsb' 0 23).msb := by
    rw [bitN_toNat, BitVec.msb_eq_getLsbD_last, BitVec.getLsbD_extractLsb']
    simp
  have hman : v.toNat % 2 ^ 23 = 0 ↔ v.extractLsb' 0 23 = 0 := by
    rw [toNat_mod_two_pow, ← BitVec.toNat_inj]
    rfl
  have hzero : fld v.toNat 30 23 = 0 ↔ v.extractLsb' 23 8 = 0 := by
    rw [fld_toNat, ← BitVec.toNat_inj]
    rfl
  have hones : fld v.toNat 30 23 = 255 ↔ v.extractLsb' 23 8 = BitVec.allOnes 8 := by
    rw [fld_toNat, ← BitVec.toNat_inj]
    rfl
  unfold classWord fclassOf
  simp only [hsign, hquiet, hman, hzero, hones, Ne, ite_and_not_ite, ite_not, apply_ite BitVec.toNat]
  rfl

theorem exec_fclass (g : Grd) (pen : Bool) (pd : Nat) (d : Dst) (a b : Src) (s : State) :
    exec (.fclass g pen pd d a b) s = execFclass g pen pd d a b s := rfl

theorem ofNat_fclassOf (v : W32) : BitVec.ofNat 32 (fclassOf v.toNat) = classWord v := by
  rw [← toNat_classWord, BitVec.ofNat_toNat, BitVec.setWidth_eq]

/-- A class is in a mask of classes as numbers just where it is as words. -/
theorem land_fclassOf_ne_zero (v m : W32) : Nat.land (fclassOf v.toNat) m.toNat ≠ 0 ↔ classWord v &&& m ≠ 0 := by
  rw [← toNat_classWord, Ne, Ne, ← BitVec.toNat_inj (x := classWord v &&& m), BitVec.toNat_and]
  rfl

theorem fclass_gives (g : Grd) (pen : Bool) (pd : Nat) (d : Dst) (a b : Src) :
    Gives (.fclass g pen pd d a b) g (namesOf 1 d [(1, a), (1, b)]) (windowsOf 1 d [(1, a), (1, b)]) (fun x l =>
      { gift32 d (classWord (x.w32 l a)) (x.anyPois l [a, b]) with
        preds := if pen then [(pd, decide (classWord (x.w32 l a) &&& x.w32 l b ≠ 0), x.anyPois l [a, b])] else [] }) := by
  refine gives_of_useOf (exec_fclass g pen pd d a b) (fun _ _ => ?_) (fun x l => ?_)
  · exact out32_preds_once d _ _ _ (nodup_predIf pen _)
  · simp only [out32_preds_gift, ← Iss.w32_toNat, ofNat_fclassOf, land_fclassOf_ne_zero, Iss.anyPois_two]

/-- Settles O15, each instruction by what its outcome in one lane gives (09 R198 to R200, R203). -/
theorem floatPicksAndTestsComplete : Obligations.FloatPicksAndTestsComplete :=
  ⟨⟨fun _ _ _ _ _ _ h => pick_gives (exec_of_pickFun h), fun _ _ _ _ _ _ _ h => pick2_gives (exec_of_pick2Fun h)⟩,
    fset_gives, fclass_gives⟩

end Sys2Proof.Machine

/-! MZERO, MSCALE and MSTAT (13 R273, R276, R279; O38): what a pot slot holds after each update of the state, what the changes of
lanes that poison and leases make leave as it was, and each instruction's next state. -/

namespace Sys2Proof.Machine

/-! ## Pot slots (13 Table 13.2) -/

/-- A change of a core that leaves its pot leaves every slot. -/
theorem State.slot_modCore (s : State) (d : CoreRef) (f : Core → Core) (hf : (f (s.core d)).pot = (s.core d).pot) (c : CoreRef) (n : Nat) :
    (s.modCore d f).slot c n = s.slot c n := by
  unfold State.slot
  by_cases hc : coreKey c = coreKey d
  · rw [State.core_key _ hc, State.core_modCore, hf, State.core_key s hc]
  · rw [State.core_modCore_ne _ _ _ _ hc]

@[simp] theorem State.slot_modHand (s : State) (h : HandRef) (f : Hand → Hand) (c : CoreRef) (n : Nat) :
    (s.modHand h f).slot c n = s.slot c n := s.slot_modCore h.cr _ rfl c n

@[simp] theorem State.slot_advance (s : State) (r : SuitRef) (c : CoreRef) (n : Nat) : (s.advance r).slot c n = s.slot c n :=
  s.slot_modHand r.hr _ c n

/-- A hand's lanes and suits changed leave every slot. -/
theorem OnlyHand.slot {s t : State} {h : HandRef} (k : OnlyHand s t h) (c : CoreRef) (n : Nat) : t.slot c n = s.slot c n := by
  unfold State.slot
  by_cases hc : coreKey c = coreKey h.cr
  · have hpot : (t.core h.cr).pot = (s.core h.cr).pot := (congrArg Core.pot k.core :)
    rw [State.core_key _ hc, hpot, State.core_key s hc]
  · rw [k.cores c hc]

@[simp] theorem State.slot_setSlot_same (s : State) (c : CoreRef) (n : Nat) (sl : Slot) : (s.setSlot c n sl).slot c n = sl := by
  unfold State.slot State.setSlot
  rw [State.core_modCore]
  exact kGet_kPut_same ..

/-- One slot of a core changed: its other slots, every hand, memory, where the instruction ends and the next operation's number are as
they were. -/
structure OnlySlot (s t : State) (c : CoreRef) (n : Nat) : Prop where
  others : s.otherSlots t c n
  hands : ∀ h, t.hand h = s.hand h
  mem : t.mem = s.mem
  npc : t.npc = s.npc
  nextOp : t.nextOp = s.nextOp

theorem OnlySlot.refl (s : State) (c : CoreRef) (n : Nat) : OnlySlot s s c n := ⟨fun _ _ => rfl, fun _ => rfl, rfl, rfl, rfl⟩

theorem OnlySlot.setSlot (s : State) (c : CoreRef) (n : Nat) (sl : Slot) : OnlySlot s (s.setSlot c n sl) c n where
  others := fun m hm => by
    unfold State.slot State.setSlot
    rw [State.core_modCore]
    exact kGet_kPut_ne hm ..
  hands := fun h => by
    unfold State.hand State.setSlot
    by_cases hc : coreKey h.cr = coreKey c
    · rw [State.core_key _ hc, State.core_modCore, State.core_key s hc]
    · rw [State.core_modCore_ne _ _ _ _ hc]
  mem := rfl
  npc := rfl
  nextOp := rfl

/-- The same cores hold the same slots and hands. -/
theorem State.slot_of_cores {s t : State} (h : t.cores = s.cores) (c : CoreRef) (n : Nat) : t.slot c n = s.slot c n := by
  unfold State.slot State.core
  rw [h]

theorem State.hand_of_cores {s t : State} (e : t.cores = s.cores) (h : HandRef) : t.hand h = s.hand h := by
  unfold State.hand State.core
  rw [e]

/-! ## The compare of a slot (13 R273) -/

/-- A compare changes its slot, and beside it at most the error log of the device (24 R426). -/
theorem State.compare_eq (s : State) (c : CoreRef) (n : Nat) :
    let written := s.setSlot c n (s.slot c n).compare
    s.compare c n = written ∨ ∃ cls mech loc, s.compare c n = written.devErr cls mech loc := by
  intro written
  unfold State.compare
  dsimp only
  split
  · exact .inl rfl
  · exact .inr ⟨_, _, _, rfl⟩

theorem OnlySlot.devErr {s t : State} {c : CoreRef} {n : Nat} (k : OnlySlot s t c n) (cls mech loc : Nat) :
    OnlySlot s (t.devErr cls mech loc) c n := ⟨k.others, k.hands, k.mem, k.npc, k.nextOp⟩

theorem OnlySlot.compare (s : State) (c : CoreRef) (n : Nat) : OnlySlot s (s.compare c n) c n := by
  have hset := OnlySlot.setSlot s c n (s.slot c n).compare
  obtain h | ⟨cls, mech, loc, h⟩ := s.compare_eq c n
  · rwa [h]
  · rw [h]
    exact hset.devErr cls mech loc

@[simp] theorem State.slot_compare_same (s : State) (c : CoreRef) (n : Nat) : (s.compare c n).slot c n = (s.slot c n).compare := by
  obtain h | ⟨cls, mech, loc, h⟩ := s.compare_eq c n
  · rw [h, State.slot_setSlot_same]
  · rw [h]
    exact s.slot_setSlot_same ..

/-- A compare that an instruction makes when it checks (13 R279). -/
theorem OnlySlot.compareIf (s : State) (chk : Bool) (c : CoreRef) (n : Nat) : OnlySlot s (if chk then s.compare c n else s) c n := by
  cases chk
  · exact OnlySlot.refl s c n
  · exact OnlySlot.compare s c n

theorem State.slot_compareIf_same (s : State) (chk : Bool) (c : CoreRef) (n : Nat) :
    (if chk then s.compare c n else s).slot c n = if chk then (s.slot c n).compare else s.slot c n := by
  cases chk
  · rfl
  · exact s.slot_compare_same c n

/-! ## Lanes marked but not written -/

/-- In the lanes of one hand at most the marks of consumed poison and of leases have changed: what software sees of them, their seals
and the hand's suits are as they were. -/
structure LanesMarked (s t : State) (h : HandRef) : Prop where
  only : OnlyHand s t h
  suits : (t.hand h).suits = (s.hand h).suits
  kept : s.lanesKept t h
  seals : ∀ l, (t.lane h l).isSealed = (s.lane h l).isSealed

theorem LanesMarked.refl (s : State) (h : HandRef) : LanesMarked s s h :=
  ⟨OnlyHand.refl s h, rfl, fun _ => ⟨rfl, rfl, rfl, rfl, rfl, rfl⟩, fun _ => rfl⟩

theorem State.lanesKept_trans {s t u : State} {h : HandRef} (a : s.lanesKept t h) (b : t.lanesKept u h) : s.lanesKept u h := fun l => by
  obtain ⟨hregs, hl0, hl1, hpreds, hitem, hst⟩ := a l
  obtain ⟨kregs, kl0, kl1, kpreds, kitem, kst⟩ := b l
  exact ⟨kregs.trans hregs, kl0.trans hl0, kl1.trans hl1, kpreds.trans hpreds, kitem.trans hitem, kst.trans hst⟩

theorem LanesMarked.trans {s t u : State} {h : HandRef} (a : LanesMarked s t h) (b : LanesMarked t u h) : LanesMarked s u h where
  only := a.only.trans b.only
  suits := b.suits.trans a.suits
  kept := State.lanesKept_trans a.kept b.kept
  seals := fun l => (b.seals l).trans (a.seals l)

/-- A step that marks one lane and leaves the others. -/
theorem LanesMarked.of_lane {s t : State} {h : HandRef} {l : Nat} (only : OnlyHand s t h) (suits : (t.hand h).suits = (s.hand h).suits)
    (others : ∀ m, m ≠ l → t.lane h m = s.lane h m)
    (kept : { t.lane h l with psum := (s.lane h l).psum, leases := (s.lane h l).leases } = s.lane h l) : LanesMarked s t h where
  only := only
  suits := suits
  kept := fun m => by
    by_cases hm : m = l
    · subst hm
      exact ⟨(congrArg Lane.regs kept :), (congrArg Lane.l0 kept :), (congrArg Lane.l1 kept :), (congrArg Lane.preds kept :),
        (congrArg Lane.item kept :), (congrArg Lane.st kept :)⟩
    · rw [others m hm]
      exact ⟨rfl, rfl, rfl, rfl, rfl, rfl⟩
  seals := fun m => by
    by_cases hm : m = l
    · subst hm
      exact (congrArg Lane.isSealed kept :)
    · rw [others m hm]

theorem LanesMarked.consume (s : State) (h : HandRef) (l : Nat) : LanesMarked s (s.consume h l) h :=
  .of_lane (OnlyHand.consume s h l) (s.consume_suits h l) (fun _ hm => s.consume_lane_ne h hm) (by rw [State.consume_lane])

theorem LanesMarked.leaseRegs (s : State) (h : HandRef) (l op : Nat) (ks : List Nat) : LanesMarked s (s.leaseRegs h l op ks) h :=
  .of_lane (OnlyHand.modLane s h l _) (by unfold State.leaseRegs State.modLane; rw [State.hand_modHand]; rfl) (fun _ hm => s.lane_modLane_ne h _ hm)
    (by unfold State.leaseRegs; rw [State.lane_modLane])

/-- Lanes of a list marked one after another. -/
theorem LanesMarked.foldl {h : HandRef} {f : State → Nat → State} (hf : ∀ s l, LanesMarked s (f s l) h) (ls : List Nat) (s : State) :
    LanesMarked s (ls.foldl f s) h :=
  List.foldlRecOn (motive := fun t => LanesMarked s t h) ls f (LanesMarked.refl s h) (fun t ht l _ => ht.trans (hf t l))

theorem OnlyHand.mem {s t : State} {h : HandRef} (k : OnlyHand s t h) : t.mem = s.mem := (congrArg State.mem k.device :)
theorem OnlyHand.npc {s t : State} {h : HandRef} (k : OnlyHand s t h) : t.npc = s.npc := (congrArg State.npc k.device :)
theorem OnlyHand.ops {s t : State} {h : HandRef} (k : OnlyHand s t h) : t.ops = s.ops := (congrArg State.ops k.device :)
theorem OnlyHand.pegs {s t : State} {h : HandRef} (k : OnlyHand s t h) : (t.hand h).pegs = (s.hand h).pegs := (congrArg Hand.pegs k.hand :)

/-! ## The suit moved past its instruction -/

@[simp] theorem State.advance_mem (s : State) (r : SuitRef) : (s.advance r).mem = s.mem := s.modSuit_mem r _
@[simp] theorem State.advance_ops (s : State) (r : SuitRef) : (s.advance r).ops = s.ops := s.modSuit_ops r _
@[simp] theorem State.lane_advance (s : State) (r : SuitRef) (l : Nat) : (s.advance r).lane r.hr l = s.lane r.hr l := s.lane_modSuit r _ l

/-- The issuing suit stands behind its instruction when it is moved past from a state that keeps the suits of its hand. -/
theorem Passed.advance {s t : State} (g : Grd) (hsuit : ((s.hand s.cur.hr).suit s.cur.suit).isSome = true) (hn : t.npc = s.npc)
    (hs : (t.hand s.cur.hr).suits = (s.hand s.cur.hr).suits) : Passed s (t.advance s.cur) (s.issuing g) where
  suit := by
    have ht : (t.hand s.cur.hr).suit s.cur.suit = some (s.issuing g).u := (congrArg (kFind s.cur.suit) hs).trans (s.issuing_suit g hsuit)
    unfold State.advance State.modSuit
    change ((t.modHand s.cur.hr _).hand s.cur.hr).suit s.cur.suit = _
    rw [State.hand_modHand, Hand.suit_modSuit, ht, hn]
    rfl
  others := fun n h => by
    unfold State.advance State.modSuit
    change ((t.modHand s.cur.hr _).hand s.cur.hr).suit n = (s.hand s.cur.hr).suit n
    rw [State.hand_modHand, Hand.suit_modSuit_ne (n := s.cur.suit) _ _ h]
    exact congrArg (kFind n) hs

/-- Moving the suit past its instruction afterwards touches no lane and no peg. -/
theorem LanesMarked.advance_kept {s t : State} {r : SuitRef} (k : LanesMarked s t r.hr) : s.lanesKept (t.advance r) r.hr := fun l => by
  rw [State.lane_advance]
  exact k.kept l

theorem LanesMarked.advance_uncounted {s t : State} {r : SuitRef} (k : LanesMarked s t r.hr) : s.uncounted (t.advance r) r.hr :=
  ⟨(OnlyHand.modSuit t r _).pegs.trans k.only.pegs, fun l => by rw [State.lane_advance]; exact k.seals l⟩

/-- What a later state keeps of a hand's lanes and pegs speaks of the hand alone. -/
theorem State.lanesKept_of_hand {s t u : State} {h : HandRef} (e : t.hand h = s.hand h) (k : t.lanesKept u h) : s.lanesKept u h := by
  unfold State.lanesKept State.lane at k ⊢
  rwa [e] at k

theorem State.uncounted_of_hand {s t u : State} {h : HandRef} (e : t.hand h = s.hand h) (k : t.uncounted u h) : s.uncounted u h := by
  unfold State.uncounted State.lane at k ⊢
  rwa [e] at k

/-! ## A tile that the suit may use (13 R266, 23 R402) -/

theorem State.mayTile_matBad {s : State} {g : Grd} {tile : Nat} (h : s.mayTile g tile = true) :
    (s.issuing g).matBad false tile false = none := by
  unfold State.mayTile at h
  simp only [Bool.and_eq_true, decide_eq_true_eq] at h
  obtain ⟨⟨hdealt, hdeals⟩, hkern, hhand⟩ := h
  unfold Iss.matBad
  simp [hdealt, hdeals, hkern, hhand]

/-! ## MZERO (13 R276) -/

theorem exec_mzero {s : State} {tile : Nat} (hc : s.clearAt Grd.always [] [] = true) (ht : s.mayTile Grd.always tile = true) :
    let n := s.slotAt Grd.always tile
    exec (.mzero tile) s = .next ((s.setSlot s.cur.hr.cr n { scale := (s.slot s.cur.hr.cr n).scale }).advance s.cur) := by
  change execMzero tile s = _
  unfold execMzero
  rw [issue_clear { major := 0x6e } s _ [] [] ⟨rfl, rfl, rfl, rfl, rfl, rfl⟩ (fun _ h => h) (fun _ h => h) hc, State.mayTile_matBad ht]
  rfl

/-! ## MSCALE (13 R276) -/

/-- The column scales with those of the executing lanes written. -/
def Iss.scaled (x : Iss) (a b : Src) (m : KMap (W32 × Bool)) : KMap (W32 × Bool) :=
  x.ex.foldl (fun m l => kPut scaleOne (32 + l) (x.w32 l b, x.pois .w32 l b) (kPut scaleOne l (x.w32 l a, x.pois .w32 l a) m)) m

theorem exec_mscale {s : State} {g : Grd} {tile : Nat} {a b : Src}
    (hc : s.clearAt g (namesOf 0 .none [(1, a), (1, b)]) (windowsOf 0 .none [(1, a), (1, b)]) = true) (ht : s.mayTile g tile = true)
    (he : (s.issuing g).ex ≠ []) :
    let n := s.slotAt g tile
    let x := s.issuing g
    let sl := s.slot s.cur.hr.cr n
    exec (.mscale g tile a b) s =
      .next (((x.ex.filter (fun l => x.pois .w32 l a || x.pois .w32 l b)).foldl (fun t l => t.consume s.cur.hr l)
        (s.setSlot s.cur.hr.cr n { sl with scale := x.scaled a b sl.scale })).advance s.cur) := by
  change execMscale g tile a b s = _
  unfold execMscale
  dsimp only
  rw [issue_clear (useOf g 0x73 0 .none [(1, a), (1, b)]) s _ _ _ (useOf_plain ..) (fun _ h => h) (fun _ h => h) hc]
  split
  case h_1 _ hnone => exact absurd hnone he
  case h_2 hbad => exact nomatch (State.mayTile_matBad ht).symm.trans hbad
  case h_3 => rfl

/-- Two keys written for each lane of a list: each reads what its lane wrote last, and the keys of other lanes what they were. -/
theorem kGet_foldl_kPut_pair {α : Type} [DecidableEq α] (d : α) (k : Nat) (f g : Nat → α) {l : Nat} (hl : l < k) :
    ∀ (ls : List Nat), (∀ j ∈ ls, j < k) → ∀ m : KMap α,
      let r := ls.foldl (fun m l => kPut d (k + l) (g l) (kPut d l (f l) m)) m
      kGet d l r = (if l ∈ ls then f l else kGet d l m) ∧ kGet d (k + l) r = if l ∈ ls then g l else kGet d (k + l) m
  | [], _, _ => ⟨rfl, rfl⟩
  | j :: ls, hk, m => by
    obtain ⟨hlow, hhigh⟩ := kGet_foldl_kPut_pair d k f g hl ls (fun i hi => hk i (List.mem_cons_of_mem j hi))
      (kPut d (k + j) (g j) (kPut d j (f j) m))
    have hj : j < k := hk j List.mem_cons_self
    intro r
    change kGet d l r = _ at hlow
    change kGet d (k + l) r = _ at hhigh
    rw [hlow, hhigh, kGet_kPut_ne (by omega : l ≠ k + j)]
    by_cases h : l = j
    · subst h
      simp
    · rw [kGet_kPut_ne h, kGet_kPut_ne (by omega : k + l ≠ k + j), kGet_kPut_ne (by omega : k + l ≠ j)]
      simp [h]

theorem State.issuing_lt {s : State} {g : Grd} {l : Nat} (h : l ∈ (s.issuing g).ex) : l < 32 :=
  List.mem_range.mp (List.mem_filter.mp (List.mem_filter.mp h).1).1

/-- Column l and column 32 + l after an MSCALE. -/
theorem State.kGet_scaled (s : State) (g : Grd) (a b : Src) (m : KMap (W32 × Bool)) {l : Nat} (hl : l < 32) :
    let x := s.issuing g
    kGet scaleOne l (x.scaled a b m) = (if l ∈ x.ex then (x.w32 l a, x.pois .w32 l a) else kGet scaleOne l m) ∧
      kGet scaleOne (32 + l) (x.scaled a b m) = (if l ∈ x.ex then (x.w32 l b, x.pois .w32 l b) else kGet scaleOne (32 + l) m) :=
  kGet_foldl_kPut_pair scaleOne 32 _ _ hl _ (fun _ => State.issuing_lt) m

/-! ## MSTAT (13 R279) -/

/-- A hand that counts an operation on a peg keeps everything else. -/
theorem State.hand_count (s : State) (h : HandRef) (p : Option Nat) (op : Nat) (done : Bool) :
    { (s.count h p op done).hand h with pegs := (s.hand h).pegs } = s.hand h := by
  cases p
  · rfl
  · exact congrArg (fun d : Hand => { d with pegs := (s.hand h).pegs }) (s.hand_modHand h _)

theorem State.slot_count (s : State) (h : HandRef) (p : Option Nat) (op : Nat) (done : Bool) (c : CoreRef) (n : Nat) :
    (s.count h p op done).slot c n = s.slot c n := by
  cases p
  · rfl
  · exact s.slot_modHand h _ c n

section
variable (s : State) (x : Iss) (major : Nat) (ps : Bool) (lanes : List LaneOp) (kind : OpKind) (done : Bool) (span : Nat × Nat × Nat)

/-- Of the cores, an operation started changes the peg that counts it. -/
theorem State.startOp_cores :
    (s.startOp x major ps lanes kind done span).cores = (s.count x.h (pegOf x.u.pos.hw ps) s.nextOp done).cores := by
  unfold State.startOp State.newOp
  cases done <;> cases pegOf x.u.pos.hw ps <;> rfl

@[simp] theorem State.startOp_mem : (s.startOp x major ps lanes kind done span).mem = s.mem := by
  unfold State.startOp State.newOp
  cases done <;> cases pegOf x.u.pos.hw ps <;> rfl

@[simp] theorem State.startOp_npc : (s.startOp x major ps lanes kind done span).npc = s.npc := by
  unfold State.startOp State.newOp
  cases done <;> cases pegOf x.u.pos.hw ps <;> rfl

@[simp] theorem State.slot_startOp (c : CoreRef) (n : Nat) : (s.startOp x major ps lanes kind done span).slot c n = s.slot c n := by
  rw [State.slot_of_cores (s.startOp_cores ..), State.slot_count]

@[simp] theorem State.suits_startOp : ((s.startOp x major ps lanes kind done span).hand x.h).suits = (s.hand x.h).suits := by
  rw [State.hand_of_cores (s.startOp_cores ..)]
  exact (congrArg Hand.suits (s.hand_count ..) :)

@[simp] theorem State.lane_startOp (l : Nat) : (s.startOp x major ps lanes kind done span).lane x.h l = s.lane x.h l := by
  unfold State.lane
  rw [State.hand_of_cores (s.startOp_cores ..)]
  exact (congrArg (fun d => Hand.lane d l) (s.hand_count ..) :)

/-- An operation with lanes is in flight under the next number, with them. -/
theorem State.startOp_ops : ∃ o, kFind s.nextOp (s.startOp x major ps lanes kind false span).ops = some o ∧ o.lanes = lanes :=
  ⟨_, kFind_kSet_same .., rfl⟩

end

/-- What issue does when nothing holds back an instruction that is counted on a peg. -/
theorem issue_counted {g : Grd} {dn : Nat} {d : Dst} {srcs : List (Nat × Src)} {ps : Bool} {s : State} (major : Nat) (k : Iss → State)
    (hc : s.clearAt g (namesOf dn d srcs) (windowsOf dn d srcs) = true) (hp : s.pegRoom ps = true) :
    issue { useOf g major dn d srcs with peg := some ps } s k = .next (k (s.issuing g)) :=
  issue_goes { useOf g major dn d srcs with peg := some ps } s k hc (fun h => nomatch h) (fun h => nomatch h) (fun h => nomatch h)
    (decide_eq_true (Nat.zero_le _)) rfl (fun _ hq => Option.some.inj hq ▸ hp)

theorem exec_mstat {s : State} {g : Grd} {ps : Bool} {tile : Nat} {chk : Bool} {d : Dst} (hc : s.clearAt g (dstKeys 1 d) (dstWin 1 d) = true)
    (hp : s.pegRoom ps = true) (ht : s.mayTile g tile = true) (he : (s.issuing g).ex ≠ []) :
    let n := s.slotAt g tile
    let x := s.issuing g
    let s1 := if chk then s.compare s.cur.hr.cr n else s
    exec (.mstat g ps tile chk d) s =
      .next ((x.ex.foldl (fun t l => t.leaseRegs s.cur.hr l s.nextOp (dstKeys 1 d))
        (s1.startOp x 0x74 ps (x.ex.map (fun l => x.laneOp l 1 (wordIn ((s1.slot s.cur.hr.cr n).stat l) (dstKeys 1 d)))) .access false)).advance
          s.cur) := by
  have hclear : s.clearAt g (namesOf 1 d []) (windowsOf 1 d []) = true := by
    unfold namesOf windowsOf
    simpa only [List.flatMap_nil, List.append_nil] using hc
  change execMstat g ps tile chk d s = _
  unfold execMstat
  dsimp only
  rw [issue_counted 0x74 _ hclear hp]
  split
  case h_1 hbad | h_2 hbad => exact nomatch (State.mayTile_matBad ht).symm.trans hbad
  case h_3 =>
    rw [List.isEmpty_eq_false_iff.mpr he]
    rfl

/-! ## The three instructions -/

theorem mzero_completes (s : State) (tile : Nat) (hc : s.clearAt Grd.always [] [] = true) (ht : s.mayTile Grd.always tile = true) :
    let n := s.slotAt Grd.always tile
    ∃ t, exec (.mzero tile) s = .next t ∧ Passed s t (s.issuing Grd.always) ∧ t.mem = s.mem ∧ s.uncounted t s.cur.hr ∧
      (∀ l, t.lane s.cur.hr l = s.lane s.cur.hr l) ∧
      t.slot s.cur.hr.cr n = { scale := (s.slot s.cur.hr.cr n).scale } ∧ s.otherSlots t s.cur.hr.cr n := by
  intro n
  let zeroed := s.setSlot s.cur.hr.cr n { scale := (s.slot s.cur.hr.cr n).scale }
  have changed : OnlySlot s zeroed s.cur.hr.cr n := .setSlot ..
  have hhand := changed.hands s.cur.hr
  refine ⟨zeroed.advance s.cur, exec_mzero hc ht, ?_, rfl, ?_, fun l => ?_, ?_, fun m hm => ?_⟩
  · exact Passed.advance _ (State.clearAt_suit hc) rfl (congrArg Hand.suits hhand)
  · exact State.uncounted_of_hand hhand (LanesMarked.refl ..).advance_uncounted
  · rw [State.lane_advance]
    exact congrArg (fun d => Hand.lane d l) hhand
  · rw [State.slot_advance, State.slot_setSlot_same]
  · rw [State.slot_advance]
    exact changed.others m hm

theorem mscale_completes (s : State) (g : Grd) (tile : Nat) (a b : Src)
    (hc : s.clearAt g (namesOf 0 .none [(1, a), (1, b)]) (windowsOf 0 .none [(1, a), (1, b)]) = true) (ht : s.mayTile g tile = true)
    (he : (s.issuing g).ex ≠ []) :
    let n := s.slotAt g tile
    let x := s.issuing g
    let sl := s.slot s.cur.hr.cr n
    ∃ t, exec (.mscale g tile a b) s = .next t ∧ Passed s t x ∧ t.mem = s.mem ∧ s.lanesKept t s.cur.hr ∧ s.uncounted t s.cur.hr ∧
      t.slot s.cur.hr.cr n = { sl with scale := x.scaled a b sl.scale } ∧ s.otherSlots t s.cur.hr.cr n := by
  intro n x sl
  let written := s.setSlot s.cur.hr.cr n { sl with scale := x.scaled a b sl.scale }
  let ate := (x.ex.filter (fun l => x.pois .w32 l a || x.pois .w32 l b)).foldl (fun t l => t.consume s.cur.hr l) written
  have changed : OnlySlot s written s.cur.hr.cr n := .setSlot ..
  have hhand := changed.hands s.cur.hr
  have marked : LanesMarked written ate s.cur.hr := .foldl (fun t l => .consume t s.cur.hr l) _ written
  refine ⟨ate.advance s.cur, exec_mscale hc ht he, ?_, ?_, ?_, ?_, ?_, fun m hm => ?_⟩
  · exact Passed.advance g (State.clearAt_suit hc) marked.only.npc (marked.suits.trans (congrArg Hand.suits hhand))
  · rw [State.advance_mem, marked.only.mem, changed.mem]
  · exact State.lanesKept_of_hand hhand marked.advance_kept
  · exact State.uncounted_of_hand hhand marked.advance_uncounted
  · rw [State.slot_advance, marked.only.slot, State.slot_setSlot_same]
  · rw [State.slot_advance, marked.only.slot]
    exact changed.others m hm

theorem mstat_completes (s : State) (g : Grd) (ps : Bool) (tile : Nat) (chk : Bool) (d : Dst)
    (hc : s.clearAt g (dstKeys 1 d) (dstWin 1 d) = true) (hp : s.pegRoom ps = true) (ht : s.mayTile g tile = true)
    (he : (s.issuing g).ex ≠ []) :
    let n := s.slotAt g tile
    let sl := if chk then (s.slot s.cur.hr.cr n).compare else s.slot s.cur.hr.cr n
    ∃ t o, exec (.mstat g ps tile chk d) s = .next t ∧ Passed s t (s.issuing g) ∧ t.mem = s.mem ∧ s.lanesKept t s.cur.hr ∧
      t.slot s.cur.hr.cr n = sl ∧ s.otherSlots t s.cur.hr.cr n ∧ kFind s.nextOp t.ops = some o ∧
      o.lanes.map (fun e => (e.lane, e.st)) =
        (s.issuing g).ex.map (fun l => (l, .arrived ((dstKeys 1 d).map (fun k => (k, BitVec.ofNat 32 (sl.stat l), false))))) := by
  intro n sl
  let x := s.issuing g
  let compared := if chk then s.compare s.cur.hr.cr n else s
  let lanes := x.ex.map (fun l => x.laneOp l 1 (wordIn ((compared.slot s.cur.hr.cr n).stat l) (dstKeys 1 d)))
  let started := compared.startOp x 0x74 ps lanes .access false
  let leased := x.ex.foldl (fun t l => t.leaseRegs s.cur.hr l s.nextOp (dstKeys 1 d)) started
  have hslot : compared.slot s.cur.hr.cr n = sl := s.slot_compareIf_same ..
  have changed : OnlySlot s compared s.cur.hr.cr n := .compareIf ..
  have hhand := changed.hands s.cur.hr
  have hlane : ∀ l, started.lane s.cur.hr l = s.lane s.cur.hr l := fun l =>
    (compared.lane_startOp x ..).trans (congrArg (fun d => Hand.lane d l) hhand)
  have marked : LanesMarked started leased s.cur.hr := .foldl (fun t l => .leaseRegs t s.cur.hr l _ _) x.ex started
  obtain ⟨o, ho, hlanes⟩ := compared.startOp_ops x 0x74 ps lanes .access (0, 0, 0)
  refine ⟨leased.advance s.cur, o, exec_mstat hc hp ht he, ?_, ?_, fun l => ?_, ?_, fun m hm => ?_, ?_, ?_⟩
  · refine Passed.advance g (State.clearAt_suit hc) ?_ ?_
    · rw [marked.only.npc, State.startOp_npc, changed.npc]
    · exact marked.suits.trans ((compared.suits_startOp x ..).trans (congrArg Hand.suits hhand))
  · rw [State.advance_mem, marked.only.mem, State.startOp_mem, changed.mem]
  · rw [← hlane l]
    exact marked.advance_kept l
  · rw [State.slot_advance, marked.only.slot, State.slot_startOp, hslot]
  · rw [State.slot_advance, marked.only.slot, State.slot_startOp]
    exact changed.others m hm
  · rw [State.advance_ops, marked.only.ops, ← changed.nextOp]
    exact ho
  · rw [hlanes, List.map_map, hslot]
    rfl

/-- Settles O38: each instruction's next state is its slot's update, with the marks that poison or leases leave in lanes, and the suit
moved past (13 R273, R276, R279). -/
theorem slotInstructionsComplete : Obligations.SlotInstructionsComplete := by
  refine ⟨mzero_completes, fun s g tile a b hc ht he => ?_, mstat_completes⟩
  obtain ⟨t, hexec, hpassed, hmem, hlanes, huncounted, hslot, hothers⟩ := mscale_completes s g tile a b hc ht he
  exact ⟨t, _, hexec, hpassed, hmem, hlanes, huncounted, hslot, hothers, fun l hl => s.kGet_scaled g a b _ hl⟩

end Sys2Proof.Machine

/-! TRAP and TRET (07 R178, R179, 22 R378, R381, R382; O34): what the write of a record at the homes of memory leaves of cores and
contexts, the entry into trap mode of a suit that is ready for it, the lanes that TRAP puts aside, and the return. -/

namespace Sys2Proof.Machine

/-! ## Lanes of a list changed -/

theorem Hand.modLanes_rest (ls : List Nat) (f : Nat → Lane → Lane) : ∀ d : Hand, { d.modLanes ls f with lanes := d.lanes } = d := by
  induction ls with
  | nil => exact fun _ => rfl
  | cons l ls ih => exact fun d => (congrArg (fun e : Hand => { e with lanes := d.lanes }) (ih (d.modLane l (f l))) :)

@[simp] theorem Hand.suit_modLanes (d : Hand) (ls : List Nat) (f : Nat → Lane → Lane) (n : Nat) : (d.modLanes ls f).suit n = d.suit n :=
  (congrArg (fun e : Hand => e.suit n) (Hand.modLanes_rest ls f d) :)

@[simp] theorem Hand.ctx_modLanes (d : Hand) (ls : List Nat) (f : Nat → Lane → Lane) : (d.modLanes ls f).ctx = d.ctx :=
  (congrArg Hand.ctx (Hand.modLanes_rest ls f d) :)

@[simp] theorem Hand.pegs_modLanes (d : Hand) (ls : List Nat) (f : Nat → Lane → Lane) : (d.modLanes ls f).pegs = d.pegs :=
  (congrArg Hand.pegs (Hand.modLanes_rest ls f d) :)

theorem Hand.lane_modLanes_of_notMem {l : Nat} {ls : List Nat} (h : l ∉ ls) (f : Nat → Lane → Lane) (d : Hand) :
    (d.modLanes ls f).lane l = d.lane l := by
  induction ls generalizing d with
  | nil => rfl
  | cons j ls ih =>
    rw [List.mem_cons, not_or] at h
    exact (ih h.2 _).trans (Hand.lane_modLane_ne d _ h.1)

theorem Hand.lane_modLanes_of_mem {l : Nat} {ls : List Nat} (hn : ls.Nodup) (h : l ∈ ls) (f : Nat → Lane → Lane) (d : Hand) :
    (d.modLanes ls f).lane l = f l (d.lane l) := by
  induction ls generalizing d with
  | nil => exact absurd h List.not_mem_nil
  | cons j ls ih =>
    obtain ⟨hj, hn⟩ := List.nodup_cons.mp hn
    rcases List.mem_cons.mp h with rfl | h
    · exact (Hand.lane_modLanes_of_notMem hj f _).trans (Hand.lane_modLane d l _)
    · have hne : l ≠ j := fun e => hj (e ▸ h)
      exact (ih hn h _).trans (congrArg (f l) (Hand.lane_modLane_ne d _ hne))

theorem Hand.active_nodup (d : Hand) (n : Nat) : (d.active n).Nodup := List.nodup_range.filter _

/-! ## Changes of one hand and nothing else -/

theorem WithinHand.modHand (s : State) (h : HandRef) (f : Hand → Hand) : WithinHand s (s.modHand h f) h where
  device := rfl
  cores := fun c hc => s.core_modCore_ne h.cr c _ hc
  core := by unfold State.modHand; rw [State.core_modCore]
  hands := fun n hn => by
    unfold State.modHand
    rw [State.core_modCore]
    exact kGet_kPut_ne hn ..

theorem WithinHand.modSuit (s : State) (r : SuitRef) (f : Suit → Suit) : WithinHand s (s.modSuit r f) r.hr := .modHand ..

theorem WithinHand.trans {s t u : State} {h : HandRef} (a : WithinHand s t h) (b : WithinHand t u h) : WithinHand s u h where
  device := (congrArg (fun x : State => { x with cores := s.cores }) b.device).trans a.device
  cores := fun c hc => (b.cores c hc).trans (a.cores c hc)
  core := (congrArg (fun x : Core => { x with hands := (s.core h.cr).hands }) b.core).trans a.core
  hands := fun n hn => (b.hands n hn).trans (a.hands n hn)

/-! ## Work at the homes of memory (04 R94, 16 R337) -/

/-- What an access of the device leaves alone: every core, and of each context its registers and its state. Quota tokens, marks and times
of lines may change. -/
structure AtHomes (s t : State) : Prop where
  cores : t.cores = s.cores
  ctxs : ∀ c, (t.ctx c).map (fun x => (x.regs, x.state)) = (s.ctx c).map (fun x => (x.regs, x.state))

theorem AtHomes.of_eq {s t : State} (hcores : t.cores = s.cores) (hctxs : t.ctxs = s.ctxs) : AtHomes s t :=
  ⟨hcores, fun c => by unfold State.ctx; rw [hctxs]⟩

theorem AtHomes.refl (s : State) : AtHomes s s := .of_eq rfl rfl

theorem AtHomes.trans {s t u : State} (a : AtHomes s t) (b : AtHomes t u) : AtHomes s u :=
  ⟨b.cores.trans a.cores, fun c => (b.ctxs c).trans (a.ctxs c)⟩

theorem AtHomes.foldl {α : Type} {f : State → α → State} (hf : ∀ s a, AtHomes s (f s a)) (as : List α) (s : State) :
    AtHomes s (as.foldl f s) :=
  List.foldlRecOn (motive := AtHomes s) as f (.refl s) (fun t ht a _ => ht.trans (hf t a))

theorem AtHomes.ite {s t u : State} (p : Prop) [Decidable p] (a : AtHomes s t) (b : AtHomes s u) : AtHomes s (if p then t else u) := by
  split
  · exact a
  · exact b

theorem AtHomes.ctxD {s t : State} (a : AtHomes s t) (c : Nat) :
    (t.ctxD c).regs = (s.ctxD c).regs ∧ (t.ctxD c).state = (s.ctxD c).state := by
  have hget : ∀ u : State, ((u.ctx c).map (fun x => (x.regs, x.state))).getD (({} : Ctx).regs, ({} : Ctx).state) =
      ((u.ctxD c).regs, (u.ctxD c).state) := fun u => Option.getD_map (fun x : Ctx => (x.regs, x.state)) {} (u.ctx c)
  exact Prod.mk.inj (by rw [← hget t, a.ctxs c, hget s])

theorem AtHomes.reg {s t : State} (a : AtHomes s t) (c prn : Nat) : t.reg c prn = s.reg c prn := by
  unfold State.reg Ctx.reg
  rw [(a.ctxD c).1]

theorem AtHomes.isSome {s t : State} (a : AtHomes s t) (c : Nat) : (t.ctx c).isSome = (s.ctx c).isSome := by
  simpa using congrArg Option.isSome (a.ctxs c)

theorem State.ctx_modCtx (s : State) (c : Nat) (f : Ctx → Ctx) : (s.modCtx c f).ctx c = (s.ctx c).map f := by
  unfold State.modCtx
  cases h : s.ctx c with
  | none => exact h
  | some x => exact kFind_kSet_same ..

theorem State.ctx_modCtx_ne (s : State) {c d : Nat} (h : d ≠ c) (f : Ctx → Ctx) : (s.modCtx c f).ctx d = s.ctx d := by
  unfold State.modCtx
  split
  · exact kFind_kSet_ne h ..
  · rfl

theorem AtHomes.modCtx (s : State) (c : Nat) (f : Ctx → Ctx) (hregs : ∀ x, (f x).regs = x.regs) (hstate : ∀ x, (f x).state = x.state) :
    AtHomes s (s.modCtx c f) where
  cores := by simp
  ctxs := fun d => by
    by_cases hd : d = c
    · subst hd
      rw [State.ctx_modCtx, Option.map_map]
      exact congrArg (fun g => (s.ctx d).map g) (funext fun x => Prod.ext (hregs x) (hstate x))
    · rw [State.ctx_modCtx_ne s hd]

theorem AtHomes.chargePort (s : State) (ctx die sl : Nat) : AtHomes s (s.chargePort ctx die sl) := by
  unfold State.chargePort
  exact .ite _ (.refl s) (.ite _ (.modCtx s ctx _ (fun _ => rfl) (fun _ => rfl)) (.of_eq rfl rfl))

theorem AtHomes.chargeChan (s : State) (ctx ch : Nat) : AtHomes s (s.chargeChan ctx ch) := by
  unfold State.chargeChan
  exact .ite _ (.refl s) (.modCtx s ctx _ (fun _ => rfl) (fun _ => rfl))

theorem AtHomes.writeBack (s : State) (line : Nat) : AtHomes s (s.writeBack line) := by
  unfold State.writeBack
  split
  · exact .refl s
  · next e _ =>
    exact (AtHomes.foldl (fun t d => .ite _ (.chargeChan t ..) (.refl t)) e.dirty s).trans (.of_eq rfl rfl)

theorem AtHomes.sliceRoom (s : State) (die sl : Nat) : AtHomes s (s.sliceRoom die sl) := by
  unfold State.sliceRoom
  refine .ite _ (.refl s) (.ite _ (.refl s) ?_)
  split
  · exact .of_eq rfl rfl
  · exact .writeBack s _
  · exact .refl s

theorem AtHomes.fill (s : State) (line : Nat) (secs : List Nat) : AtHomes s (s.fill line secs) :=
  (AtHomes.ite _ (.refl s) (.sliceRoom s _ _)).trans (.of_eq rfl rfl)

theorem AtHomes.charge (s : State) (ctx line : Nat) (secs : List Nat) : AtHomes s (s.charge ctx line secs) := by
  unfold State.charge State.hold
  exact (AtHomes.chargePort s ..).trans (.ite _ (.refl _) ((AtHomes.chargeChan _ ..).trans (.fill ..)))

theorem AtHomes.countReq (s : State) (die pa : Nat) (f : From) (write : Bool) : AtHomes s (s.countReq die pa f write) := by
  unfold State.countReq
  exact .ite _ (.refl s) (.of_eq rfl rfl)

theorem AtHomes.collapse (s : State) (die pa : Nat) : AtHomes s (s.collapse die pa) := by
  unfold State.collapse
  dsimp only
  split
  · exact .of_eq rfl rfl
  · exact .refl s

theorem AtHomes.secWrite (s : State) (pa n : Nat) (pois : Bool) (sec : Nat) : AtHomes s (s.secWrite pa n pois sec) := by
  unfold State.secWrite State.poison
  exact .ite _ (.ite _ (.refl s) (.ite _ (.of_eq rfl rfl) (.of_eq rfl rfl))) (.ite _ (.of_eq rfl rfl) (.refl s))

theorem AtHomes.dirty (s : State) (line ctx : Nat) (secs : List Nat) : AtHomes s (s.dirty line ctx secs) :=
  (AtHomes.fill s line secs).trans (.of_eq rfl rfl)

theorem AtHomes.lineWrite (s : State) (w pa : Nat) (bs : List Byte) (pois : Bool) (f : From) : AtHomes s (s.lineWrite w pa bs pois f) := by
  have put : ∀ t : State, AtHomes t (t.memPut pa bs) := fun t => .of_eq (by simp) (by simp)
  have secs : ∀ t : State, AtHomes t ((spanOf 16 pa bs.length).foldl (fun a k => a.secWrite pa bs.length pois k) t) :=
    AtHomes.foldl (fun t k => .secWrite t ..) _
  have times : ∀ (t : State) (ls : KMap LineTs), AtHomes t { t with lines := ls } := fun _ _ => .of_eq rfl rfl
  exact (((((AtHomes.charge s ..).trans (put _)).trans (secs _)).trans (times _ _)).trans (.dirty ..)).trans
    ((AtHomes.countReq ..).trans (.collapse ..))

theorem AtHomes.homePut (s : State) (w pa : Nat) (bs : List Byte) (pois : Bool) (f : From) : AtHomes s (s.homePut w pa bs pois f) :=
  .foldl (fun t _ => .lineWrite t ..) _ s

/-- A write that completes no store of a core. -/
theorem AtHomes.putLate (s : State) {w : LateW} (h : w.store = none) : AtHomes s (s.putLate w) := by
  unfold State.putLate State.lateOne
  rw [h]
  exact .ite _ (.of_eq rfl rfl) (.homePut s ..)

theorem AtHomes.latePieces (ctx die w : Nat) (ps : List (Nat × Nat × Nat × Nat)) :
    ∀ (s : State) (bs : List Byte), AtHomes s (s.latePieces ctx die w ps bs) := by
  induction ps with
  | nil => exact fun s _ => .refl s
  | cons p ps ih => exact fun s bs => (AtHomes.putLate s rfl).trans (ih _ _)

theorem AtHomes.homeRead (s : State) (line : Nat) (secs : List Nat) (f : From) (p : Nat) : AtHomes s (s.homeRead line secs f p) :=
  ((AtHomes.charge s ..).trans (.countReq ..)).trans (.of_eq rfl rfl)

theorem AtHomes.modFrame (s : State) (f : Nat) (g : Frame → Frame) : AtHomes s (s.modFrame f g) := .of_eq rfl rfl

theorem AtHomes.mark (s : State) (ctx pa lo : Nat) : AtHomes s (s.mark ctx pa lo) := by
  unfold State.mark
  exact .ite _ (.foldl (fun t _ => .modFrame t ..) _ s) (.refl s)

theorem AtHomes.runWalked (s : State) (ctx die p : Nat) (pages : List (Nat × Nat)) (ps : List (Nat × Nat × Nat × Nat)) :
    AtHomes s (s.runWalked ctx die p pages ps) :=
  (AtHomes.foldl (fun t _ => .foldl (fun u _ => .homeRead u ..) _ t) pages s).trans (.foldl (fun t _ => .mark t ..) ps _)

/-! ## A trap record written (22 R378) -/

/-- A record of 64 bytes at a place of its own size lies in one page. -/
theorem pagesOf_record {va : Nat} (h : va % 64 = 0) : pagesOf 2 va 64 = [(va, 64)] := by
  have hm : minN 64 (65536 - va % 65536) = 64 := if_pos (by omega)
  unfold pagesOf
  simp only [hm]
  rfl

theorem TrapRec.length_bytes (t : TrapRec) (seq clk : Nat) : (t.bytes seq clk).length = 64 := rfl

/-- A record is written where the translation of its place succeeds. -/
theorem State.recWrite_record {s : State} {ctx va pa ceil repl lo : Nat} (die : Nat) {bs : List Byte} (hlen : bs.length = 64)
    (hva : va % 64 = 0) (hx : s.xlate ctx (devNeed true) va = .hit pa ceil repl lo) :
    ∃ t, s.recWrite ctx die va bs = .ok t ∧ AtHomes s t := by
  unfold State.recWrite
  rw [hlen]
  change ∃ t, (Except.mapError _ (s.xlateRun ctx (devNeed true) (pagesOf 2 va 64))).map _ = _ ∧ _
  rw [pagesOf_record hva]
  unfold State.xlateRun
  rw [hx]
  exact ⟨_, rfl, (AtHomes.runWalked s ..).trans (.latePieces ..)⟩

theorem AtHomes.source (s : State) (ctx lo : Nat) : AtHomes s (s.source ctx lo) := by
  unfold State.source
  exact .ite _ (.of_eq rfl rfl) (.refl s)

/-- The place of the next trap record says that an entry is free and where it is mapped. -/
theorem State.trapPlace_inv {s : State} {ctx : Nat} (h : (s.trapPlace ctx).isSome = true) :
    let va := (s.ctxD ctx).tq + 64 * (s.reg ctx 0x194 % 2 ^ ((s.ctxD ctx).tqq + 3))
    s.unread ctx 0x194 0x195 < 2 ^ ((s.ctxD ctx).tqq + 3) - 1 ∧ va % 64 = 0 ∧
      ∃ pa ceil repl lo, s.xlate ctx (devNeed true) va = .hit pa ceil repl lo := by
  unfold State.trapPlace at h
  dsimp only at h
  split at h
  · next hfree =>
    refine ⟨hfree.1, hfree.2, ?_⟩
    split at h
    · exact ⟨_, _, _, _, ‹_›⟩
    · exact nomatch h
  · exact nomatch h

theorem State.reg_bump {s : State} {c : Nat} (h : (s.ctx c).isSome = true) (prn n : Nat) :
    (s.bump c prn n).reg c prn = (s.reg c prn + n) % 2 ^ 64 := by
  obtain ⟨x, hx⟩ := Option.isSome_iff_exists.mp h
  have hnew : (s.bump c prn n).ctx c = some (x.setReg prn (BitVec.ofNat 64 (s.reg c prn + n))) := by
    unfold State.bump State.setReg
    rw [State.ctx_modCtx, hx]
    rfl
  have hval : (x.setReg prn (BitVec.ofNat 64 (s.reg c prn + n))).reg prn = BitVec.ofNat 64 (s.reg c prn + n) := kGet_kPut_same ..
  calc (s.bump c prn n).reg c prn
      = ((x.setReg prn (BitVec.ofNat 64 (s.reg c prn + n))).reg prn).toNat := by unfold State.reg State.ctxD; rw [hnew]; rfl
    _ = (s.reg c prn + n) % 2 ^ 64 := by rw [hval, BitVec.toNat_ofNat]

theorem State.state_bump (s : State) (c prn n : Nat) : ((s.bump c prn n).ctxD c).state = (s.ctxD c).state := by
  unfold State.ctxD State.bump State.setReg
  rw [State.ctx_modCtx]
  cases s.ctx c <;> rfl

/-- A record about a context that is ready for it is written, and the tail goes on: no core changes, nor the state of the context. -/
theorem State.putTrap_ready {s : State} {ctx : Nat} (t : TrapRec) (hctx : (s.ctx ctx).isSome = true)
    (h : (s.trapPlace ctx).isSome = true) :
    ∃ u : State, s.putTrap ctx t (2 ^ ((s.ctxD ctx).tqq + 3) - 1) = .written u ∧ u.cores = s.cores ∧
      u.reg ctx 0x194 = (s.reg ctx 0x194 + 1) % 2 ^ 64 ∧ (u.ctxD ctx).state = (s.ctxD ctx).state := by
  obtain ⟨hroom, hva, pa, ceil, repl, lo, hx⟩ := State.trapPlace_inv h
  obtain ⟨w, hwrite, hw⟩ := State.recWrite_record t.die (t.length_bytes (s.reg ctx 0x194) s.clk) hva hx
  have hsignal : AtHomes (w.bump ctx 0x194 1) (if s.unread ctx 0x194 0x195 = 0 then (w.bump ctx 0x194 1).source ctx 4 else w.bump ctx 0x194 1) :=
    .ite _ (.source ..) (.refl _)
  refine ⟨if s.unread ctx 0x194 0x195 = 0 then (w.bump ctx 0x194 1).source ctx 4 else w.bump ctx 0x194 1, ?_, ?_, ?_, ?_⟩
  · unfold State.putTrap
    dsimp only
    rw [if_pos hroom, hwrite]
  · rw [hsignal.cores, ← hw.cores]
    exact State.bump_cores ..
  · rw [hsignal.reg, State.reg_bump (by rw [hw.isSome, hctx]), hw.reg]
  · rw [(hsignal.ctxD ctx).2, State.state_bump, (hw.ctxD ctx).2]

/-- The definition is unfolded before it is applied: the kernel would else evaluate the writing of the record. -/
theorem State.report_of_written {s u : State} {ctx : Nat} {t : TrapRec}
    (h : s.putTrap ctx t (2 ^ ((s.ctxD ctx).tqq + 3) - 1) = .written u) : s.report ctx t = (u, false) := by
  conv => lhs; fun; fun; fun; delta State.report
  rw [h]

/-! ## What the cores hold is no part of a translation, nor of the trap queue -/

theorem State.reg_cores (s : State) (cs : KMap Core) (c prn : Nat) : ({ s with cores := cs } : State).reg c prn = s.reg c prn := rfl

theorem State.walk_cores (s : State) (cs : KMap Core) (ctx : Nat) (x : Ctx) (n : Need) (va : Nat) (ls : List (Nat × Nat)) :
    ∀ level tab, ({ s with cores := cs } : State).walk ctx x n va ls level tab = s.walk ctx x n va ls level tab := by
  induction ls with
  | nil => exact fun _ _ => rfl
  | cons e ls ih =>
    intro level tab
    unfold State.walk
    simp only [ih]
    rfl

theorem State.trapPlace_cores (s : State) (cs : KMap Core) (ctx : Nat) : ({ s with cores := cs } : State).trapPlace ctx = s.trapPlace ctx := by
  have hx : ∀ va, ({ s with cores := cs } : State).xlate ctx (devNeed true) va = s.xlate ctx (devNeed true) va := fun _ => s.walk_cores ..
  unfold State.trapPlace
  simp only [hx]
  rfl

theorem State.reg_modHand (s : State) (h : HandRef) (f : Hand → Hand) (c prn : Nat) : (s.modHand h f).reg c prn = s.reg c prn := s.reg_cores ..

theorem State.trapPlace_modHand (s : State) (h : HandRef) (f : Hand → Hand) (ctx : Nat) : (s.modHand h f).trapPlace ctx = s.trapPlace ctx :=
  s.trapPlace_cores ..

/-! ## Entry into trap mode (22 R381) -/

/-- A lane that enters with a trap word. -/
def Lane.trapped (w : W64) (l : Lane) : Lane :=
  { l with saved := some (l.l0, l.l0p, l.l1, l.l1p), l1 := l.l0, l1p := l.l0p, l0 := w, l0p := false }

theorem Lane.trapped_fields (w : W64) (l : Lane) :
    (l.trapped w).saved = some (l.l0, l.l0p, l.l1, l.l1p) ∧ (l.trapped w).l1 = l.l0 ∧ (l.trapped w).l1p = l.l0p ∧ (l.trapped w).l0p = false ∧
      (l.trapped w).l0 = w ∧ (l.trapped w).regs = l.regs ∧ (l.trapped w).preds = l.preds ∧ (l.trapped w).item = l.item :=
  ⟨rfl, rfl, rfl, rfl, rfl, rfl, rfl, rfl⟩

/-- A suit that enters, at a handler. -/
def Suit.trapped (handler : Nat) (t : TrapSt) (u : Suit) : Suit := { u with pos := Pos.at_ handler, stall := .ready, wait := 0, trap := some t }

theorem State.trapReady_inv {s : State} {r : SuitRef} (h : s.trapReady r = true) :
    (s.ctx (s.hand r.hr).ctx).isSome = true ∧ s.reg (s.hand r.hr).ctx 0x11 ≠ 0 ∧ (s.trapPlace (s.hand r.hr).ctx).isSome = true := by
  unfold State.trapReady at h
  simp only [Bool.and_eq_true, decide_eq_true_eq] at h
  obtain ⟨⟨hopen, hhandler⟩, hplace⟩ := h
  refine ⟨?_, hhandler, hplace⟩
  cases hctx : s.ctx (s.hand r.hr).ctx with
  | none => rw [hctx] at hopen; exact nomatch hopen
  | some _ => rfl

/-- The entry of a suit outside trap mode, once its record is reported and the context goes on. -/
theorem State.trapEntry_of_report {s v : State} {r : SuitRef} {u : Suit} {kind code : Nat} {cmask amask : List Nat} {tpc : Pos} {a0 a1 : Nat}
    (hu : (s.hand r.hr).suit r.suit = some u) (hn : u.trap = none) (hh : s.reg (s.hand r.hr).ctx 0x11 ≠ 0)
    (hv : s.report (s.hand r.hr).ctx (s.trapRec r kind code u.pos.pc cmask amask a0 a1) = (v, false))
    (hstate : (v.ctxD (s.hand r.hr).ctx).state = (s.ctxD (s.hand r.hr).ctx).state) :
    s.trapEntry r kind code cmask amask tpc a0 a1 =
      (v.modHand r.hr (fun d => d.modLanes amask
        (fun _ => Lane.trapped (BitVec.ofNat 64 (s.reg (s.hand r.hr).ctx 0x194 % 2 ^ 32 + kind * 2 ^ 32))))).modSuit r
          (Suit.trapped (s.reg (s.hand r.hr).ctx 0x11) { tpc := tpc, amask := amask }) := by
  unfold State.trapEntry
  -- The report stands for any function, so that no step evaluates it.
  obtain ⟨report, hreport⟩ : ∃ report, report = State.report := ⟨_, rfl⟩
  rw [← hreport] at hv ⊢
  dsimp only
  rw [hu]
  dsimp only
  rw [hn]
  dsimp only
  rw [if_neg hh, hv]
  dsimp only
  rw [if_neg (not_not_intro hstate), if_neg Bool.false_ne_true, Nat.add_zero]
  rfl

/-- A suit that is ready for it enters trap mode once its record is written. -/
theorem State.trapEntry_ready {s : State} {r : SuitRef} {u : Suit} (kind code : Nat) (cmask amask : List Nat) (tpc : Pos) (a0 a1 : Nat)
    (hu : (s.hand r.hr).suit r.suit = some u) (hn : u.trap = none) (h : s.trapReady r = true) :
    let ctx := (s.hand r.hr).ctx
    ∃ v : State, v.cores = s.cores ∧ v.reg ctx 0x194 = (s.reg ctx 0x194 + 1) % 2 ^ 64 ∧
      s.trapEntry r kind code cmask amask tpc a0 a1 =
        (v.modHand r.hr (fun d => d.modLanes amask (fun _ => Lane.trapped (BitVec.ofNat 64 (s.reg ctx 0x194 % 2 ^ 32 + kind * 2 ^ 32))))).modSuit r
          (Suit.trapped (s.reg ctx 0x11) { tpc := tpc, amask := amask }) := by
  obtain ⟨hctx, hhandler, hplace⟩ := State.trapReady_inv h
  obtain ⟨v, hput, hcores, htail, hstate⟩ := State.putTrap_ready (s.trapRec r kind code u.pos.pc cmask amask a0 a1) hctx hplace
  exact ⟨v, hcores, htail, State.trapEntry_of_report hu hn hhandler (State.report_of_written hput) hstate⟩

/-- The entry in terms of what the state was: the lanes and the suit that enter, every other lane and suit of the hand. -/
theorem State.trapEntry_enters {s : State} {r : SuitRef} {u : Suit} (kind code : Nat) (cmask : List Nat) {amask : List Nat} (tpc : Pos)
    (a0 a1 : Nat) (hn : amask.Nodup) (hu : (s.hand r.hr).suit r.suit = some u) (ht : u.trap = none) (h : s.trapReady r = true) :
    let t := s.trapEntry r kind code cmask amask tpc a0 a1
    EnteredTrap s t r u kind amask tpc ∧ (∀ l, l ∉ amask → t.lane r.hr l = s.lane r.hr l) ∧
      ∀ n, n ≠ r.suit → (t.hand r.hr).suit n = (s.hand r.hr).suit n := by
  obtain ⟨v, hcores, htail, he⟩ := State.trapEntry_ready kind code cmask amask tpc a0 a1 hu ht h
  have hhand := State.hand_of_cores hcores r.hr
  intro t
  change t = _ at he
  have hd : t.hand r.hr = ((s.hand r.hr).modLanes amask
      (fun _ => Lane.trapped (BitVec.ofNat 64 (s.reg (s.hand r.hr).ctx 0x194 % 2 ^ 32 + kind * 2 ^ 32)))).modSuit r.suit
        (Suit.trapped (s.reg (s.hand r.hr).ctx 0x11) { tpc := tpc, amask := amask }) := by
    rw [he]
    unfold State.modSuit
    rw [State.hand_modHand, State.hand_modHand, hhand]
  refine ⟨⟨fun l hl => ?_, ?_, ?_⟩, fun l hl => ?_, fun n hne => ?_⟩
  · have hlane : t.lane r.hr l = Lane.trapped (BitVec.ofNat 64 (s.reg (s.hand r.hr).ctx 0x194 % 2 ^ 32 + kind * 2 ^ 32)) (s.lane r.hr l) := by
      unfold State.lane
      rw [hd, Hand.lane_modSuit, Hand.lane_modLanes_of_mem hn hl]
    rw [hlane]
    exact Lane.trapped_fields ..
  · rw [hd, Hand.suit_modSuit, Hand.suit_modLanes, hu]
    rfl
  · rw [he]
    exact (State.reg_modHand ..).trans ((State.reg_modHand ..).trans htail)
  · unfold State.lane
    rw [hd, Hand.lane_modSuit, Hand.lane_modLanes_of_notMem hl]
  · rw [hd, Hand.suit_modSuit_ne _ _ hne, Hand.suit_modLanes]

/-- Whether a suit can enter trap mode speaks of its hand's context alone. -/
theorem State.trapReady_modHand (s : State) (r : SuitRef) {f : Hand → Hand} (hf : ∀ d, (f d).ctx = d.ctx) :
    (s.modHand r.hr f).trapReady r = s.trapReady r := by
  unfold State.trapReady
  rw [State.hand_modHand, hf, State.trapPlace_modHand, State.reg_modHand]
  rfl

/-! ## Lanes that TRAP leaves outside trap mode (02 R43, 07 R178) -/

/-- A lane of a hand stands at a place in another suit than one, or Held-ready. -/
def Hand.standsApart (d : Hand) (n : Nat) (pos : Pos) (l : Nat) : Prop :=
  (∃ m u, m ≠ n ∧ (d.lane l).st = .active m ∧ d.suit m = some u ∧ u.pos = pos) ∨ ((d.lane l).st = .heldReady ∧ (d.lane l).pos = pos)

/-- It stands there still when it and the other suits are as they were. -/
theorem Hand.standsApart.standsAt {s t : State} {h : HandRef} {n : Nat} {pos : Pos} {l : Nat} (a : (s.hand h).standsApart n pos l)
    (hl : t.lane h l = s.lane h l) (hs : ∀ m, m ≠ n → (t.hand h).suit m = (s.hand h).suit m) : t.standsAt h l = some pos := by
  unfold State.standsAt
  rw [hl]
  unfold State.lane
  obtain ⟨m, u, hm, hst, hsuit, hpos⟩ | ⟨hst, hpos⟩ := a
  · rw [hst]
    dsimp only
    rw [hs m hm, hsuit, Option.map_some, hpos]
  · rw [hst]
    exact congrArg some hpos

/-- Lanes of a list have been put aside from a suit at a place: the suit, every other lane of its hand and whether it can enter trap mode are
as they were. -/
structure PutAside (s t : State) (r : SuitRef) (pos : Pos) (ls : List Nat) : Prop where
  reg : ∀ c prn, t.reg c prn = s.reg c prn
  ctx : (t.hand r.hr).ctx = (s.hand r.hr).ctx
  ready : t.trapReady r = s.trapReady r
  suit : (t.hand r.hr).suit r.suit = (s.hand r.hr).suit r.suit
  others : ∀ l, l ∉ ls → t.lane r.hr l = s.lane r.hr l
  aside : ∀ l, l ∈ ls → (t.hand r.hr).standsApart r.suit pos l

theorem PutAside.nil (s : State) (r : SuitRef) (pos : Pos) : PutAside s s r pos [] :=
  ⟨fun _ _ => rfl, rfl, rfl, rfl, fun _ _ => rfl, fun _ h => absurd h List.not_mem_nil⟩

theorem Hand.suit_freeSlot {d : Hand} {n : Nat} (h : d.freeSlot = some n) : d.suit n = none :=
  Option.isNone_iff_eq_none.mp (List.find?_some h :)

/-- The hand of lanes offloaded: they stand at the place, in a new suit in a slot that was Free, or Held-ready. -/
theorem State.hand_offload (s : State) (h : HandRef) (kern : Nat) (pos : Pos) (ls : List Nat) :
    ∃ st suits, (s.offload h kern pos ls).hand h = { (s.hand h).modLanes ls (fun _ l => { l with st := st, pos := pos }) with suits := suits } ∧
      (∀ m, ((s.hand h).suit m).isSome = true → kFind m suits = (s.hand h).suit m) ∧
      ((∃ n, (s.hand h).suit n = none ∧ st = .active n ∧ kFind n suits = some (s.newSuit kern pos)) ∨ st = .heldReady) := by
  unfold State.offload
  rw [State.hand_modHand]
  cases hfree : (s.hand h).freeSlot with
  | some n =>
    have hn := Hand.suit_freeSlot hfree
    have hne : ∀ m, ((s.hand h).suit m).isSome = true → m ≠ n := fun m hm e => by
      rw [e, hn] at hm
      exact nomatch hm
    exact ⟨.active n, _, rfl, fun m hm => kFind_kSet_ne (hne m hm) .., .inl ⟨n, hn, rfl, kFind_kSet_same ..⟩⟩
  | none => exact ⟨.heldReady, _, rfl, fun m _ => Hand.suit_modLanes .., .inr rfl⟩

/-- Whether a suit can enter trap mode is no matter of the lanes that leave it. -/
theorem State.trapReady_offload (s : State) (r : SuitRef) (kern : Nat) (pos : Pos) (ls : List Nat) :
    (s.offload r.hr kern pos ls).trapReady r = s.trapReady r := by
  unfold State.offload
  refine s.trapReady_modHand r (fun d => ?_)
  split
  · exact Hand.ctx_modLanes ..
  · exact Hand.ctx_modLanes ..

theorem PutAside.offload {s : State} {r : SuitRef} (kern : Nat) (pos : Pos) {ls : List Nat} (hn : ls.Nodup)
    (hsuit : ((s.hand r.hr).suit r.suit).isSome = true) : PutAside s (s.offload r.hr kern pos ls) r pos ls := by
  obtain ⟨st, suits, hhand, hsuits, hst⟩ := s.hand_offload r.hr kern pos ls
  have hlane : ∀ l ∈ ls, ((s.offload r.hr kern pos ls).hand r.hr).lane l = { (s.hand r.hr).lane l with st := st, pos := pos } := fun l hl => by
    rw [hhand]
    exact Hand.lane_modLanes_of_mem hn hl ..
  refine ⟨fun _ _ => s.reg_modHand .., ?_, s.trapReady_offload r kern pos ls, ?_, fun l hl => ?_, fun l hl => ?_⟩
  · rw [hhand]
    exact Hand.ctx_modLanes ..
  · rw [hhand]
    exact hsuits r.suit hsuit
  · unfold State.lane
    rw [hhand]
    exact Hand.lane_modLanes_of_notMem hl ..
  · unfold Hand.standsApart
    rw [hlane l hl, hhand]
    obtain ⟨n, hfree, hactive, hnew⟩ | hheld := hst
    · have hne : n ≠ r.suit := fun e => by
        rw [← e, hfree] at hsuit
        exact nomatch hsuit
      exact .inl ⟨n, s.newSuit kern pos, hne, hactive, hnew, rfl⟩
    · exact .inr ⟨hheld, rfl⟩

/-! ## TRAP (07 R178) -/

/-- Lanes of an issue that do not execute. -/
def Iss.idle (x : Iss) : List Nat := x.act.filter (fun l => !x.ex.contains l)

theorem Iss.mem_idle {x : Iss} {l : Nat} : l ∈ x.idle ↔ l ∈ x.act ∧ l ∉ x.ex := by
  unfold Iss.idle
  simp

theorem State.idle_nodup (s : State) (g : Grd) : (s.issuing g).idle.Nodup := (Hand.active_nodup ..).filter _

/-- What TRAP does before the entry: the executing lanes are sealed, and the others are put aside at the next clause. -/
def Iss.parted (x : Iss) : State :=
  let s1 := x.s.sealLanes x.h x.ex
  if x.idle.isEmpty then s1 else s1.offload x.h x.u.kern x.fall x.idle

/-- What issue does when nothing holds back an instruction that ends its clause and names no register. -/
theorem issue_ends {g : Grd} {s : State} (k : Iss → State) (hc : s.clearAt g [] [] = true) (hp : s.noneParked = true) :
    issue { g := g, major := 0x0f, ends := true } s k = .next (k (s.issuing g)) :=
  issue_goes _ s k hc (fun _ => hp) (fun h => nomatch h) (fun h => nomatch h) (decide_eq_true (Nat.zero_le _)) rfl (fun _ h => nomatch h)

theorem exec_trap_in_no_lane {s : State} {g : Grd} (code : Nat) (hc : s.clearAt g [] [] = true) (hp : s.noneParked = true)
    (ht : (s.issuing g).u.trap = none) (he : (s.issuing g).ex = []) :
    exec (.trap g code) s = .next (s.moveTo s.cur (Pos.at_ (s.issuing g).nextClause)) := by
  change execTrap g code s = _
  unfold execTrap
  rw [issue_ends _ hc hp, ht, he, Option.isSome_none, if_neg Bool.false_ne_true, if_pos List.isEmpty_nil]
  rfl

theorem exec_trap_enters {s : State} {g : Grd} (code : Nat) (hc : s.clearAt g [] [] = true) (hp : s.noneParked = true)
    (ht : (s.issuing g).u.trap = none) (he : (s.issuing g).ex ≠ []) :
    exec (.trap g code) s = .next ((s.issuing g).parted.trapEntry s.cur 1 code (s.issuing g).ex (s.issuing g).ex
      (Pos.at_ (s.issuing g).nextClause) 0 0) := by
  change execTrap g code s = _
  unfold execTrap
  rw [issue_ends _ hc hp, ht, List.isEmpty_eq_false_iff.mpr he, Option.isSome_none, if_neg Bool.false_ne_true, if_neg Bool.false_ne_true]
  rfl

/-- Whether lanes are sealed is no matter to the hand's suits, nor to an entry into trap mode. -/
theorem State.trapReady_sealLanes (s : State) (r : SuitRef) (ls : List Nat) : (s.sealLanes r.hr ls).trapReady r = s.trapReady r :=
  s.trapReady_modHand r (fun _ => Hand.ctx_modLanes ..)

theorem State.hand_sealLanes (s : State) (h : HandRef) (ls : List Nat) :
    (s.sealLanes h ls).hand h = (s.hand h).modLanes ls (fun _ l => { l with isSealed := true }) := s.hand_modHand ..

theorem State.parted_putAside {s : State} {g : Grd} (hsuit : ((s.hand s.cur.hr).suit s.cur.suit).isSome = true) :
    PutAside (s.sealLanes s.cur.hr (s.issuing g).ex) (s.issuing g).parted s.cur (Pos.at_ (s.issuing g).nextClause) (s.issuing g).idle := by
  have hoccupied : (((s.sealLanes s.cur.hr (s.issuing g).ex).hand s.cur.hr).suit s.cur.suit).isSome = true := by
    rw [State.hand_sealLanes, Hand.suit_modLanes, hsuit]
  unfold Iss.parted
  dsimp only
  split
  · next h =>
    rw [List.isEmpty_iff.mp h]
    exact .nil ..
  · exact .offload _ _ (s.idle_nodup g) hoccupied

/-- A suit that enters trap mode from a state which differs by the seals of the lanes that enter. -/
theorem EnteredTrap.of_sealed {s m t : State} {r : SuitRef} {u : Suit} {kind : Nat} {amask : List Nat} {tpc : Pos}
    (e : EnteredTrap m t r u kind amask tpc) (hctx : (m.hand r.hr).ctx = (s.hand r.hr).ctx) (hreg : ∀ c prn, m.reg c prn = s.reg c prn)
    (hl : ∀ l ∈ amask, m.lane r.hr l = { s.lane r.hr l with isSealed := true }) : EnteredTrap s t r u kind amask tpc where
  lanes := fun l h => by
    have hlane := e.lanes l h
    rw [hl l h, hctx, hreg] at hlane
    exact hlane
  suit := by rw [e.suit, hctx, hreg]
  tail := by rw [← hctx, e.tail, hreg]

theorem trap_enters {s : State} {g : Grd} (code : Nat) (hc : s.clearAt g [] [] = true) (hp : s.noneParked = true)
    (ht : (s.issuing g).u.trap = none) (he : (s.issuing g).ex ≠ []) (hready : s.trapReady s.cur = true) :
    ∃ t, exec (.trap g code) s = .next t ∧
      EnteredTrap s t s.cur (s.issuing g).u 1 (s.issuing g).ex (Pos.at_ (s.issuing g).nextClause) ∧
      ∀ l ∈ (s.issuing g).act, l ∉ (s.issuing g).ex → t.standsAt s.cur.hr l = some (Pos.at_ (s.issuing g).nextClause) := by
  have hsuit := State.clearAt_suit hc
  have hparted := State.parted_putAside (g := g) hsuit
  have hsealed := s.hand_sealLanes s.cur.hr (s.issuing g).ex
  have hu : ((s.issuing g).parted.hand s.cur.hr).suit s.cur.suit = some (s.issuing g).u := by
    rw [hparted.suit, hsealed, Hand.suit_modLanes]
    exact s.issuing_suit g hsuit
  have hr : (s.issuing g).parted.trapReady s.cur = true := by rw [hparted.ready, State.trapReady_sealLanes, hready]
  obtain ⟨hentered, hlanes, hsuits⟩ := State.trapEntry_enters 1 code (s.issuing g).ex (Pos.at_ (s.issuing g).nextClause) 0 0
    (s.issuing_nodup g) hu ht hr
  refine ⟨_, exec_trap_enters code hc hp ht he, hentered.of_sealed ?_ (fun c prn => ?_) (fun l hl => ?_), fun l hact hex => ?_⟩
  · rw [hparted.ctx, hsealed, Hand.ctx_modLanes]
  · exact (hparted.reg c prn).trans (s.reg_modHand ..)
  · rw [hparted.others l (fun h => (Iss.mem_idle.mp h).2 hl)]
    unfold State.lane
    rw [hsealed, Hand.lane_modLanes_of_mem (s.issuing_nodup g) hl]
  · exact (hparted.aside l (Iss.mem_idle.mpr ⟨hact, hex⟩)).standsAt (hlanes l hex) hsuits

theorem trap_ends_clause {s : State} {g : Grd} (code : Nat) (hc : s.clearAt g [] [] = true) (hp : s.noneParked = true)
    (ht : (s.issuing g).u.trap = none) (he : (s.issuing g).ex = []) :
    ∃ t, exec (.trap g code) s = .next t ∧ WithinHand s t s.cur.hr ∧ (∀ l, t.lane s.cur.hr l = s.lane s.cur.hr l) ∧
      ((t.hand s.cur.hr).suit s.cur.suit).map Suit.pos = some (Pos.at_ (s.issuing g).nextClause) := by
  refine ⟨_, exec_trap_in_no_lane code hc hp ht he, .modSuit s s.cur _, fun l => s.lane_modSuit s.cur _ l, ?_⟩
  have hu : (s.hand s.cur.hr).suit s.cur.suit = some (s.issuing g).u := s.issuing_suit g (State.clearAt_suit hc)
  unfold State.moveTo State.modSuit
  rw [State.hand_modHand, Hand.suit_modSuit, hu]
  rfl

/-! ## TRET (07 R179, 22 R382) -/

theorem exec_tret {s : State} {p : TrapSt} (hc : s.clearAt Grd.always [] [] = true) (hp : s.noneParked = true)
    (ht : (s.issuing Grd.always).u.trap = some p) : exec .tret s = .next (s.trapReturn s.cur p) := by
  change execTret s = _
  unfold execTret
  dsimp only
  rw [issue_ends _ hc hp, ht]
  rfl

theorem WithinHand.trapReturn (s : State) (r : SuitRef) (p : TrapSt) : WithinHand s (s.trapReturn r p) r.hr := by
  unfold State.trapReturn
  exact (WithinHand.modHand s r.hr _).trans (.modSuit _ r _)

/-- A lane that leaves trap mode: its last results are those set aside at its entry. -/
def Lane.returned (l : Lane) : Lane :=
  match l.saved with
  | some (a, ap, b, bp) => { l with l0 := a, l0p := ap, l1 := b, l1p := bp, saved := none }
  | none => l

/-- A suit that leaves trap mode. -/
def Suit.returned (p : TrapSt) (u : Suit) : Suit := { u with pos := p.tpc, stall := .ready, wait := 0, trap := none }

theorem State.hand_trapReturn (s : State) (r : SuitRef) (p : TrapSt) :
    (s.trapReturn r p).hand r.hr =
      ((s.hand r.hr).modLanes ((s.hand r.hr).active r.suit) (fun _ => Lane.returned)).modSuit r.suit (Suit.returned p) := by
  unfold State.trapReturn State.modSuit
  rw [State.hand_modHand, State.hand_modHand]
  rfl

theorem State.lane_trapReturn (s : State) (r : SuitRef) (p : TrapSt) (l : Nat) :
    (s.trapReturn r p).lane r.hr l = if l ∈ (s.hand r.hr).active r.suit then (s.lane r.hr l).returned else s.lane r.hr l := by
  unfold State.lane
  rw [State.hand_trapReturn, Hand.lane_modSuit]
  split
  · next h => exact Hand.lane_modLanes_of_mem (Hand.active_nodup ..) h ..
  · next h => exact Hand.lane_modLanes_of_notMem h ..

theorem Hand.pegs_modSuit (d : Hand) (n : Nat) (f : Suit → Suit) : (d.modSuit n f).pegs = d.pegs :=
  (congrArg Hand.pegs (Hand.modSuit_rest d n f) :)

theorem tret_returns {s : State} {p : TrapSt} (hc : s.clearAt Grd.always [] [] = true) (hp : s.noneParked = true)
    (ht : (s.issuing Grd.always).u.trap = some p) :
    ∃ t, exec .tret s = .next t ∧ WithinHand s t s.cur.hr ∧ (t.hand s.cur.hr).pegs = (s.hand s.cur.hr).pegs ∧
      (t.hand s.cur.hr).suit s.cur.suit = some ((s.issuing Grd.always).u.returned p) ∧
      ∀ l, t.lane s.cur.hr l = if l ∈ (s.issuing Grd.always).act then (s.lane s.cur.hr l).returned else s.lane s.cur.hr l := by
  have hu : (s.hand s.cur.hr).suit s.cur.suit = some (s.issuing Grd.always).u := s.issuing_suit _ (State.clearAt_suit hc)
  refine ⟨_, exec_tret hc hp ht, .trapReturn .., ?_, ?_, fun l => s.lane_trapReturn s.cur p l⟩
  · rw [State.hand_trapReturn, Hand.pegs_modSuit, Hand.pegs_modLanes]
  · rw [State.hand_trapReturn, Hand.suit_modSuit, Hand.suit_modLanes, hu]
    rfl

/-- Settles O34: TRAP ends its clause or enters trap mode from the state in which the other lanes are put aside, and TRET gives back
what the entry set aside (07 R178, R179, 22 R381, R382). -/
theorem trapAndReturnComplete : Obligations.TrapAndReturnComplete := by
  refine ⟨fun s g code hc hp ht => ⟨trap_ends_clause code hc hp ht, trap_enters code hc hp ht⟩, fun s p hc hp ht => ?_⟩
  obtain ⟨t, hexec, hwithin, hpegs, hsuit, hlanes⟩ := tret_returns hc hp ht
  refine ⟨t, hexec, hwithin, hpegs, hsuit, fun l => ?_⟩
  rw [hlanes l]
  unfold Lane.returned
  cases (s.lane s.cur.hr l).saved with
  | none => exact ite_self _
  | some _ => rfl

end Sys2Proof.Machine
